-- ==== Sys2Proof/Word.lean ====
section
/-! DEFINITION. The two word types of the part's interfaces: a byte of a site-bus frame (R192) and the
16-bit raw reading of the converter (R49). Every other quantity of the manual is an integer in a fixed unit. -/

namespace Sys2Proof

/-- One byte of a frame's payload, and a kind code (section 11.8). -/
abbrev Byte := BitVec 8

/-- One raw reading of the 16-bit converter (R49). -/
abbrev RawWord := BitVec 16

end Sys2Proof
end

