-- ==== Sys2Proof/Config.lean ====
section
/-! DEFINITION. The capacities the manual fixes, and the free values: constants without a body, so that nothing
can be proved of the value the manual leaves open. -/

namespace Sys2Proof.Config

/-- FREE VALUE. The n-th number the manual leaves open; `State.freeIdx` says which n is next (log 3). It gives the
number of continuation frames of a read whose bytes the manual does not lay out (log 7) and the due time of a
settlement past the clock's range (log 13). -/
opaque freeNat : Nat → Nat

/-- FREE VALUE. The n-th yes-or-no the manual leaves open (log 3): whether a reset tears the reset-cause record
that start-up was about to write (log 12). -/
opaque freeBool : Nat → Bool

/-- FREE VALUE. Whether the write of the reset-cause record is in progress when POWER_WARNING is raised before its
completion: the manual does not say when start-up begins it (R184, R190). Applied to the number of the start-up
(`State.freeIdx`, which every reset advances) and the sample sets taken since it, so that each raising has its own
value (log 12). -/
opaque causeBegun : Nat → Nat → Bool

/-- FREE CHOICE OF READING. Whether Advance judges a faulted jack group before PAUSED. The check order of R125 puts
PAUSED first, while R140, R141 and the table of section 3.4 answer SENSOR_FAULT although the fault has dropped JACK
(R121): the manual disagrees with itself, and the model takes neither side (log 38). -/
opaque faultBeforePaused : Bool

/-- The anchor table holds at most 512 records (R2). -/
def maxAnchors : Nat := 512

/-- The reading pool holds 8192 entries (R158). -/
def poolSize : Nat := 8192

/-- The section table holds 64 records (R29). -/
def sectionCapacity : Nat := 64

/-- The largest works-clock value (R63). -/
def maxClock : Nat := 4294967295

/-- The inbound queue holds at most four requests (R192). -/
def inboundRoom : Nat := 4

/-- The notice queue holds at most eight notices (R192). -/
def noticeRoom : Nat := 8

/-- A history holds at most eight calibrated samples (R52). -/
def historyLength : Nat := 8

/-- One second is one hundred sample periods (chapter 3, opening text; R54). -/
def periodsPerSecond : Nat := 100

/-- The paid-out length is clamped to 0..80000 mm (R60). -/
def maxPaidOut : Nat := 80000

/-- A 16-bit count saturates here (R61, R62). -/
def maxCount16 : Nat := 65535

/-- An event count saturates here (R69, R83). -/
def maxCount8 : Nat := 255

end Sys2Proof.Config
end

