-- ==== Sys2Proof/Syntax.lean ====
section
/-! DEFINITION. The commands of the part: one constructor per row of spec/opcode_table.json, with the operands each
event carries, and the small name types they need. -/

namespace Sys2Proof

/-- The four site-bus ports (R192). -/
inductive Port
  | p1 | p2 | p3 | p4
  deriving DecidableEq, Repr

/-- The two grout lines (chapter 5). -/
inductive GLine
  | a | b
  deriving DecidableEq, Repr

/-- The seven analogue channels, in the number order of R49. -/
inductive Channel
  | load | jackPress | extA | extB | groutPressA | groutPressB | winchTension
  deriving DecidableEq, Repr

/-- The four watch channels W1..W4 (R163). -/
inductive WatchId
  | w1 | w2 | w3 | w4
  deriving DecidableEq, Repr

/-- A fault: a kind on its subject (R53). EXT_DISAGREE stands on EXTENSION and LOAD_DISAGREE on LOAD_CHECK. -/
inductive FaultId
  | notReady (c : Channel)
  | overRange (c : Channel)
  | extDisagree
  | loadDisagree
  deriving DecidableEq, Repr

/-- The two directions of a quadrature step of WINCH_ENC (R60). -/
inductive WinchDir
  | payOut | haulIn
  deriving DecidableEq, Repr

/-- One value for each analogue channel. -/
structure PerChannel (α : Type) where
  load : α
  jackPress : α
  extA : α
  extB : α
  groutPressA : α
  groutPressB : α
  winchTension : α
  deriving DecidableEq, Repr

/-- What one sample period brings in: the seven raw readings (R49) and the supply, in 0.1 V (R66). -/
structure SampleIn where
  raw : PerChannel RawWord
  supply : Nat
  deriving DecidableEq, Repr

/-- A frame as it arrives on a port: the form of its identifier, its class and kind code (section 11.8), and its
payload. -/
structure RxFrame where
  extended : Bool
  remote : Bool
  cls : BitVec 3
  kind : Byte
  payload : List Byte
  deriving DecidableEq, Repr

/-- The events in which watch channels evaluate (R164, R165): a sample set, the second of the flow rates, a taken
Report Deflection (port and payload), the second of the RISE_OVER evaluation. -/
inductive Trigger
  | sample (x : SampleIn)
  | flowRate
  | report (p : Port) (pl : List Byte)
  | rise
  deriving DecidableEq, Repr

/-- The commands. A request row is the TAKING (R194) of the frame with this payload by this port. A row that names
what comes about in a sample set carries that sample set. -/
inductive Instr
  | identify (p : Port) (pl : List Byte)
  | readStatus (p : Port) (pl : List Byte)
  | readAnchor (p : Port) (pl : List Byte)
  | readSection (p : Port) (pl : List Byte)
  | readSession (p : Port) (pl : List Byte)
  | clearPortFlags (p : Port) (pl : List Byte)
  | unknownRequestTaken (p : Port) (kind : Byte) (pl : List Byte)
  | tendonStart (p : Port) (pl : List Byte)
  | tendonDone (p : Port) (pl : List Byte)
  | tendonWithdraw (p : Port) (pl : List Byte)
  | injectStart (p : Port) (pl : List Byte)
  | injectEnd (p : Port) (pl : List Byte)
  | stressOpen (p : Port) (pl : List Byte)
  | advance (p : Port) (pl : List Byte)
  | release (p : Port) (pl : List Byte)
  | stressAbort (p : Port) (pl : List Byte)
  | stopSession (p : Port) (pl : List Byte)
  | defineAnchor (p : Port) (pl : List Byte)
  | setAnchorGeometry (p : Port) (pl : List Byte)
  | deleteAnchor (p : Port) (pl : List Byte)
  | abandonAnchor (p : Port) (pl : List Byte)
  | retestAnchor (p : Port) (pl : List Byte)
  | settleAnchor (p : Port) (pl : List Byte)
  | setHold (p : Port) (pl : List Byte)
  | releaseHold (p : Port) (pl : List Byte)
  | openZone (p : Port) (pl : List Byte)
  | closeZone (p : Port) (pl : List Byte)
  | reportDeflection (p : Port) (pl : List Byte)
  | setClock (p : Port) (pl : List Byte)
  | setParameter (p : Port) (pl : List Byte)
  | setSection (p : Port) (pl : List Byte)
  | setCalibration (p : Port) (pl : List Byte)
  | writeStep (p : Port) (pl : List Byte)
  | setScheduleHead (p : Port) (pl : List Byte)
  | watchConfigure (p : Port) (pl : List Byte)
  | watchThreshold (p : Port) (pl : List Byte)
  | watchEnable (p : Port) (pl : List Byte)
  | watchDisable (p : Port) (pl : List Byte)
  | watchRearm (p : Port) (pl : List Byte)
  | restart (p : Port) (pl : List Byte)
  | frameReceived (p : Port) (f : RxFrame)
  | frameSent (p : Port)
  | busOffEntered (p : Port)
  | busOffRecovered (p : Port)
  | sampleSet (x : SampleIn)
  | notReadyCleared (c : Channel) (x : SampleIn)
  | faultCleared (f : FaultId) (x : SampleIn)
  | rigLimitLatchSet (x : SampleIn)
  | groutLimitLatchSet (l : GLine) (x : SampleIn)
  | refusalReached (l : GLine) (x : SampleIn)
  | holdPointReading (x : SampleIn)
  | holdVoid (x : SampleIn)
  | watchStepTrip (w : WatchId) (t : Trigger)
  | watchActionTrip (w : WatchId) (t : Trigger)
  | chainLapse
  | riseOverEvaluation
  | flowRateUpdate
  | passEntryRefresh (l : GLine)
  | sectionStale (sect : Nat)
  | worksClockSecond
  | clockMarkDue
  | cureExpiry
  | winchEncStep (d : WinchDir)
  | flowPulse (l : GLine)
  | valveChanged (l : GLine) (asserted : Bool)
  | powerWarningRaised (supply : Nat)
  | powerWarningCleared (x : SampleIn)
  | itemWriteBegin
  | itemWriteComplete
  | warningMarkWritten
  | powerOnReset
  | resetLineReset
  | restartReset
  | resetCauseWritten
  deriving DecidableEq, Repr

end Sys2Proof
end

