-- ==== Sys2Proof/Decode.lean ====
section
/-! DEFINITION. The words of the opcode table: spec/opcode_table.json gives no row any bits, so no word spells a
command (log 20). The payload of a request frame is read by Sys2Proof/Machine/Operands.lean. -/

namespace Sys2Proof

/-- The command that a word of the table's bits spells: none, because no row of the table gives bits (log 20). -/
def decodeTableWord (nbits w : Nat) : Option Instr :=
  match nbits, w with
  | _, _ => none

end Sys2Proof
end

