-- ==== Sys2Proof/Machine/State.lean ====
section
/-! DEFINITION. Every piece of state the manual gives the part, as plain data, and State.reset. -/

namespace Sys2Proof.Machine

/-! ## One value per port, line, channel -/

/-- One value for each port. -/
structure PerPort (α : Type) where
  p1 : α
  p2 : α
  p3 : α
  p4 : α
  deriving DecidableEq, Repr

/-- One value for each grout line. -/
structure PerLine (α : Type) where
  a : α
  b : α
  deriving DecidableEq, Repr

/-- One value for each watch channel. -/
structure PerWatch (α : Type) where
  w1 : α
  w2 : α
  w3 : α
  w4 : α
  deriving DecidableEq, Repr

/-- The four permit lines (R176). -/
inductive PLine
  | rig | groutA | groutB | jack
  deriving DecidableEq, Repr

/-- One value for each permit line. -/
structure PerPermit (α : Type) where
  rig : α
  groutA : α
  groutB : α
  jack : α
  deriving DecidableEq, Repr

/-- The three test classes (R3). -/
inductive TestClass
  | acceptance | suitability | investigation
  deriving DecidableEq, Repr

/-- One value for each test class. -/
structure PerClass (α : Type) where
  acceptance : α
  suitability : α
  investigation : α
  deriving DecidableEq, Repr

/-! ## The anchor table (chapter 1) -/

/-- An anchor's identity: section 1..64, tier 1..8, slot 1..8 (R1). -/
structure AnchorId where
  sect : Nat
  tier : Nat
  slot : Nat
  deriving DecidableEq, Repr

/-- The fifteen stages (section 1.2). -/
inductive Stage
  | planned | tendonRunning | tendonPlaced | tendonRejected | grouting | groutShort | groutInterrupted | curing
  | stressable | stressing | stressInterrupted | failed | lockedOff | abandoned | suspect
  deriving DecidableEq, Repr

/-- Zone, test class and loads of an anchor (R3). -/
structure Design where
  zone : Nat
  cls : TestClass
  dwl : Nat
  tl : Nat
  ll : Nat
  deriving DecidableEq, Repr

/-- The geometry of an anchor (R3, R6). -/
structure Geometry where
  ea : Nat
  lfree : Nat
  lbond : Nat
  minVolume : Nat
  deriving DecidableEq, Repr

/-- The tendon record (R12). -/
structure TendonRecord where
  length : Nat
  peak : Nat
  limitEvents : Nat
  time : Nat
  deriving DecidableEq, Repr

/-- The three kinds of pass (R13). -/
inductive PassKind
  | primary | topUp | post
  deriving DecidableEq, Repr

/-- One entry of the grout pass list (R13); `stop` is its end time, absent while the pass runs. -/
structure PassEntry where
  kind : PassKind
  line : GLine
  start : Nat
  stop : Option Nat
  volume : Nat
  peak : Nat
  limitEvents : Nat
  refusal : Bool
  deriving DecidableEq, Repr

/-- The seven verdicts (R14). -/
inductive Verdict
  | pass | failCreep | failFreeLengthLow | failFreeLengthHigh | failNotEvaluable | failHoldUnstable | failLockoff
  deriving DecidableEq, Repr

/-- The test stamp: the anchor's test number and the time of the accepted Stress Open (R14). -/
structure TestStamp where
  number : Nat
  time : Nat
  deriving DecidableEq, Repr

/-- One place of a reading list: a pool index (R14), or a lost place, which names no entry (R189). -/
inductive ListPlace
  | entry (index : Nat)
  | lost
  deriving DecidableEq, Repr

/-- The test result (R14). -/
structure TestResult where
  verdict : Option Verdict
  lapp : Option Nat
  creep : Option Int
  plock : Option Nat
  plift : Option Nat
  loss : Option Int
  readings : List ListPlace
  stamp : TestStamp
  deriving DecidableEq, Repr

/-- One anchor record (R1), and the number of the image slot that holds it in the store (R181). -/
structure AnchorRec where
  id : AnchorId
  imageSlot : Nat
  design : Option Design
  geometry : Option Geometry
  stage : Stage
  tendon : Option TendonRecord
  passes : List PassEntry
  cureDue : Option Nat
  result : Option TestResult
  reserved : Nat
  reason : Nat
  testNumber : Nat
  deriving DecidableEq, Repr

/-- One place of the cure list: its due time and its anchor (R23). -/
structure CureEntry where
  due : Nat
  id : AnchorId
  deriving DecidableEq, Repr

/-! ## The section table (chapter 2) -/

/-- The sources of a hold record, in the order of R33. -/
inductive HoldSource
  | survey | deflection | watch1 | watch2 | watch3 | watch4 | store
  deriving DecidableEq, Repr

/-- The levels of a hold record, in rising order (R33). An absent level is NONE (R34). -/
inductive HoldLevel
  | advisory | stopNew | stopAll
  deriving DecidableEq, Repr

/-- A hold record (R33). -/
structure Hold where
  source : HoldSource
  level : HoldLevel
  time : Nat
  reason : Option Nat
  deriving DecidableEq, Repr

/-- The last deflection of a section: its value and its time (R29). -/
structure Deflection where
  value : Int
  time : Nat
  deriving DecidableEq, Repr

/-- The persistent fields of a section record (R29). `counts` holds the locked-off count of each tier, tier 1
first; `holds` stands in the source order of R33. -/
structure SectionData where
  pressLimit : Nat
  refusalPress : Nat
  deflLimit : Nat
  lastDeflection : Option Deflection
  counts : List Nat
  holds : List Hold
  deriving DecidableEq, Repr

/-- A section record: its persistent fields, its report age and its stale flag (R29). -/
structure SectionRec where
  data : SectionData
  age : Option Nat
  stale : Bool
  deriving DecidableEq, Repr

/-- The defaults of R29. -/
def SectionData.default : SectionData :=
  { pressLimit := 1500, refusalPress := 1200, deflLimit := 0, lastDeflection := none,
    counts := [0, 0, 0, 0, 0, 0, 0, 0], holds := [] }

/-- A section record as every reset leaves its volatile fields (R29), over the defaults. -/
def SectionRec.default : SectionRec := { data := SectionData.default, age := none, stale := true }

/-! ## The configuration block (R180) -/

/-- The 22 parameters, in the number order of R206. -/
structure Params where
  sectionCount : Nat
  curePeriod : Nat
  windowMin : Nat
  windowMax : Nat
  jacking : Nat
  tendonTol : Nat
  winchLimit : Nat
  stalePeriod : Nat
  reachBand : Nat
  holdBand : Nat
  offBandVoid : Nat
  pauseVoid : Nat
  reholdMax : Nat
  liftThreshold : Nat
  liftTol : Nat
  relockMax : Nat
  freeLower : Nat
  bondShare : Nat
  extDisagree : Nat
  loadTol : Nat
  stagger : Nat
  chainMode : Nat
  deriving DecidableEq, Repr

/-- The parameter defaults (R30, R43, R46, R56, R57, R70, R84, R116, R167). -/
def Params.default : Params :=
  { sectionCount := 16, curePeriod := 1440, windowMin := 720, windowMax := 2160, jacking := 150, tendonTol := 200,
    winchLimit := 400, stalePeriod := 300, reachBand := 10, holdBand := 20, offBandVoid := 60, pauseVoid := 600,
    reholdMax := 2, liftThreshold := 20, liftTol := 50, relockMax := 2, freeLower := 900, bondShare := 500,
    extDisagree := 50, loadTol := 50, stagger := 1, chainMode := 0 }

/-- A calibration record (R50). -/
structure Calibration where
  zero : Nat
  span : Nat
  deriving DecidableEq, Repr

/-- The sources a watch channel may compare (R163). -/
inductive WatchSource
  | load | jackPress | extension | groutPressA | groutPressB | flowRateA | flowRateB | winchTension
  | deflection (sect : Nat)
  deriving DecidableEq, Repr

/-- The comparison kinds (R163). -/
inductive CmpKind
  | above | below | outside | riseOver
  deriving DecidableEq, Repr

/-- A threshold: one value, or lo and hi (R163). -/
inductive Threshold
  | one (t : Int)
  | two (lo hi : Int)
  deriving DecidableEq, Repr

/-- The configuration of a watch channel (R163). The rise window is held for RISE_OVER alone; an absent level or
drop line is NONE. -/
structure WatchConfig where
  source : WatchSource
  kind : CmpKind
  riseWindow : Option Nat
  threshold : Threshold
  persistence : Nat
  level : Option HoldLevel
  drop : Option PLine
  chainWindow : Nat
  deriving DecidableEq, Repr

/-- The configuration of every channel on a blank store (R163). -/
def WatchConfig.default : WatchConfig :=
  { source := .load, kind := .above, riseWindow := none, threshold := .one 30000, persistence := 1, level := none,
    drop := none, chainWindow := 0 }

/-- The content of the configuration block: parameters (the watch chain mode among them), calibrations, zone permit
set and watch configurations (R180). -/
structure ConfigData where
  params : Params
  cals : PerChannel Calibration
  zones : List Bool
  watch : PerWatch WatchConfig
  deriving DecidableEq, Repr

/-- The defaults of the configuration block: R40, R50, R163 and the parameter defaults. -/
def ConfigData.default : ConfigData :=
  { params := Params.default
    cals :=
      { load := { zero := 0, span := 30000 }, jackPress := { zero := 0, span := 8000 },
        extA := { zero := 0, span := 25000 }, extB := { zero := 0, span := 25000 },
        groutPressA := { zero := 0, span := 5000 }, groutPressB := { zero := 0, span := 5000 },
        winchTension := { zero := 0, span := 1000 } }
    zones := true :: List.replicate 15 false
    watch := { w1 := WatchConfig.default, w2 := WatchConfig.default, w3 := WatchConfig.default,
               w4 := WatchConfig.default } }

/-! ## The schedule table (chapter 6) -/

/-- A step record (R103). A fraction is in per mille; a hold's limit is in 0.01 mm; `next` is a step index, absent
for END. -/
inductive StepRec
  | datum (fraction : Nat) (next : Option Nat)
  | loadTo (fraction : Nat) (next : Option Nat)
  | hold (duration limit : Nat) (extendable : Bool) (next : Option Nat)
  | unloadTo (fraction : Nat) (next : Option Nat)
  | lockOff (next : Option Nat)
  | liftOff (next : Option Nat)
  | endStep
  deriving DecidableEq, Repr

/-- The seven step kinds (R103). -/
inductive StepKind
  | datum | loadTo | hold | unloadTo | lockOff | liftOff | endStep
  deriving DecidableEq, Repr

/-- The content of the schedule block: the 64 steps and the three heads, NONE absent (R104). -/
structure ScheduleData where
  steps : List StepRec
  heads : PerClass (Option Nat)
  deriving DecidableEq, Repr

/-- The blank schedule (R104). -/
def ScheduleData.blank : ScheduleData :=
  { steps := List.replicate 64 .endStep, heads := { acceptance := none, suitability := none, investigation := none } }

/-- The findings of a validation (R109, R110). -/
inductive Finding
  | noHead | tooLong | firstNotDatum | liftOffMisplaced | endMisplaced | datumRepeated | loadNotAbove | stackFull
  | cyclesFull | holdMisplaced | unloadNotBelow | unloadBelowDatum | lockOffMisplaced | noEvaluation | linkEnds
  deriving DecidableEq, Repr

/-- The result of a head's last validation (R105). -/
inductive HeadResult
  | valid (path : List Nat) (walkCount : Nat)
  | invalid (finding : Finding) (failingStep : Option Nat)
  deriving DecidableEq, Repr

/-! ## The measurement unit (chapter 3) -/

/-- A fault and the count of consecutive sample sets without its condition (R53, R54). -/
structure FaultState where
  present : Bool
  absent : Nat
  deriving DecidableEq, Repr

/-- A fault that is absent, with its count at 0 (R67). -/
def FaultState.clear : FaultState := { present := false, absent := 0 }

/-- One analogue channel: its history, oldest first, the count of samples taken since the history was last emptied, its
value, NOT_READY and OVER_RANGE (R52, R53). -/
structure ChannelState where
  history : List Nat
  taken : Nat
  value : Nat
  notReady : Bool
  overRange : FaultState
  deriving DecidableEq, Repr

/-- A channel with an emptied history (R52, R67). -/
def ChannelState.emptied : ChannelState :=
  { history := [], taken := 0, value := 0, notReady := true, overRange := FaultState.clear }

/-- The pulse inputs of one grout line: valve input, gated volume, the bin being filled, the ten bins oldest first,
the flow rate (R61, R62). -/
structure LineMeas where
  valve : Bool
  gated : Nat
  bin : Nat
  bins : List Nat
  rate : Nat
  deriving DecidableEq, Repr

/-- The pulse state of a line after a reset (R67), with the valve input as given. -/
def LineMeas.afterReset (valve : Bool) : LineMeas :=
  { valve := valve, gated := 0, bin := 0, bins := List.replicate 10 0, rate := 0 }

/-- The works clock (R63, R64, R65): the time while SET, the clock mark held, the sample periods of the present
second, and the seconds counted toward the 600th since the last Set Clock. -/
structure ClockState where
  time : Option Nat
  mark : Nat
  ticks : Nat
  markSeconds : Nat
  deriving DecidableEq, Repr

/-- The part's own time base: the sample periods of the present second, and the seconds that have come and whose
once-a-second event has not been taken yet (R62, R91, R165; log 6). -/
structure TimeBase where
  periods : Nat
  flowDue : Nat
  riseDue : Nat
  refreshDue : PerLine Nat
  deriving DecidableEq, Repr

/-- The supply monitor (R66): POWER_WARNING and the sample periods the supply has stood above 20.0 V. -/
structure SupplyState where
  warning : Bool
  above : Nat
  deriving DecidableEq, Repr

/-- The measurement unit. -/
structure Meas where
  chans : PerChannel ChannelState
  extension : Nat
  extDisagree : FaultState
  loadDisagree : FaultState
  paidOut : Nat
  lines : PerLine LineMeas
  deriving DecidableEq, Repr

/-- The measurement unit after a reset (R67), with the two valve inputs as they stand. -/
def Meas.afterReset (valves : PerLine Bool) : Meas :=
  { chans := { load := ChannelState.emptied, jackPress := ChannelState.emptied, extA := ChannelState.emptied,
               extB := ChannelState.emptied, groutPressA := ChannelState.emptied, groutPressB := ChannelState.emptied,
               winchTension := ChannelState.emptied }
    extension := 0, extDisagree := FaultState.clear, loadDisagree := FaultState.clear, paidOut := 0
    lines := { a := LineMeas.afterReset valves.a, b := LineMeas.afterReset valves.b } }

/-- The works clock after a reset (R63): UNSET, holding the mark read. -/
def ClockState.afterReset (mark : Nat) : ClockState := { time := none, mark := mark, ticks := 0, markSeconds := 0 }

/-- The time base after a reset: the second starts afresh and none is due. The manual gives the time base no phase after
a reset: DESIGN CHOICE (log 34). -/
def TimeBase.afterReset : TimeBase := { periods := 0, flowDue := 0, riseDue := 0, refreshDue := { a := 0, b := 0 } }

/-! ## The rig monitor and the grout monitor (chapters 4 and 5) -/

/-- The tendon context (R69). -/
structure TendonCtx where
  anchor : AnchorId
  start : Nat
  designLength : Nat
  tolerance : Nat
  tensionLimit : Nat
  releaseLevel : Nat
  peak : Nat
  overCount : Nat
  latch : Bool
  limitEvents : Nat
  deriving DecidableEq, Repr

/-- The context of a grout line (R83). -/
structure LineCtx where
  anchor : AnchorId
  kind : PassKind
  position : Nat
  pressLimit : Nat
  releaseLevel : Nat
  refusalPress : Nat
  peak : Nat
  overCount : Nat
  latch : Bool
  limitEvents : Nat
  refusalCount : Nat
  refusalReached : Bool
  deriving DecidableEq, Repr

/-! ## The stressing engine (chapter 7) -/

/-- The parameters a session captures (R116). -/
structure Captured where
  reachBand : Nat
  holdBand : Nat
  offBandVoid : Nat
  pauseVoid : Nat
  reholdMax : Nat
  liftThreshold : Nat
  liftTol : Nat
  relockMax : Nat
  freeLower : Nat
  bondShare : Nat
  deriving DecidableEq, Repr

/-- The datum frame (R122). -/
structure DatumFrame where
  fraction : Nat
  target : Nat
  load0 : Nat
  ext0 : Nat
  deriving DecidableEq, Repr

/-- A stage frame (R122). -/
structure StageFrame where
  fraction : Nat
  target : Nat
  cycle : Nat
  arrival : Nat
  holdReadings : List Nat
  critical : Bool
  creepExtended : Bool
  holdDone : Bool
  rehold : Nat
  ks : Option Int
  ks2 : Option Int
  deriving DecidableEq, Repr

/-- The hold context (R127): elapsed and the two counts are in sample periods, `nextPoint` is the number 1..9 of the
next reading point. -/
structure HoldCtx where
  duration : Nat
  limit : Nat
  extendable : Bool
  begun : Bool
  elapsed : Nat
  offBand : Nat
  pause : Nat
  nextPoint : Nat
  deriving DecidableEq, Repr

/-- The lift-off context (R133, R134). -/
structure LiftCtx where
  lowSeen : Bool
  ref : Option Nat
  deriving DecidableEq, Repr

/-- The phases (R120). A hold context is present in HOLDING alone, a lift-off context in LIFTOFF alone (R115). -/
inductive Phase
  | opened
  | approach
  | holding (h : HoldCtx)
  | releaseWait
  | liftoff (l : LiftCtx)
  deriving DecidableEq, Repr

/-- The session context (R115). `stages` holds the stage frames of the load-stage stack, top frame first, above the
datum frame. -/
structure Session where
  anchor : AnchorId
  cls : TestClass
  head : Nat
  step : Nat
  lockStep : Nat
  area : Nat
  captured : Captured
  phase : Phase
  datum : Option DatumFrame
  stages : List StageFrame
  cycles : Nat
  relocks : Nat
  reservation : Nat
  deriving DecidableEq, Repr

/-! ## The reading pool (chapter 8) -/

/-- The kinds of reading (R159). -/
inductive ReadingKind
  | datumArrival | loadArrival | holdPoint | unloadArrival | summary | lockArrival | release | liftOff
  deriving DecidableEq, Repr

/-- The fields a SUMMARY alone has (R159). -/
structure SummaryPart where
  target : Nat
  cycle : Nat
  ks : Option Int
  ks2 : Option Int
  rehold : Nat
  permanent : Option Int
  deriving DecidableEq, Repr

/-- The content of a reading entry (R159). -/
structure ReadingBody where
  kind : ReadingKind
  time : Nat
  load : Nat
  ext : Nat
  summary : Option SummaryPart
  deriving DecidableEq, Repr

/-- A USED entry: owner, position, test stamp and content; content absent in a torn entry (R159, R161). -/
structure PoolEntry where
  owner : AnchorId
  position : Nat
  stamp : TestStamp
  body : Option ReadingBody
  deriving DecidableEq, Repr

/-- A numbered entry of a sparse table. -/
structure Slot (α : Type) where
  index : Nat
  val : α
  deriving DecidableEq, Repr

/-- The reading pool (R158): the RESERVED indices and the USED entries, each in rising index order. Every other
index of 0..8191 is FREE. -/
structure Pool where
  reserved : List Nat
  used : List (Slot PoolEntry)
  deriving DecidableEq, Repr

/-! ## The watch unit (chapter 9) -/

/-- The volatile state of a watch channel (R163). SWAP_PENDING is set while a staged threshold is held. -/
structure WatchState where
  enabled : Bool
  armed : Bool
  tripped : Bool
  staged : Option Threshold
  count : Nat
  window : Option Nat
  history : List Int
  latch : Bool
  deriving DecidableEq, Repr

/-- A channel's state after every reset (R163). -/
def WatchState.afterReset : WatchState :=
  { enabled := false, armed := false, tripped := false, staged := none, count := 0, window := none, history := [],
    latch := false }

/-- The down causes of a permit line (R176). -/
inductive DownCause
  | idle | sectionStop | watchDrop | limit | sensor | busOff | power
  deriving DecidableEq, Repr

/-! ## Notices (R198, section 11.8) -/

/-- Why a hold was voided (R130). -/
inductive VoidCause
  | fault | pause | offBand
  deriving DecidableEq, Repr

/-- What SESSION_ENDED carries: a verdict and the relock count (R137), or a cause (R138). -/
inductive SessionEnd
  | verdict (v : Verdict) (relocks : Nat)
  | abort
  | stop
  deriving DecidableEq, Repr

/-- A phase as notices and answers name it (R120). -/
inductive PhaseName
  | opened | approach | holding | releaseWait | liftoff
  deriving DecidableEq, Repr

/-- The step a session stands at, as NEXT_STEP and the answers give it (R119, R120, R126): index, kind, target and
band where the step has them, and the phase. -/
structure StepInfo where
  step : Nat
  kind : StepKind
  target : Option Nat
  band : Option Nat
  phase : PhaseName
  deriving DecidableEq, Repr

/-- The subject of a LIMIT_EXCEEDED (R73, R88). -/
inductive LimitSubject
  | rig | groutA | groutB
  deriving DecidableEq, Repr

/-- The notices, one constructor per notice kind, in the order of the kind codes of section 11.8. -/
inductive Notice
  | stageChanged (a : AnchorId) (previous : Option Stage) (new : Stage)
  | holdChanged (sect : Nat) (source : HoldSource) (level : Option HoldLevel) (effective : Option HoldLevel)
  | permitChanged (l : PLine) (asserted : Bool) (causes : List DownCause)
  | nextStep (a : AnchorId) (info : StepInfo)
  | holdReading (a : AnchorId) (target point seconds load ext : Nat)
  | holdComplete (a : AnchorId) (target readings : Nat) (ks ks2 : Option Int) (rehold : Nat)
  | holdVoid (a : AnchorId) (target : Nat) (cause : VoidCause) (rehold : Nat)
  | liftoffCaptured (a : AnchorId) (plift ll relocks : Nat)
  | sessionEnded (a : AnchorId) (how : SessionEnd)
  | limitExceeded (subject : LimitSubject) (a : AnchorId) (value limit events : Nat)
  | refusalReached (l : GLine) (a : AnchorId) (value refusal gated : Nat)
  | sensorFault (f : FaultId) (raised : Bool)
  | watchTripped (w : WatchId) (action : Bool) (source : WatchSource) (value : Int) (sect : Option Nat)
      (level : Option HoldLevel) (drop : Option PLine)
  deriving DecidableEq, Repr

/-! ## The record store (chapter 10) -/

/-- The items of the record store that the write list can hold (R180, R182). -/
inductive Item
  | entry (index : Nat)
  | image (slot : Nat)
  | directory
  | sections
  | config
  | schedule
  | mark
  deriving DecidableEq, Repr

/-- One copy of the slot directory: its sequence number and the slots that are not FREE (R181). -/
structure DirCopy where
  seq : Nat
  slots : List (Slot AnchorId)
  deriving DecidableEq, Repr

/-- The three kinds of reset (R185). -/
inductive ResetKind
  | powerOn | resetLine | restart
  deriving DecidableEq, Repr

/-- The reset-cause record (R191). -/
structure CauseRecord where
  kind : ResetKind
  blank : Bool
  previousWarned : Bool
  torn : Nat
  interrupted : Nat
  configDefaulted : Bool
  deriving DecidableEq, Repr

/-- The stored reset-cause record and its warning mark (R184, R191). -/
structure StoredCause where
  record : CauseRecord
  mark : Bool
  deriving DecidableEq, Repr

/-- The record store (R180). An item that is absent here does not pass its check word: it was never written or is
torn. Images and reading entries are listed in rising slot and index order. -/
structure Store where
  images : List (Slot AnchorRec)
  dirFirst : Option DirCopy
  dirSecond : Option DirCopy
  sections : Option (List SectionData)
  config : Option ConfigData
  schedule : Option ScheduleData
  entries : List (Slot PoolEntry)
  mark : Option Nat
  cause : Option StoredCause
  deriving DecidableEq, Repr

/-- An item being written, with its content as it stood when the write began (R180). An image or an entry whose
subject is gone has no content (log 17). -/
inductive WriteJob
  | image (slot : Nat) (content : Option AnchorRec)
  | directory (first : Bool) (content : DirCopy)
  | sections (content : List SectionData)
  | config (content : ConfigData)
  | schedule (content : ScheduleData)
  | entry (index : Nat) (content : Option PoolEntry)
  | mark (content : Nat)
  deriving DecidableEq, Repr

/-- The writer (R183, R184). `noted` says that the item has changed since its write began; `marking` is the write of
the warning mark. -/
inductive Writer
  | idle
  | writing (job : WriteJob) (noted : Bool)
  | marking
  | held
  deriving DecidableEq, Repr

/-- The volatile state of the record store: the writer, the write list, whether this run has seen POWER_WARNING,
whether the warning mark is owed at the completion of the write in progress (R184), the record of the last start-up
and whether it is still to be written (R190, R191), whether POWER_WARNING was raised inside its write, which then runs to
its completion (R184, log 12), and whether the part drains for a RESTART (R186). -/
structure Recorder where
  writer : Writer
  list : List Item
  warned : Bool
  markOwed : Bool
  cause : CauseRecord
  causeDue : Bool
  causeOpen : Bool
  draining : Bool
  deriving DecidableEq, Repr

/-! ## Answers (R196) -/

/-- The answer codes, in the order of their values (R196). -/
inductive Code
  | done | malformed | unknownRequest | wrongRole | noSuchAnchor | alreadyDefined | registerFull | wrongStage
  | anchorActive | geometryUnset | badValue | rigBusy | lineBusy | sessionBusy | noSession | clockUnset
  | clockBackward | zoneClosed | sectionHeld | deflectionStale | stagger | windowClosed | passesFull
  | scheduleInvalid | scheduleInUse | poolExhausted | sensorFault | holdRunning | wrongPhase | paused
  | targetNotReached | configLocked | channelInUse | activeWork
  deriving DecidableEq, Repr

/-- The seven port flags (R192, R200). -/
structure PortFlags where
  malformed : Bool
  unknownRequest : Bool
  wrongRole : Bool
  unsolicited : Bool
  overrun : Bool
  noticeDropped : Bool
  linkLost : Bool
  deriving DecidableEq, Repr

/-- All seven flags clear (R192). -/
def PortFlags.clear : PortFlags :=
  { malformed := false, unknownRequest := false, wrongRole := false, unsolicited := false, overrun := false,
    noticeDropped := false, linkLost := false }

/-- A head's result as the answer to an edit gives it: VALID, or the finding and the failing step where there is one
(R114). -/
inductive HeadAnswer
  | valid
  | invalid (finding : Finding) (failingStep : Option Nat)
  deriving DecidableEq, Repr

/-- The state of one head as Read Status gives it: its index, its result, the walk count and the number of path steps of
a VALID head, and whether the open session walks it (R114). -/
structure HeadInfo where
  head : Option Nat
  result : HeadAnswer
  walkCount : Option Nat
  pathSteps : Option Nat
  walked : Bool
  deriving DecidableEq, Repr

/-- A reading as an answer gives it: kind, load, extension, time (R126, R133). -/
structure ReadingInfo where
  kind : ReadingKind
  load : Nat
  ext : Nat
  time : Nat
  deriving DecidableEq, Repr

/-- The answer data named by the requests' rules (R196). -/
inductive AnswerData
  | none
  | tendonDone (stage : Stage) (length difference : Nat)
  | injectEnd (stage : Stage) (volume : Nat) (cumulative : Option Nat) (due : Option Nat)
  | stressOpen (reserved step target band : Nat)
  | advance (reading : ReadingInfo) (at_ : Option StepInfo) (popped : Option Nat) (verdict : Option Verdict)
  | release (plock : Nat) (reading : ReadingInfo)
  | stage (new : Stage)
  | sectionLimits (pressLimit refusalPress deflLimit : Nat)
  | value (v : Nat)
  | calibration (zero span : Nat)
  | heads (r : PerClass HeadAnswer)
  | watchConfig (c : WatchConfig)
  | threshold (t : Threshold) (staged : Bool)
  | flags (f : PortFlags)
  deriving DecidableEq, Repr

/-- One reading as Read Anchor returns it: its position and its content, absent where torn (R28). -/
structure ReadingView where
  position : Nat
  body : Option ReadingBody
  deriving DecidableEq, Repr

/-- The test result fields as Read Anchor returns them (R28). -/
structure ResultView where
  verdict : Option Verdict
  lapp : Option Nat
  creep : Option Int
  plock : Option Nat
  plift : Option Nat
  loss : Option Int
  stamp : TestStamp
  deriving DecidableEq, Repr

/-- The content of Read Anchor, in the order of R28. -/
structure AnchorView where
  id : AnchorId
  stage : Stage
  reason : Nat
  design : Option Design
  geometry : Option Geometry
  cureDue : Option Nat
  reserved : Nat
  tendon : Option TendonRecord
  passes : List PassEntry
  result : Option ResultView
  readings : List ReadingView
  deriving DecidableEq, Repr

/-- The content of Read Section, in the order of R32. -/
structure SectionView where
  number : Nat
  inUse : Bool
  pressLimit : Nat
  refusalPress : Nat
  deflLimit : Nat
  lastDeflection : Option Deflection
  age : Option Nat
  stale : Bool
  counts : List Nat
  effective : Option HoldLevel
  holds : List Hold
  deriving DecidableEq, Repr

/-- One stage frame as Read Session returns it (R143). -/
structure FrameView where
  target : Nat
  cycle : Nat
  critical : Bool
  creepExtended : Bool
  holdDone : Bool
  rehold : Nat
  holdReadings : Nat
  ks : Option Int
  ks2 : Option Int
  deriving DecidableEq, Repr

/-- The hold context as Read Session returns it (R143), times in whole seconds. -/
structure HoldView where
  begun : Bool
  elapsed : Nat
  offBand : Nat
  pause : Nat
  nextPoint : Nat
  deriving DecidableEq, Repr

/-- The datum frame as Read Session returns it (R143). -/
structure DatumView where
  target : Nat
  load0 : Nat
  ext0 : Nat
  deriving DecidableEq, Repr

/-- The content of Read Session, in the order of R143. -/
structure SessionView where
  anchor : AnchorId
  cls : TestClass
  head : Nat
  info : StepInfo
  paused : Bool
  relocks : Nat
  reservation : Nat
  area : Nat
  captured : Captured
  datum : Option DatumView
  frames : List FrameView
  hold : Option HoldView
  lift : Option LiftCtx
  plock : Option Nat
  plift : Option Nat
  deriving DecidableEq, Repr

/-- One pulse line as Read Status returns it (R68). -/
structure LineView where
  valve : Bool
  gated : Nat
  rate : Nat
  deriving DecidableEq, Repr

/-- A running rig monitor as Read Status returns it (R81). -/
structure RunView where
  anchor : AnchorId
  start : Nat
  designLength : Nat
  tolerance : Nat
  tensionLimit : Nat
  releaseLevel : Nat
  peak : Nat
  latch : Bool
  limitEvents : Nat
  deriving DecidableEq, Repr

/-- A running grout line as Read Status returns it (R101). -/
structure PassView where
  anchor : AnchorId
  kind : PassKind
  position : Nat
  start : Option Nat
  pressLimit : Nat
  releaseLevel : Nat
  refusalPress : Nat
  peak : Nat
  latch : Bool
  limitEvents : Nat
  refusalCount : Nat
  refusalReached : Bool
  deriving DecidableEq, Repr

/-- One permit line as Read Status returns it (R179). -/
structure PermitView where
  asserted : Bool
  causes : List DownCause
  deriving DecidableEq, Repr

/-- The condition of the chain (R167, R179); NONE under mode 0. -/
inductive ChainCondition
  | none | waiting | advanced | complete
  deriving DecidableEq, Repr

/-- One watch channel as Read Status returns it (R179). -/
structure WatchView where
  config : WatchConfig
  enabled : Bool
  armed : Bool
  tripped : Bool
  swapPending : Bool
  staged : Option Threshold
  count : Nat
  window : Option Nat
  evaluating : Bool
  latch : Bool
  deriving DecidableEq, Repr

/-- The link states of a port (R192). -/
inductive LinkState
  | offBus | onBus | busOff
  deriving DecidableEq, Repr

/-- One port as Read Status returns it (R204). -/
structure PortView where
  link : LinkState
  flags : PortFlags
  inbound : Nat
  notices : Nat
  deriving DecidableEq, Repr

/-- The writer's state as Read Status returns it (R183). -/
inductive WriterName
  | idle | writing | held
  deriving DecidableEq, Repr

/-- The item being written as Read Status returns it (R183): an item of the list, or the warning mark. -/
inductive WrittenItem
  | item (i : Item)
  | warningMark
  deriving DecidableEq, Repr

/-- The eight parts of Read Status (R204). -/
inductive StatusPart
  | measurement (values : PerChannel Nat) (extension : Nat) (faults : List FaultId) (paidOut : Nat)
      (lines : PerLine LineView) (clock : Option Nat) (mark : Nat) (warning : Bool)
  | rig (run : Option RunView) (asserted : Bool)
  | grout (a b : Option PassView) (assertedA assertedB : Bool)
  | schedule (heads : PerClass HeadInfo)
  | pool (free reserved used : Nat) (worst : PerClass (Option Nat))
  | watch (mode : Nat) (chain : ChainCondition) (channels : PerWatch WatchView) (lines : PerPermit PermitView)
  | store (writer : WriterName) (item : Option WrittenItem) (listLength : Nat) (cause : CauseRecord)
  | ports (views : PerPort PortView) (zones : List Bool) (sectionCount : Nat)
  deriving DecidableEq, Repr

/-- The content of an accepted read or Identify (R196, R205). -/
inductive ReadContent
  | identify (vendor part revision anchors sections entries ports : Nat)
  | anchor (v : AnchorView)
  | sect (v : SectionView)
  | session (v : SessionView)
  | status (parts : List StatusPart)
  deriving DecidableEq, Repr

/-- What one continuation frame carries: the maker's codes and the capacities in the two frames of Identify (R205); of
every other read, its part of the composed content, whose bytes the manual does not lay out (log 7). -/
inductive FrameContent
  | maker (vendor part revision : Nat)
  | capacities (anchors sections entries ports : Nat)
  | portion (content : ReadContent)
  deriving DecidableEq, Repr

/-! ## The port units (chapter 11) -/

/-- A request frame: its kind code and payload (R192). -/
structure ReqFrame where
  kind : Byte
  payload : List Byte
  deriving DecidableEq, Repr

/-- A frame of an answer (R196): a single answer frame, the answer frame before a continuation, or a continuation
frame with its last flag, its index and what it carries. -/
inductive AnswerFrame
  | single (kind : Byte) (code : Code) (data : AnswerData)
  | first (kind : Byte) (n : Nat)
  | cont (kind : Byte) (last : Bool) (index : Nat) (content : FrameContent)
  deriving DecidableEq, Repr

/-- The frame a port is sending on the bus (R197). -/
inductive Sending
  | answer (f : AnswerFrame)
  | notice (n : Notice)
  deriving DecidableEq, Repr

/-- The state of one port unit (R192), and the frame it is sending (R197). -/
structure PortState where
  link : LinkState
  inbound : List ReqFrame
  inHand : Option ReqFrame
  slot : List AnswerFrame
  notices : List Notice
  flags : PortFlags
  taking : Bool
  sending : Option Sending
  deriving DecidableEq, Repr

/-- A port after a reset of any kind (R192). -/
def PortState.afterReset : PortState :=
  { link := .offBus, inbound := [], inHand := none, slot := [], notices := [], flags := PortFlags.clear, taking := true,
    sending := none }

/-! ## The state -/

/-- The state of the part and the queue of commands that wait. -/
structure State where
  /-- the anchor records, in identity order (R1, R2) -/
  anchors : List AnchorRec
  /-- the cure list (R23) -/
  cure : List CureEntry
  /-- the 64 section records, section 1 first (R29) -/
  sections : List SectionRec
  /-- the configuration in force (R180) -/
  config : ConfigData
  /-- the schedule table (R103, R105) -/
  schedule : ScheduleData
  /-- the result of each head's last validation (R105) -/
  results : PerClass HeadResult
  /-- the measurement unit's values and faults -/
  meas : Meas
  /-- the works clock -/
  clock : ClockState
  /-- the part's own time base -/
  time : TimeBase
  /-- the supply monitor -/
  supply : SupplyState
  /-- the tendon context while RUNNING, none while IDLE (R69) -/
  rig : Option TendonCtx
  /-- each line's context while RUNNING, none while IDLE (R83) -/
  grout : PerLine (Option LineCtx)
  /-- the session context while OPEN, none while IDLE (R115) -/
  session : Option Session
  /-- the reading pool (R158) -/
  pool : Pool
  /-- the watch channels' volatile state (R163) -/
  watch : PerWatch WatchState
  /-- the permit lines, true while asserted (R176) -/
  permits : PerPermit Bool
  /-- the record store's non-volatile items (R180) -/
  store : Store
  /-- the record store's volatile state -/
  recorder : Recorder
  /-- the port units (R192) -/
  ports : PerPort PortState
  /-- THE MODEL'S OWN: the number of free values drawn so far (log 3) -/
  freeIdx : Nat
  /-- THE MODEL'S OWN: the commands that wait, first in first out -/
  pending : List Instr
  deriving DecidableEq, Repr

/-- Why the machine stops. No command of the manual stops the part: a request that cannot be carried out is answered
with a code (R196), and an event whose condition does not stand does not occur (log 5). So no constructor. -/
inductive Fault
  deriving DecidableEq, Repr

/-- Why a command is refused by the model. -/
inductive Refusal
  /-- the command has no meaning yet; raised by an arm of `exec` alone, and by none now. Safe: the machine stops. -/
  | notModelled (mnemonic : String)
  deriving DecidableEq, Repr

/-! ## Reset -/

/-- A blank store as start-up formats it (R187): both directory copies with every slot FREE, the default blocks, and
clock mark 0. -/
def Store.formatted : Store :=
  { images := [], dirFirst := some { seq := 0, slots := [] }, dirSecond := some { seq := 1, slots := [] }
    sections := some (List.replicate 64 SectionData.default), config := some ConfigData.default
    schedule := some ScheduleData.blank, entries := [], mark := some 0, cause := none }

/-- The part right after reset: a POWER_ON reset whose start-up recovery found and formatted a blank store (R187), with
the reset-cause record still to be written and the ports not yet on the bus (R190, R192). Log 1. -/
def State.reset : State :=
  { anchors := [], cure := [], sections := List.replicate 64 SectionRec.default, config := ConfigData.default
    schedule := ScheduleData.blank
    results := { acceptance := .invalid .noHead none, suitability := .invalid .noHead none,
                 investigation := .invalid .noHead none }
    meas := Meas.afterReset { a := false, b := false }
    clock := ClockState.afterReset 0, time := TimeBase.afterReset, supply := { warning := false, above := 0 }
    rig := none, grout := { a := none, b := none }, session := none
    pool := { reserved := [], used := [] }
    watch := { w1 := WatchState.afterReset, w2 := WatchState.afterReset, w3 := WatchState.afterReset,
               w4 := WatchState.afterReset }
    permits := { rig := false, groutA := false, groutB := false, jack := false }
    store := Store.formatted
    recorder :=
      { writer := .idle, list := [], warned := false, markOwed := false
        cause := { kind := .powerOn, blank := true, previousWarned := false, torn := 0, interrupted := 0,
                   configDefaulted := false }
        causeDue := true, causeOpen := false, draining := false }
    ports := { p1 := PortState.afterReset, p2 := PortState.afterReset, p3 := PortState.afterReset,
               p4 := PortState.afterReset }
    freeIdx := 0, pending := [] }

end Sys2Proof.Machine
end

