-- ==== Sys2Proof/Machine/Access.lean ====
section
/-! DEFINITION. Reading and writing one part of a grouped value, the sorted tables of the store and the pool, and
the order of anchor identities. -/

namespace Sys2Proof.Machine

/-! ## One of a fixed few -/

/-- The value of a port. -/
def PerPort.get {α : Type} (x : PerPort α) : Port → α
  | .p1 => x.p1 | .p2 => x.p2 | .p3 => x.p3 | .p4 => x.p4

/-- The group with one port's value replaced. -/
def PerPort.set {α : Type} (x : PerPort α) (p : Port) (v : α) : PerPort α :=
  match p with
  | .p1 => { x with p1 := v } | .p2 => { x with p2 := v } | .p3 => { x with p3 := v } | .p4 => { x with p4 := v }

/-- The group with a function applied to every port's value. -/
def PerPort.map {α β : Type} (f : Port → α → β) (x : PerPort α) : PerPort β :=
  { p1 := f .p1 x.p1, p2 := f .p2 x.p2, p3 := f .p3 x.p3, p4 := f .p4 x.p4 }

/-- The value of a grout line. -/
def PerLine.get {α : Type} (x : PerLine α) : GLine → α
  | .a => x.a | .b => x.b

/-- The group with one line's value replaced. -/
def PerLine.set {α : Type} (x : PerLine α) (l : GLine) (v : α) : PerLine α :=
  match l with
  | .a => { x with a := v } | .b => { x with b := v }

/-- The value of a watch channel. -/
def PerWatch.get {α : Type} (x : PerWatch α) : WatchId → α
  | .w1 => x.w1 | .w2 => x.w2 | .w3 => x.w3 | .w4 => x.w4

/-- The group with one watch channel's value replaced. -/
def PerWatch.set {α : Type} (x : PerWatch α) (w : WatchId) (v : α) : PerWatch α :=
  match w with
  | .w1 => { x with w1 := v } | .w2 => { x with w2 := v } | .w3 => { x with w3 := v } | .w4 => { x with w4 := v }

/-- The group with a function applied to every watch channel's value. -/
def PerWatch.map {α β : Type} (f : WatchId → α → β) (x : PerWatch α) : PerWatch β :=
  { w1 := f .w1 x.w1, w2 := f .w2 x.w2, w3 := f .w3 x.w3, w4 := f .w4 x.w4 }

/-- The value of a permit line. -/
def PerPermit.get {α : Type} (x : PerPermit α) : PLine → α
  | .rig => x.rig | .groutA => x.groutA | .groutB => x.groutB | .jack => x.jack

/-- The group built from a function of the line. -/
def PerPermit.tabulate {α : Type} (f : PLine → α) : PerPermit α :=
  { rig := f .rig, groutA := f .groutA, groutB := f .groutB, jack := f .jack }

/-- The value of a test class. -/
def PerClass.get {α : Type} (x : PerClass α) : TestClass → α
  | .acceptance => x.acceptance | .suitability => x.suitability | .investigation => x.investigation

/-- The group with one class's value replaced. -/
def PerClass.set {α : Type} (x : PerClass α) (c : TestClass) (v : α) : PerClass α :=
  match c with
  | .acceptance => { x with acceptance := v }
  | .suitability => { x with suitability := v }
  | .investigation => { x with investigation := v }

/-- The group built from a function of the class. -/
def PerClass.tabulate {α : Type} (f : TestClass → α) : PerClass α :=
  { acceptance := f .acceptance, suitability := f .suitability, investigation := f .investigation }

/-- The value of an analogue channel. -/
def channelGet {α : Type} (x : PerChannel α) : Channel → α
  | .load => x.load | .jackPress => x.jackPress | .extA => x.extA | .extB => x.extB
  | .groutPressA => x.groutPressA | .groutPressB => x.groutPressB | .winchTension => x.winchTension

/-- The group with one channel's value replaced. -/
def channelSet {α : Type} (x : PerChannel α) (c : Channel) (v : α) : PerChannel α :=
  match c with
  | .load => { x with load := v }
  | .jackPress => { x with jackPress := v }
  | .extA => { x with extA := v }
  | .extB => { x with extB := v }
  | .groutPressA => { x with groutPressA := v }
  | .groutPressB => { x with groutPressB := v }
  | .winchTension => { x with winchTension := v }

/-- The group built from a function of the channel. -/
def channelTabulate {α : Type} (f : Channel → α) : PerChannel α :=
  { load := f .load, jackPress := f .jackPress, extA := f .extA, extB := f .extB, groutPressA := f .groutPressA,
    groutPressB := f .groutPressB, winchTension := f .winchTension }

/-- The seven channels in number order (R49). -/
def allChannels : List Channel :=
  [.load, .jackPress, .extA, .extB, .groutPressA, .groutPressB, .winchTension]

/-- The four watch channels in number order. -/
def allWatches : List WatchId := [.w1, .w2, .w3, .w4]

/-- The four ports. -/
def allPorts : List Port := [.p1, .p2, .p3, .p4]

/-- The four permit lines in the order RIG, GROUT_A, GROUT_B, JACK (R198). -/
def allLines : List PLine := [.rig, .groutA, .groutB, .jack]

/-! ## Tables by number, rows in rising order -/

/-- The row of an index, if it is listed. -/
def tableGet {α : Type} (t : List (Slot α)) (i : Nat) : Option α :=
  match t with
  | [] => none
  | r :: rest => if r.index = i then some r.val else tableGet rest i

/-- The table with the row of an index written, rows kept in rising order. -/
def tablePut {α : Type} (t : List (Slot α)) (i : Nat) (v : α) : List (Slot α) :=
  match t with
  | [] => [{ index := i, val := v }]
  | r :: rest =>
    if r.index < i then r :: tablePut rest i v
    else if r.index = i then { index := i, val := v } :: rest
    else { index := i, val := v } :: r :: rest

/-- The table without the row of an index. -/
def tableErase {α : Type} (t : List (Slot α)) (i : Nat) : List (Slot α) :=
  t.filter fun r => r.index != i

/-- A rising list of numbers with one number put in its place. -/
def insertNat (n : Nat) : List Nat → List Nat
  | [] => [n]
  | m :: rest => if n < m then n :: m :: rest else if n = m then m :: rest else m :: insertNat n rest

/-- The lowest `want` numbers of `i, i+1, …` (at most `fuel` are looked at) that are not in `taken`. -/
def lowestFree (taken : List Nat) : (fuel i want : Nat) → List Nat
  | 0, _, _ => []
  | _, _, 0 => []
  | fuel + 1, i, want + 1 =>
    if taken.contains i then lowestFree taken fuel (i + 1) (want + 1)
    else i :: lowestFree taken fuel (i + 1) want

/-! ## Identity order (R2) -/

/-- Section, then tier, then slot, each ascending (R2). -/
def AnchorId.before (a b : AnchorId) : Bool :=
  a.sect < b.sect || (a.sect = b.sect && (a.tier < b.tier || (a.tier = b.tier && a.slot < b.slot)))

/-- The order of two lists of numbers, first difference first: true when the left one does not come after. -/
def keyLe : List Nat → List Nat → Bool
  | [], _ => true
  | _ :: _, [] => false
  | x :: xs, y :: ys => x < y || (x = y && keyLe xs ys)

/-- A list sorted by a key, equal keys in their first order. -/
def insertByKey {α : Type} (key : α → List Nat) (x : α) : List α → List α
  | [] => [x]
  | y :: rest => if keyLe (key y) (key x) then y :: insertByKey key x rest else x :: y :: rest

/-- A list sorted by a key, equal keys in their first order. -/
def sortByKey {α : Type} (key : α → List Nat) (l : List α) : List α :=
  l.foldl (fun acc x => insertByKey key x acc) []

end Sys2Proof.Machine
end

