-- ==== Sys2Proof/Machine/Operands.lean ====
section
/-! DEFINITION. The request kinds with their codes, payload lengths and ports (R194, section 11.8), and the fields of
their payloads: numbers most significant byte first, the anchor word, and the codes of named values. The codes that the
manual does not give follow the order of its own lists (log 8); the small payloads hold their fields in the order named
(log 9). -/

namespace Sys2Proof.Machine

/-! ## Request kinds -/

/-- The request kinds of the kind table (section 11.8). -/
inductive ReqKind
  | identify | readStatus | readAnchor | readSection | readSession | clearPortFlags
  | tendonStart | tendonDone | tendonWithdraw
  | injectStart | injectEnd
  | stressOpen | advance | release | stressAbort
  | defineAnchor | setAnchorGeometry | deleteAnchor | abandonAnchor | retestAnchor | settleAnchor
  | setHold | releaseHold | openZone | closeZone | reportDeflection | setSection
  | setClock | setParameter | setCalibration
  | writeStep | setScheduleHead
  | watchConfigure | watchThreshold | watchEnable | watchDisable | watchRearm
  | stopSession | restart
  deriving DecidableEq, Repr

/-- The kind code of a request (section 11.8). -/
def ReqKind.code : ReqKind → Byte
  | .identify => 0x01 | .readStatus => 0x02 | .readAnchor => 0x03 | .readSection => 0x04 | .readSession => 0x05
  | .clearPortFlags => 0x06
  | .tendonStart => 0x10 | .tendonDone => 0x11 | .tendonWithdraw => 0x12
  | .injectStart => 0x20 | .injectEnd => 0x21
  | .stressOpen => 0x30 | .advance => 0x31 | .release => 0x32 | .stressAbort => 0x33
  | .defineAnchor => 0x40 | .setAnchorGeometry => 0x41 | .deleteAnchor => 0x42 | .abandonAnchor => 0x43
  | .retestAnchor => 0x44 | .settleAnchor => 0x45
  | .setHold => 0x50 | .releaseHold => 0x51 | .openZone => 0x52 | .closeZone => 0x53 | .reportDeflection => 0x54
  | .setSection => 0x55
  | .setClock => 0x60 | .setParameter => 0x61 | .setCalibration => 0x62
  | .writeStep => 0x70 | .setScheduleHead => 0x71
  | .watchConfigure => 0x80 | .watchThreshold => 0x81 | .watchEnable => 0x82 | .watchDisable => 0x83
  | .watchRearm => 0x84
  | .stopSession => 0x90 | .restart => 0x91

/-- The payload length of a request (section 11.8). -/
def ReqKind.length : ReqKind → Nat
  | .identify => 0 | .readStatus => 1 | .readAnchor => 2 | .readSection => 1 | .readSession => 0 | .clearPortFlags => 1
  | .tendonStart => 2 | .tendonDone => 2 | .tendonWithdraw => 2
  | .injectStart => 4 | .injectEnd => 3
  | .stressOpen => 4 | .advance => 0 | .release => 0 | .stressAbort => 0
  | .defineAnchor => 8 | .setAnchorGeometry => 12 | .deleteAnchor => 2 | .abandonAnchor => 3 | .retestAnchor => 2
  | .settleAnchor => 8
  | .setHold => 3 | .releaseHold => 2 | .openZone => 1 | .closeZone => 1 | .reportDeflection => 5 | .setSection => 7
  | .setClock => 4 | .setParameter => 5 | .setCalibration => 7
  | .writeStep => 8 | .setScheduleHead => 2
  | .watchConfigure => 16 | .watchThreshold => 8 | .watchEnable => 1 | .watchDisable => 1 | .watchRearm => 1
  | .stopSession => 0 | .restart => 0

/-- Whether a port may make a request (the table of R194). -/
def ReqKind.allowed (k : ReqKind) (p : Port) : Bool :=
  match k with
  | .identify | .readStatus | .readAnchor | .readSection | .readSession | .clearPortFlags => true
  | .tendonStart | .tendonDone | .tendonWithdraw => p = .p1
  | .injectStart | .injectEnd => p = .p2
  | .stressOpen | .advance | .release | .stressAbort => p = .p3
  | .defineAnchor | .setAnchorGeometry | .deleteAnchor | .abandonAnchor | .retestAnchor | .settleAnchor
  | .setHold | .releaseHold | .openZone | .closeZone | .reportDeflection | .setSection
  | .setClock | .setParameter | .setCalibration | .writeStep | .setScheduleHead
  | .watchConfigure | .watchThreshold | .watchEnable | .watchDisable | .watchRearm
  | .stopSession | .restart => p = .p4

/-- Every request kind of the kind table. -/
def allReqKinds : List ReqKind :=
  [.identify, .readStatus, .readAnchor, .readSection, .readSession, .clearPortFlags, .tendonStart, .tendonDone,
   .tendonWithdraw, .injectStart, .injectEnd, .stressOpen, .advance, .release, .stressAbort, .defineAnchor,
   .setAnchorGeometry, .deleteAnchor, .abandonAnchor, .retestAnchor, .settleAnchor, .setHold, .releaseHold, .openZone,
   .closeZone, .reportDeflection, .setSection, .setClock, .setParameter, .setCalibration, .writeStep,
   .setScheduleHead, .watchConfigure, .watchThreshold, .watchEnable, .watchDisable, .watchRearm, .stopSession,
   .restart]

/-- Whether a kind code is a request kind of the kind table (R194, check 1). -/
def isRequestCode (c : Byte) : Bool := allReqKinds.any fun k => k.code = c

/-! ## Answer codes (R196) -/

/-- The value of an answer code on the bus (the table of R196). -/
def Code.value : Code → Byte
  | .done => 0 | .malformed => 1 | .unknownRequest => 2 | .wrongRole => 3 | .noSuchAnchor => 4 | .alreadyDefined => 5
  | .registerFull => 6 | .wrongStage => 7 | .anchorActive => 8 | .geometryUnset => 9 | .badValue => 10 | .rigBusy => 11
  | .lineBusy => 12 | .sessionBusy => 13 | .noSession => 14 | .clockUnset => 15 | .clockBackward => 16
  | .zoneClosed => 17 | .sectionHeld => 18 | .deflectionStale => 19 | .stagger => 20 | .windowClosed => 21
  | .passesFull => 22 | .scheduleInvalid => 23 | .scheduleInUse => 24 | .poolExhausted => 25 | .sensorFault => 26
  | .holdRunning => 27 | .wrongPhase => 28 | .paused => 29 | .targetNotReached => 30 | .configLocked => 31
  | .channelInUse => 32 | .activeWork => 33

/-- The answer code an answer frame carries on the bus: that of its answer, or DONE before the continuation frames of a
read (R196). A continuation frame carries none. -/
def AnswerFrame.codeValue : AnswerFrame → Option Byte
  | .single _ c _ => some c.value
  | .first _ _ => some Code.done.value
  | .cont _ _ _ _ => none

/-! ## Numbers -/

/-- The number some bytes spell, most significant byte first (section 11.8). -/
def beNat (bytes : List Byte) : Nat := bytes.foldl (fun acc b => acc * 256 + b.toNat) 0

/-- The bytes `at_ .. at_ + len - 1` of a payload. -/
def bytesAt (pl : List Byte) (at_ len : Nat) : List Byte := (pl.drop at_).take len

/-- An unsigned field of a payload. -/
def fieldNat (pl : List Byte) (at_ len : Nat) : Nat := beNat (bytesAt pl at_ len)

/-- A signed field of a payload, in two's complement (section 11.8). -/
def fieldInt (pl : List Byte) (at_ len : Nat) : Int :=
  let n := fieldNat pl at_ len
  if n < 2 ^ (8 * len - 1) then (n : Int) else (n : Int) - (2 ^ (8 * len) : Nat)

/-- The anchor identity of the anchor word in bytes 0 and 1: section minus 1 in bits 15..10, tier minus 1 in bits 9..7,
slot minus 1 in bits 6..4 (section 11.8). -/
def anchorField (pl : List Byte) : AnchorId :=
  let w := fieldNat pl 0 2
  { sect := w / 1024 + 1, tier := w / 128 % 8 + 1, slot := w / 16 % 8 + 1 }

/-- Bits 3..0 of the anchor word, which carry the zone in Define Anchor (section 11.8). -/
def zoneField (pl : List Byte) : Nat := fieldNat pl 0 2 % 16

/-- An integer brought into a range of naturals (Conventions 3.2, "clamped"). -/
def clampInt (lo hi : Nat) (v : Int) : Nat := max lo (min hi v.toNat)

/-- A natural brought into a range (Conventions 3.2, "clamped"). -/
def clampNat (lo hi v : Nat) : Nat := max lo (min hi v)

/-- A signed quantity brought into a signed range. -/
def clampSigned (lo hi v : Int) : Int := max lo (min hi v)

/-! ## Codes of named values -/

/-- The test class codes (section 11.8). -/
def classOfCode : Nat → Option TestClass
  | 0 => some .acceptance | 1 => some .suitability | 2 => some .investigation
  | _ => none

/-- The test class of Define Anchor: low bit in bit 15 of the DWL field, high bit in bit 15 of the TL field
(section 11.8). -/
def defineClass (pl : List Byte) : Option TestClass :=
  classOfCode (fieldNat pl 2 2 / 32768 + 2 * (fieldNat pl 4 2 / 32768))

/-- The line codes of Inject Start and Inject End. DESIGN CHOICE (log 8). -/
def lineOfCode : Nat → Option GLine
  | 0 => some .a | 1 => some .b
  | _ => none

/-- The pass kind codes of Inject Start. DESIGN CHOICE (log 8). -/
def passKindOfCode : Nat → Option PassKind
  | 0 => some .primary | 1 => some .topUp | 2 => some .post
  | _ => none

/-- The stage codes of Settle Anchor's decision, in the order of section 1.2. DESIGN CHOICE (log 8). -/
def stageOfCode : Nat → Option Stage
  | 0 => some .planned | 1 => some .tendonRunning | 2 => some .tendonPlaced | 3 => some .tendonRejected
  | 4 => some .grouting | 5 => some .groutShort | 6 => some .groutInterrupted | 7 => some .curing
  | 8 => some .stressable | 9 => some .stressing | 10 => some .stressInterrupted | 11 => some .failed
  | 12 => some .lockedOff | 13 => some .abandoned | 14 => some .suspect
  | _ => none

/-- The hold level codes of Set Hold: 0 stands for NONE in Watch Configure. DESIGN CHOICE (log 8). -/
def levelOfCode : Nat → Option HoldLevel
  | 1 => some .advisory | 2 => some .stopNew | 3 => some .stopAll
  | _ => none

/-- The hold source codes of Release Hold, in the order of R33. DESIGN CHOICE (log 8). -/
def sourceOfCode : Nat → Option HoldSource
  | 0 => some .survey | 1 => some .deflection | 2 => some .watch1 | 3 => some .watch2 | 4 => some .watch3
  | 5 => some .watch4 | 6 => some .store
  | _ => none

/-- The channel numbers of Set Calibration (R49). -/
def channelOfCode : Nat → Option Channel
  | 0 => some .load | 1 => some .jackPress | 2 => some .extA | 3 => some .extB | 4 => some .groutPressA
  | 5 => some .groutPressB | 6 => some .winchTension
  | _ => none

/-- The watch channel numbers 1..4 (R170). -/
def watchOfCode : Nat → Option WatchId
  | 1 => some .w1 | 2 => some .w2 | 3 => some .w3 | 4 => some .w4
  | _ => none

/-- The port numbers 1..4 (R201). -/
def portOfCode : Nat → Option Port
  | 1 => some .p1 | 2 => some .p2 | 3 => some .p3 | 4 => some .p4
  | _ => none

/-- The permit line codes of section 11.8: 1 RIG, 2 GROUT_A, 3 GROUT_B, 4 JACK. -/
def plineOfCode : Nat → Option PLine
  | 1 => some .rig | 2 => some .groutA | 3 => some .groutB | 4 => some .jack
  | _ => none

/-- The hold level of a watch action: the outer option is absent for no named value, the inner one for NONE. DESIGN
CHOICE (log 8). -/
def actionLevelOfCode : Nat → Option (Option HoldLevel)
  | 0 => some none | 1 => some (some .advisory) | 2 => some (some .stopNew) | 3 => some (some .stopAll)
  | _ => none

/-- The drop line of a watch action, NONE for 0 (log 8). -/
def actionDropOfCode : Nat → Option (Option PLine)
  | 0 => some none
  | n => (plineOfCode n).map some

/-- The watch source codes, in the order of R163; the section is the byte that follows. DESIGN CHOICE (log 8). -/
def watchSourceOfCode (code sect : Nat) : Option WatchSource :=
  match code with
  | 0 => some .load | 1 => some .jackPress | 2 => some .extension | 3 => some .groutPressA | 4 => some .groutPressB
  | 5 => some .flowRateA | 6 => some .flowRateB | 7 => some .winchTension | 8 => some (.deflection sect)
  | _ => none

/-- The comparison kind codes, in the order of R163. DESIGN CHOICE (log 8). -/
def cmpKindOfCode : Nat → Option CmpKind
  | 0 => some .above | 1 => some .below | 2 => some .outside | 3 => some .riseOver
  | _ => none

/-- The step kind codes, in the order of R103. DESIGN CHOICE (log 8). -/
def stepKindOfCode : Nat → Option StepKind
  | 0 => some .datum | 1 => some .loadTo | 2 => some .hold | 3 => some .unloadTo | 4 => some .lockOff
  | 5 => some .liftOff | 6 => some .endStep
  | _ => none

/-- A step index or END: 0..63, or 255 for END (section 11.8). The outer option is absent for any other value. -/
def linkOfCode (n : Nat) : Option (Option Nat) :=
  if n < 64 then some (some n) else if n = 255 then some none else none

/-- The step record of a Write Step payload from byte 2 on, for its kind; absent where a field lies outside its range
(R103, R106 check 4). The fields follow one another in the order named (log 9). DESIGN CHOICE: the extendable field is 0
for no and 1 for yes (log 36), and the bytes a kind does not use are not looked at (log 37). -/
def stepOfPayload (k : StepKind) (pl : List Byte) : Option StepRec :=
  match k with
  | .datum =>
    if fieldNat pl 2 2 ≤ 1500 then (linkOfCode (fieldNat pl 4 1)).map (.datum (fieldNat pl 2 2)) else none
  | .loadTo =>
    if fieldNat pl 2 2 ≤ 1500 then (linkOfCode (fieldNat pl 4 1)).map (.loadTo (fieldNat pl 2 2)) else none
  | .hold =>
    if 60 ≤ fieldNat pl 2 2 ∧ fieldNat pl 2 2 ≤ 3600 ∧ fieldNat pl 2 2 % 10 = 0 ∧ fieldNat pl 4 2 ≤ 25000 ∧
        fieldNat pl 6 1 ≤ 1 then
      (linkOfCode (fieldNat pl 7 1)).map (.hold (fieldNat pl 2 2) (fieldNat pl 4 2) (fieldNat pl 6 1 = 1))
    else none
  | .unloadTo =>
    if fieldNat pl 2 2 ≤ 1500 then (linkOfCode (fieldNat pl 4 1)).map (.unloadTo (fieldNat pl 2 2)) else none
  | .lockOff => (linkOfCode (fieldNat pl 2 1)).map .lockOff
  | .liftOff => (linkOfCode (fieldNat pl 2 1)).map .liftOff
  | .endStep => some .endStep

/-- A threshold of the comparison kind: a pair for OUTSIDE, a single value for every other kind (R171). -/
def Threshold.matchesKind (t : Threshold) (k : CmpKind) : Bool :=
  match t, k with
  | .two _ _, .outside => true
  | .one _, .above | .one _, .below | .one _, .riseOver => true
  | _, _ => false

/-- The threshold of a Watch Threshold payload: the number of values given in byte 1 (section 11.8). -/
def thresholdOfPayload (pl : List Byte) : Option Threshold :=
  if fieldNat pl 1 1 = 1 then some (.one (fieldInt pl 2 3))
  else if fieldNat pl 1 1 = 2 then some (.two (fieldInt pl 2 3) (fieldInt pl 5 3))
  else none

/-- The lower and upper bound of a threshold for a source and comparison kind (the second table of R165). -/
def thresholdRange (src : WatchSource) (k : CmpKind) : Int × Int :=
  match src with
  | .load => (0, 30000)
  | .jackPress => (0, 8000)
  | .extension => (0, 25000)
  | .groutPressA | .groutPressB => (0, 5000)
  | .flowRateA | .flowRateB => (0, 65535)
  | .winchTension => (0, 1000)
  | .deflection _ => if k = .riseOver then (0, 100000) else (-50000, 50000)

/-- A threshold clamped into its range; absent for a pair whose clamped lo is above its clamped hi (R170, R171). -/
def clampThreshold (src : WatchSource) (k : CmpKind) (t : Threshold) : Option Threshold :=
  let r := thresholdRange src k
  match t with
  | .one v => some (.one (clampSigned r.1 r.2 v))
  | .two lo hi =>
    if clampSigned r.1 r.2 hi < clampSigned r.1 r.2 lo then none
    else some (.two (clampSigned r.1 r.2 lo) (clampSigned r.1 r.2 hi))

end Sys2Proof.Machine
end

