-- ==== Sys2Proof/Machine/Flags.lean ====
section
/-! DEFINITION. Everything the part computes from its state without changing it: the fault state of a sensor group,
levels, staleness, the stagger rule, targets and bands, the down causes of a permit line, and whether a watch channel
evaluates. -/

namespace Sys2Proof.Machine

/-! ## Anchors and sections -/

/-- The record with an identity (R2: no two have the same). -/
def findAnchor (s : State) (a : AnchorId) : Option AnchorRec := s.anchors.find? fun r => r.id = a

/-- The record of section `n`, numbered from 1 (R29). -/
def sectionRec (s : State) (n : Nat) : SectionRec := s.sections.getD (n - 1) SectionRec.default

/-- Whether a section number lies in 1..N (R30). -/
def inSections (s : State) (n : Nat) : Bool := 1 ≤ n && n ≤ s.config.params.sectionCount

/-- The rank of a level, NONE lowest (R33, R34). -/
def levelRank : Option HoldLevel → Nat
  | none => 0
  | some .advisory => 1
  | some .stopNew => 2
  | some .stopAll => 3

/-- The higher of two levels. -/
def levelMax (a b : Option HoldLevel) : Option HoldLevel := if levelRank a < levelRank b then b else a

/-- The effective level of some hold records: the highest level among them, NONE without records (R34). -/
def effectiveOf (holds : List Hold) : Option HoldLevel := holds.foldl (fun acc h => levelMax acc (some h.level)) none

/-- The effective level of a section (R34). -/
def effectiveLevel (s : State) (n : Nat) : Option HoldLevel := effectiveOf (sectionRec s n).data.holds

/-- STOP_NEW or STOP_ALL: starts in the section are refused (R34). -/
def sectionHeld (s : State) (n : Nat) : Bool := 2 ≤ levelRank (effectiveLevel s n)

/-- STOP_ALL: work in the section pauses (R34). -/
def sectionStopped (s : State) (n : Nat) : Bool := levelRank (effectiveLevel s n) = 3

/-- Whether a report age makes a section stale under a period (R46). -/
def ageStale (period : Nat) (age : Option Nat) : Bool :=
  period ≠ 0 && (match age with | none => true | some n => period ≤ n)

/-- Whether a section is stale: no report since the last reset, or an age that has reached the staleness period (R46). -/
def sectionIsStale (s : State) (n : Nat) : Bool := ageStale s.config.params.stalePeriod (sectionRec s n).age

/-- The stale flag as it reads: clear while the period is 0 (R46). -/
def staleFlagReads (s : State) (n : Nat) : Bool := s.config.params.stalePeriod ≠ 0 && (sectionRec s n).stale

/-- Whether a zone is open (R40). -/
def zoneOpen (s : State) (z : Nat) : Bool := s.config.zones.getD z false

/-- Whether an anchor's zone is closed; a record without design data has none to be open (R41). -/
def anchorZoneClosed (s : State) (r : AnchorRec) : Bool :=
  match r.design with
  | none => true
  | some d => !zoneOpen s d.zone

/-- The locked-off count of a section at a tier (R42). -/
def lockedCount (s : State) (sect tier : Nat) : Nat := (sectionRec s sect).data.counts.getD (tier - 1) 0

/-- The neighbours of a section within 1..N (R30). -/
def neighbours (s : State) (sect : Nat) : List Nat :=
  (if inSections s (sect - 1) then [sect - 1] else []) ++ (if inSections s (sect + 1) then [sect + 1] else [])

/-- Whether a neighbour constrains at a tier: an anchor record of it there is neither LOCKED_OFF nor ABANDONED (R43). -/
def constrains (s : State) (sect tier : Nat) : Bool :=
  s.anchors.any fun r => r.id.sect = sect && r.id.tier = tier && r.stage ≠ .lockedOff && r.stage ≠ .abandoned

/-- The smallest number of a list. -/
def smallest : List Nat → Option Nat
  | [] => none
  | n :: rest => match smallest rest with | none => some n | some m => some (min n m)

/-- The stagger rule for an anchor being opened (R43). -/
def staggerPasses (s : State) (a : AnchorId) : Bool :=
  let allowance := s.config.params.stagger
  allowance = 0 ||
    match smallest (((neighbours s a.sect).filter fun n => constrains s n a.tier).map fun n => lockedCount s n a.tier) with
    | none => true
    | some m => lockedCount s a.sect a.tier + 1 ≤ m + allowance

/-- The works clock while SET, otherwise the clock mark held (R12, R33, R44). -/
def stampTime (s : State) : Nat := s.clock.time.getD s.clock.mark

/-- Ten times the design tendon length, in mm (R3). -/
def designLengthMm (s : State) (g : Geometry) : Nat := 10 * (g.lfree + g.lbond + s.config.params.jacking)

/-- The active stages (section 1.2). -/
def Stage.isActive : Stage → Bool
  | .tendonRunning | .grouting | .stressing => true
  | _ => false

/-! ## Faults (R53) -/

/-- The maximum of a channel (R49). -/
def channelMax : Channel → Nat
  | .load => 30000 | .jackPress => 8000 | .extA => 25000 | .extB => 25000 | .groutPressA => 5000
  | .groutPressB => 5000 | .winchTension => 1000

/-- Whether a fault is present (R53). -/
def faultPresent (m : Meas) : FaultId → Bool
  | .notReady c => (channelGet m.chans c).notReady
  | .overRange c => (channelGet m.chans c).overRange.present
  | .extDisagree => m.extDisagree.present
  | .loadDisagree => m.loadDisagree.present

/-- Every fault there can be, subjects in the order of R53. -/
def allFaults : List FaultId :=
  allChannels.flatMap (fun c => [.notReady c, .overRange c]) ++ [.extDisagree, .loadDisagree]

/-- A channel is faulted while any of its faults is present (R53). -/
def channelFaulted (m : Meas) (c : Channel) : Bool := faultPresent m (.notReady c) || faultPresent m (.overRange c)

/-- EXTENSION is faulted while EXT_DISAGREE is present or a transducer is faulted (R53). -/
def extensionFaulted (m : Meas) : Bool :=
  faultPresent m .extDisagree || channelFaulted m .extA || channelFaulted m .extB

/-- The jack's sensor group (R53). -/
def jackFaulted (m : Meas) : Bool :=
  channelFaulted m .load || channelFaulted m .jackPress || extensionFaulted m || faultPresent m .loadDisagree

/-- The pressure channel of a grout line (R53). -/
def lineChannel : GLine → Channel
  | .a => .groutPressA
  | .b => .groutPressB

/-- A grout line's sensor group (R53). -/
def lineFaulted (m : Meas) (l : GLine) : Bool := channelFaulted m (lineChannel l)

/-- The rig's sensor group (R53). -/
def rigFaulted (m : Meas) : Bool := channelFaulted m .winchTension

/-- A channel's value (R52). -/
def channelValue (m : Meas) (c : Channel) : Nat := (channelGet m.chans c).value

/-! ## Permit lines (R176) -/

/-- The permit line of a grout line. -/
def linePermit : GLine → PLine
  | .a => .groutA
  | .b => .groutB

/-- The anchor the line's work is on, absent while no work is active. -/
def workAnchor (s : State) : PLine → Option AnchorId
  | .rig => s.rig.map (·.anchor)
  | .groutA => s.grout.a.map (·.anchor)
  | .groutB => s.grout.b.map (·.anchor)
  | .jack => s.session.map (·.anchor)

/-- The line's own limit latch (R73, R88); JACK has none. -/
def limitLatched (s : State) : PLine → Bool
  | .rig => match s.rig with | some c => c.latch | none => false
  | .groutA => match s.grout.a with | some c => c.latch | none => false
  | .groutB => match s.grout.b with | some c => c.latch | none => false
  | .jack => false

/-- Whether the sensor group of the line's work is faulted (R53). -/
def groupFaulted (m : Meas) : PLine → Bool
  | .rig => rigFaulted m
  | .groutA => lineFaulted m .a
  | .groutB => lineFaulted m .b
  | .jack => jackFaulted m

/-- The port of a line (R176). -/
def linePort : PLine → Port
  | .rig => .p1
  | .groutA => .p2
  | .groutB => .p2
  | .jack => .p3

/-- Whether a watch drop latch is set on the line (R176). -/
def watchDropped (s : State) (l : PLine) : Bool :=
  allWatches.any fun w => (s.watch.get w).latch && (s.config.watch.get w).drop = some l

/-- Whether a down cause stands on a line (the table of R176). -/
def causeStands (s : State) (l : PLine) : DownCause → Bool
  | .idle => (workAnchor s l).isNone
  | .sectionStop => match workAnchor s l with | some a => sectionStopped s a.sect | none => false
  | .watchDrop => watchDropped s l
  | .limit => limitLatched s l
  | .sensor => groupFaulted s.meas l
  | .busOff => (s.ports.get (linePort l)).link = .busOff
  | .power => s.supply.warning

/-- The down causes in the order of R176. -/
def allCauses : List DownCause := [.idle, .sectionStop, .watchDrop, .limit, .sensor, .busOff, .power]

/-- The down causes that stand on a line (R176). -/
def lineCauses (s : State) (l : PLine) : List DownCause := allCauses.filter (causeStands s l)

/-- A line is asserted while no condition of R176 fails. -/
def lineUp (s : State) (l : PLine) : Bool := (lineCauses s l).isEmpty

/-! ## Watch channels (R164, R167) -/

/-- The members of the chain, first to final, under a chain mode (R167). -/
def chainMembers : Nat → List WatchId
  | 1 => [.w3, .w4]
  | 2 => [.w2, .w3, .w4]
  | 3 => [.w1, .w2, .w3, .w4]
  | _ => []

/-- The members of the chain in force. -/
def chainOf (s : State) : List WatchId := chainMembers s.config.params.chainMode

/-- The element after another in a list. -/
def nextIn (w : WatchId) : List WatchId → Option WatchId
  | [] => none
  | x :: rest => if x = w then rest.head? else nextIn w rest

/-- The successor of a chain member; absent for the final member and for an independent channel (R167). -/
def watchSuccessor (s : State) (w : WatchId) : Option WatchId := nextIn w (chainOf s)

/-- The final member of the chain is TRIPPED. -/
def finalTripped (s : State) : Bool :=
  match (chainOf s).getLast? with
  | none => false
  | some w => (s.watch.get w).tripped

/-- The first member of the chain is ARMED. -/
def firstArmed (s : State) : Bool :=
  match (chainOf s).head? with
  | none => false
  | some w => (s.watch.get w).armed

/-- The condition of the chain (the table of R167): COMPLETE with the final member TRIPPED; WAITING with the first member
ARMED, or nothing TRIPPED; otherwise ADVANCED. Flags that fit no row of the table are read so too (log 39). -/
def chainCondition (s : State) : ChainCondition :=
  if (chainOf s).isEmpty then .none
  else if finalTripped s then .complete
  else if firstArmed s then .waiting
  else if (chainOf s).any fun w => (s.watch.get w).tripped then .advanced
  else .waiting

/-- Whether the related work of a source is active (R164). -/
def sourceActive (s : State) : WatchSource → Bool
  | .load | .jackPress | .extension => s.session.isSome
  | .groutPressA | .flowRateA => s.grout.a.isSome
  | .groutPressB | .flowRateB => s.grout.b.isSome
  | .winchTension => s.rig.isSome
  | .deflection _ => true

/-- Whether a source is faulted (R164). -/
def sourceFaulted (m : Meas) : WatchSource → Bool
  | .load => channelFaulted m .load
  | .jackPress => channelFaulted m .jackPress
  | .extension => extensionFaulted m
  | .groutPressA => channelFaulted m .groutPressA
  | .groutPressB => channelFaulted m .groutPressB
  | .flowRateA | .flowRateB => false
  | .winchTension => channelFaulted m .winchTension
  | .deflection _ => false

/-- The value of a source as it stands; a section without a report has none (R164, R165). -/
def sourceValue (s : State) : WatchSource → Option Int
  | .load => some (channelValue s.meas .load)
  | .jackPress => some (channelValue s.meas .jackPress)
  | .extension => some s.meas.extension
  | .groutPressA => some (channelValue s.meas .groutPressA)
  | .groutPressB => some (channelValue s.meas .groutPressB)
  | .flowRateA => some s.meas.lines.a.rate
  | .flowRateB => some s.meas.lines.b.rate
  | .winchTension => some (channelValue s.meas .winchTension)
  | .deflection n => (sectionRec s n).data.lastDeflection.map (·.value)

/-- A DEFLECTION source outside 1..N (R164; R172, check 3). -/
def sourceOutside (s : State) : WatchSource → Bool
  | .deflection n => !inSections s n
  | _ => false

/-- Whether a channel is evaluating: ENABLED, ARMED, its work active, its source not faulted, its section within 1..N
(R164). -/
def evaluating (s : State) (w : WatchId) : Bool :=
  (s.watch.get w).enabled && (s.watch.get w).armed && sourceActive s (s.config.watch.get w).source &&
    !sourceFaulted s.meas (s.config.watch.get w).source && !sourceOutside s (s.config.watch.get w).source

/-- The section an action's hold is written on (R169). -/
def relatedSection (s : State) : WatchSource → Option Nat
  | .deflection n => some n
  | .load | .jackPress | .extension => s.session.map (·.anchor.sect)
  | .groutPressA | .flowRateA => s.grout.a.map (·.anchor.sect)
  | .groutPressB | .flowRateB => s.grout.b.map (·.anchor.sect)
  | .winchTension => s.rig.map (·.anchor.sect)

/-- The hold source of a watch channel (R33). -/
def watchHoldSource : WatchId → HoldSource
  | .w1 => .watch1 | .w2 => .watch2 | .w3 => .watch3 | .w4 => .watch4

/-- Whether a comparison other than RISE_OVER holds of a value (R165). A threshold of the wrong form never holds. -/
def comparisonHolds (k : CmpKind) (t : Threshold) (v : Int) : Bool :=
  match k, t with
  | .above, .one x => x < v
  | .below, .one x => v < x
  | .outside, .two lo hi => v < lo || hi < v
  | _, _ => false

/-! ## Steps, targets and bands (R145, R146) -/

/-- The step record of an index (R103). -/
def stepAt (sch : ScheduleData) (i : Nat) : StepRec := sch.steps.getD i .endStep

/-- The kind of a step. -/
def StepRec.kind : StepRec → StepKind
  | .datum _ _ => .datum | .loadTo _ _ => .loadTo | .hold _ _ _ _ => .hold | .unloadTo _ _ => .unloadTo
  | .lockOff _ => .lockOff | .liftOff _ => .liftOff | .endStep => .endStep

/-- The next link of a step, absent for END and for a next link of END. -/
def StepRec.next : StepRec → Option Nat
  | .datum _ n => n | .loadTo _ n => n | .hold _ _ _ n => n | .unloadTo _ n => n
  | .lockOff n => n | .liftOff n => n | .endStep => none

/-- The target of a fraction for a test load (R145). -/
def targetOf (tl fraction : Nat) : Nat := tl * fraction / 1000

/-- A band: max(target × band‰ ÷ 1000, 10), truncated before the maximum (R146). -/
def bandOf (target permille : Nat) : Nat := max (target * permille / 1000) 10

/-- In band: |load − target| ≤ band (R146). -/
def inBand (load target band : Nat) : Bool := load ≤ target + band && target ≤ load + band

/-- The design test load of an anchor; 0 for a record without design data. -/
def testLoad (s : State) (a : AnchorId) : Nat :=
  match (findAnchor s a).bind (·.design) with
  | some d => d.tl
  | none => 0

/-- The lock-off load of an anchor; 0 for a record without design data. -/
def lockLoad (s : State) (a : AnchorId) : Nat :=
  match (findAnchor s a).bind (·.design) with
  | some d => d.ll
  | none => 0

/-- The name of a phase (R120). -/
def Phase.name : Phase → PhaseName
  | .opened => .opened | .approach => .approach | .holding _ => .holding | .releaseWait => .releaseWait
  | .liftoff _ => .liftoff

/-- The target of the step a session stands at (R145); LIFT_OFF and END have none. -/
def sessionTarget (s : State) (x : Session) : Option Nat :=
  match stepAt s.schedule x.step with
  | .datum f _ | .loadTo f _ | .unloadTo f _ => some (targetOf (testLoad s x.anchor) f)
  | .hold _ _ _ _ => x.stages.head?.map (·.target)
  | .lockOff _ => some (lockLoad s x.anchor)
  | .liftOff _ | .endStep => none

/-- The band that goes with the target: the hold band at a HOLD, otherwise the reach band (R120, R146). -/
def sessionBand (s : State) (x : Session) : Option Nat :=
  (sessionTarget s x).map fun t =>
    bandOf t (match stepAt s.schedule x.step with | .hold _ _ _ _ => x.captured.holdBand | _ => x.captured.reachBand)

/-- The step a session stands at, as NEXT_STEP gives it (R119, R120). -/
def stepInfo (s : State) (x : Session) : StepInfo :=
  { step := x.step, kind := (stepAt s.schedule x.step).kind, target := sessionTarget s x, band := sessionBand s x,
    phase := x.phase.name }

/-- PAUSED: a session is open and JACK is deasserted (R121). -/
def sessionPaused (s : State) : Bool := s.session.isSome && !s.permits.jack

/-- The head of a test class is walked by the open session (R108). -/
def headWalked (s : State) (c : TestClass) : Bool :=
  match s.session with
  | some x => x.cls = c
  | none => false

/-- The path of a head, empty for an INVALID one (R105). -/
def HeadResult.path : HeadResult → List Nat
  | .valid p _ => p
  | .invalid _ _ => []

/-- The walk count of a head, absent for an INVALID one (R105). -/
def HeadResult.walkCount : HeadResult → Option Nat
  | .valid _ n => some n
  | .invalid _ _ => none

/-- The steps in use: the path of the walked head (R108). -/
def stepInUse (s : State) (i : Nat) : Bool :=
  match s.session with
  | some x => (s.results.get x.cls).path.contains i
  | none => false

/-- A head's result as an answer gives it (R114). -/
def HeadResult.answer : HeadResult → HeadAnswer
  | .valid _ _ => .valid
  | .invalid f i => .invalid f i

/-- The number of steps on the path of a VALID head (R114). -/
def HeadResult.pathSteps : HeadResult → Option Nat
  | .valid p _ => some p.length
  | .invalid _ _ => none

/-- The results of all three heads as the answer to an edit gives them (R114). -/
def headAnswers (r : PerClass HeadResult) : PerClass HeadAnswer := PerClass.tabulate fun c => (r.get c).answer

/-- The worst-case reading count of a walk count under the relock maximum (R113). -/
def worstCase (walkCount relockMax : Nat) : Nat := walkCount + 3 * relockMax

/-- Whether some LOAD_TO of a path has the same target as the frame beneath it, for a test load (R113). `stack` holds
the fractions of the frames, top first. -/
def equalTargets (sch : ScheduleData) (tl : Nat) (stack : List Nat) : List Nat → Bool
  | [] => false
  | i :: rest =>
    match stepAt sch i with
    | .datum f _ => equalTargets sch tl [f] rest
    | .loadTo f _ =>
      (match stack with
        | top :: _ => targetOf tl f = targetOf tl top
        | [] => false) || equalTargets sch tl (f :: stack) rest
    | .unloadTo f _ => equalTargets sch tl (stack.dropWhile fun g => f < g) rest
    | _ => equalTargets sch tl stack rest

/-! ## The reading pool (R158) -/

/-- The count of RESERVED entries. -/
def Pool.reservedCount (p : Pool) : Nat := p.reserved.length

/-- The count of USED entries. -/
def Pool.usedCount (p : Pool) : Nat := p.used.length

/-- The count of FREE entries. -/
def Pool.freeCount (p : Pool) : Nat := Config.poolSize - (p.reservedCount + p.usedCount)

/-- Every port's frames of an answer have been sent (R186). -/
def answersSent (s : State) : Bool := allPorts.all fun p => (s.ports.get p).inHand.isNone

end Sys2Proof.Machine
end

