-- ==== Sys2Proof/Machine/Ops.lean ====
section
/-! DEFINITION. The operations the meanings share: one event with the notices it raises and the items it dirties, its
end (`commit`), the taking of a request and its answer, the port queues, and the changes of anchors, sections, holds
and watch latches. -/

namespace Sys2Proof.Machine

/-! ## One event -/

/-- An event in progress: the state so far, the notices raised and the store items dirtied. The notices, the items
and the permit lines are dealt with together at the end of the event (R177, R182, R198). -/
structure Ev where
  st : State
  notices : List Notice
  dirty : List Item

/-- The event that has done nothing yet. -/
def Ev.of (s : State) : Ev := { st := s, notices := [], dirty := [] }

/-- The event with its state changed. -/
def Ev.mod (e : Ev) (f : State → State) : Ev := { e with st := f e.st }

/-- The event with a notice raised. -/
def Ev.raise (e : Ev) (n : Notice) : Ev := { e with notices := e.notices ++ [n] }

/-- The event with an item dirtied. -/
def Ev.dirtied (e : Ev) (i : Item) : Ev := { e with dirty := e.dirty ++ [i] }

/-! ## Notices (R198, R199) -/

/-- The ports a new stage concerns (R10). -/
def stagePort (st : Stage) (p : Port) : Bool :=
  match st with
  | .planned | .tendonRunning | .tendonRejected => p = .p1 || p = .p4
  | .tendonPlaced => p = .p1 || p = .p2 || p = .p4
  | .grouting | .groutShort | .groutInterrupted | .curing => p = .p2 || p = .p4
  | .stressable | .stressing | .stressInterrupted | .failed | .lockedOff => p = .p3 || p = .p4
  | .abandoned => true
  | .suspect => p = .p4

/-- The port whose work depends on a fault's subject (R55). -/
def faultPort : FaultId → Port
  | .notReady c | .overRange c =>
    match c with
    | .groutPressA | .groutPressB => .p2
    | .winchTension => .p1
    | .load | .jackPress | .extA | .extB => .p3
  | .extDisagree | .loadDisagree => .p3

/-- The ports a notice is sent to (the routing table of R199). -/
def Notice.goesTo (n : Notice) (p : Port) : Bool :=
  match n with
  | .stageChanged _ _ new => stagePort new p
  | .holdChanged _ _ _ _ => true
  | .permitChanged l _ _ => p = linePort l || p = .p4
  | .nextStep _ _ | .holdReading _ _ _ _ _ _ | .holdComplete _ _ _ _ _ _ | .holdVoid _ _ _ _
  | .liftoffCaptured _ _ _ _ | .sessionEnded _ _ => p = .p3 || p = .p4
  | .limitExceeded .rig _ _ _ _ => p = .p1 || p = .p4
  | .limitExceeded _ _ _ _ _ => p = .p2 || p = .p4
  | .refusalReached _ _ _ _ _ => p = .p2 || p = .p4
  | .sensorFault f _ => p = faultPort f || p = .p4
  | .watchTripped _ _ _ _ _ _ _ => p = .p4

/-- The number of a channel (R49). -/
def channelNumber : Channel → Nat
  | .load => 0 | .jackPress => 1 | .extA => 2 | .extB => 3 | .groutPressA => 4 | .groutPressB => 5 | .winchTension => 6

/-- The place of a source in the order of R33. -/
def sourceRank : HoldSource → Nat
  | .survey => 0 | .deflection => 1 | .watch1 => 2 | .watch2 => 3 | .watch3 => 4 | .watch4 => 5 | .store => 6

/-- The number of a line: 1 RIG, 2 GROUT_A, 3 GROUT_B, 4 JACK (section 11.8). -/
def plineNumber : PLine → Nat
  | .rig => 1 | .groutA => 2 | .groutB => 3 | .jack => 4

/-- The number of a watch channel. -/
def watchNumber : WatchId → Nat
  | .w1 => 1 | .w2 => 2 | .w3 => 3 | .w4 => 4

/-- An anchor as a key (R2). -/
def AnchorId.key (a : AnchorId) : List Nat := [a.sect, a.tier, a.slot]

/-- The kind code of a notice (section 11.8) followed by its key (the table of R198). The place of a SENSOR_FAULT's
subject after the channels, and of its kind, is log 19. -/
def Notice.key : Notice → List Nat
  | .stageChanged a _ _ => 1 :: a.key
  | .holdChanged n src _ _ => [2, n, sourceRank src]
  | .permitChanged l _ _ => [3, plineNumber l]
  | .nextStep a _ => 4 :: a.key
  | .holdReading a _ _ _ _ _ => 5 :: a.key
  | .holdComplete a _ _ _ _ _ => 6 :: a.key
  | .holdVoid a _ _ _ => 7 :: a.key
  | .liftoffCaptured a _ _ _ => 8 :: a.key
  | .sessionEnded a _ => 9 :: a.key
  | .limitExceeded .rig _ _ _ _ => [10, 1]
  | .limitExceeded .groutA _ _ _ _ => [10, 2]
  | .limitExceeded .groutB _ _ _ _ => [10, 3]
  | .refusalReached .a _ _ _ _ => [11, 2]
  | .refusalReached .b _ _ _ _ => [11, 3]
  | .sensorFault (.notReady c) _ => [12, channelNumber c, 0]
  | .sensorFault (.overRange c) _ => [12, channelNumber c, 1]
  | .sensorFault .extDisagree _ => [12, 7, 2]
  | .sensorFault .loadDisagree _ => [12, 8, 3]
  | .watchTripped w _ _ _ _ _ _ => [13, watchNumber w]

/-- A STAGE_CHANGED that replaces a queued one takes over its previous stage; every other notice is sent as raised
(R198). -/
def Notice.replacing (new old : Notice) : Notice :=
  match new, old with
  | .stageChanged a _ st, .stageChanged _ prev _ => .stageChanged a prev st
  | n, _ => n

/-- A notice raised for a port: lost off the bus (R199), otherwise queued in the place of one with its key, or after
the oldest is discarded from a full queue, or at the tail (R198). -/
def offerNotice (p : PortState) (n : Notice) : PortState :=
  if p.link = .onBus then
    match p.notices.find? fun q => q.key = n.key with
    | some q => { p with notices := (p.notices.filter fun r => r.key ≠ n.key) ++ [n.replacing q] }
    | none =>
      if Config.noticeRoom ≤ p.notices.length then
        { p with notices := p.notices.drop 1 ++ [n], flags := { p.flags with noticeDropped := true } }
      else { p with notices := p.notices ++ [n] }
  else p

/-- The notices of one event offered to one port, in the order given. -/
def offerAll (pid : Port) (ns : List Notice) (p : PortState) : PortState :=
  ns.foldl (fun q n => if n.goesTo pid then offerNotice q n else q) p

/-- A port that is not sending begins its next frame: the next answer frame if the slot holds one, otherwise the
oldest notice (R197). The bus is taken as free whenever the port is not sending (log 14). -/
def pump (p : PortState) : PortState :=
  if p.link = .onBus ∧ p.sending = none then
    match p.slot, p.notices with
    | f :: rest, _ => { p with slot := rest, sending := some (.answer f) }
    | [], n :: rest => { p with notices := rest, sending := some (.notice n) }
    | [], [] => p
  else p

/-! ## The write list (R182, R183) -/

/-- The item a job writes. -/
def WriteJob.item : WriteJob → Item
  | .image n _ => .image n
  | .directory _ _ => .directory
  | .sections _ => .sections
  | .config _ => .config
  | .schedule _ => .schedule
  | .entry i _ => .entry i
  | .mark _ => .mark

/-- The place of an item among those dirtied in one event (R182); images stand in the identity order of the anchors
that hold the slots. -/
def itemKey (s : State) : Item → List Nat
  | .entry i => [0, i]
  | .image n =>
    match s.anchors.find? fun r => r.imageSlot = n with
    | some r => 1 :: r.id.key
    | none => [1]
  | .directory => [2]
  | .sections => [3]
  | .config => [4]
  | .schedule => [5]
  | .mark => [6]

/-- An item that has become dirty: noted if it is being written, kept in its place if it is on the list, otherwise
joined to the tail (R182, R183). -/
def joinItem (r : Recorder) (i : Item) : Recorder :=
  match r.writer with
  | .writing job _ =>
    if job.item = i then { r with writer := .writing job true }
    else if r.list.contains i then r else { r with list := r.list ++ [i] }
  | _ => if r.list.contains i then r else { r with list := r.list ++ [i] }

/-- The items of one event join the list in the order of R182. -/
def joinItems (s : State) (items : List Item) : State :=
  { s with recorder := (sortByKey (itemKey s) items).foldl joinItem s.recorder }

/-! ## The end of an event -/

/-- In every event in which a channel is not evaluating, its persistence count is 0 and its history empty (R164). -/
def restWatches (s : State) : State :=
  { s with watch := s.watch.map fun w x => if evaluating s w then x else { x with count := 0, history := [] } }

/-- The PERMIT_CHANGED of every line whose result differs from its present state (R177). -/
def permitNotices (s : State) : List Notice :=
  (allLines.filter fun l => lineUp s l != s.permits.get l).map fun l =>
    .permitChanged l (lineUp s l) (lineCauses s l)

/-- Every line set to the result of its conditions (R177). -/
def setPermits (s : State) : State := { s with permits := PerPermit.tabulate (lineUp s) }

/-- The notices of an event in the order in which they join a queue (R198). -/
def sortNotices (ns : List Notice) : List Notice := sortByKey Notice.key ns

/-- Notices offered to the ports, and every port that is free begins its next frame. -/
def postNotices (s : State) (ns : List Notice) : State :=
  { s with ports := s.ports.map fun pid p => pump (offerAll pid (sortNotices ns) p) }

/-- The end of an event: idle channels rest, the lines are evaluated after all the changes of the event, the dirtied
items join the write list, the notices join the queues, and free ports begin their next frame. -/
def commit (e : Ev) : State :=
  let s := restWatches e.st
  postNotices (joinItems (setPermits s) e.dirty) (e.notices ++ permitNotices s)

/-! ## Requests (R194, R196) -/

/-- The answer of a request: its event so far, and the single frame or the read content with its number of
continuation frames. -/
inductive AnswerBody
  | single (code : Code) (data : AnswerData)
  | read (content : ReadContent) (n : Nat)

/-- A decided request. -/
structure Reply where
  ev : Ev
  body : AnswerBody

/-- A refused request: nothing is changed. -/
def refuse (s : State) (c : Code) : Reply := { ev := Ev.of s, body := .single c .none }

/-- An accepted request without answer data. -/
def done (e : Ev) : Reply := { ev := e, body := .single .done .none }

/-- An accepted request with answer data. -/
def doneWith (e : Ev) (d : AnswerData) : Reply := { ev := e, body := .single .done d }

/-- The number of continuation frames of a read whose bytes the manual does not lay out: FREE, within 1..32767
(section 11.8, log 7). -/
def freeFrames (s : State) : Nat := Config.freeNat s.freeIdx % 32767 + 1

/-- An accepted read: its content and a free number of continuation frames. -/
def readReply (s : State) (c : ReadContent) : Reply :=
  { ev := Ev.of { s with freeIdx := s.freeIdx + 1 }, body := .read c (freeFrames s) }

/-- What continuation frame `i` of a content carries: frame 0 of Identify the maker's codes, frame 1 the capacities
(R205); of every other read its portion (log 7). -/
def ReadContent.frame : ReadContent → Nat → FrameContent
  | .identify vendor part revision _ _ _ _, 0 => .maker vendor part revision
  | .identify _ _ _ anchors sections entries ports, _ + 1 => .capacities anchors sections entries ports
  | content, _ => .portion content

/-- The frames of an answer, in sending order (R196). -/
def answerFrames (kind : Byte) : AnswerBody → List AnswerFrame
  | .single c d => [.single kind c d]
  | .read content n =>
    .first kind n :: (List.range n).map fun i => .cont kind (i + 1 = n) i (content.frame i)

/-- The first three conditions of a taking: ON_BUS, no request in hand, taking (R194). -/
def portReady (p : PortState) : Bool := p.link = .onBus && p.inHand.isNone && p.taking

/-- Whether a port takes a frame of this kind and payload next (R194). -/
def canTake (s : State) (p : Port) (kind : Byte) (pl : List Byte) : Bool :=
  portReady (s.ports.get p) && (s.ports.get p).inbound.head? = some { kind := kind, payload := pl }

/-- The oldest frame leaves the inbound queue and becomes the request in hand (R194). -/
def takeFrame (s : State) (p : Port) : State :=
  let q := s.ports.get p
  { s with ports := s.ports.set p { q with inbound := q.inbound.drop 1, inHand := q.inbound.head? } }

/-- One port flag operation on one port. -/
def setFlags (s : State) (p : Port) (f : PortFlags → PortFlags) : State :=
  { s with ports := s.ports.set p { s.ports.get p with flags := f (s.ports.get p).flags } }

/-- The answer is put into the slot as one run of frames (R196). -/
def putAnswer (kind : Byte) (p : Port) (r : Reply) : Ev :=
  r.ev.mod fun s =>
    { s with ports := s.ports.set p { s.ports.get p with slot := answerFrames kind r.body } }

/-- The decision of a taken request: the port unit's role check and length check, then the owning block (R194). -/
def decide_ (k : ReqKind) (p : Port) (pl : List Byte) (body : State → Reply) (s : State) : Reply :=
  if k.allowed p then
    if pl.length = k.length then body s
    else refuse (setFlags s p fun f => { f with malformed := true }) .malformed
  else refuse (setFlags s p fun f => { f with wrongRole := true }) .wrongRole

/-- The event of taking a request, absent while the port does not take this frame next. -/
def takeEvent (k : ReqKind) (p : Port) (pl : List Byte) (body : State → Reply) (s : State) : Option Ev :=
  if canTake s p k.code pl then some (putAnswer k.code p (decide_ k p pl body (takeFrame s p))) else none

/-- An event that occurs, or the state as it stands where its condition does not stand (log 5). -/
def occurs (e : Option Ev) (s : State) : Host.Outcome State Fault Refusal :=
  match e with
  | some e => .next (commit e)
  | none => .next s

/-- The taking of a request (R194). -/
def take (k : ReqKind) (p : Port) (pl : List Byte) (body : State → Reply) (s : State) :
    Host.Outcome State Fault Refusal :=
  occurs (takeEvent k p pl body s) s

/-! ## Anchor records -/

/-- The records with one replaced, by identity. -/
def replaceAnchor (l : List AnchorRec) (r : AnchorRec) : List AnchorRec := l.map fun x => if x.id = r.id then r else x

/-- The records with a new one in its place in identity order (R2). -/
def insertAnchor (r : AnchorRec) : List AnchorRec → List AnchorRec
  | [] => [r]
  | x :: rest => if r.id.before x.id then r :: x :: rest else x :: insertAnchor r rest

/-- A record written, and its image dirtied (R11). -/
def Ev.writeAnchor (e : Ev) (r : AnchorRec) : Ev :=
  (e.mod fun s => { s with anchors := replaceAnchor s.anchors r }).dirtied (.image r.imageSlot)

/-- The key of a cure list place: due time, then identity (R23). -/
def CureEntry.key (c : CureEntry) : List Nat := c.due :: c.id.key

/-- A place put into the cure list (R23, R24). -/
def joinCure (c : CureEntry) (l : List CureEntry) : List CureEntry := insertByKey CureEntry.key c l

/-- An anchor taken off the cure list (R24). -/
def leaveCure (a : AnchorId) (l : List CureEntry) : List CureEntry := l.filter fun c => c.id ≠ a

/-! ## Sections and holds (R33 to R38) -/

/-- One section record replaced. -/
def setSection (s : State) (n : Nat) (r : SectionRec) : State := { s with sections := s.sections.set (n - 1) r }

/-- The persistent fields of a section changed, and the section block dirtied (R29). -/
def Ev.changeSection (e : Ev) (n : Nat) (f : SectionData → SectionData) : Ev :=
  (e.mod fun s => setSection s n { sectionRec s n with data := f (sectionRec s n).data }).dirtied .sections

/-- The records with one written in the source order, in the place of any of its source (R33). -/
def putHold (holds : List Hold) (h : Hold) : List Hold :=
  insertByKey (fun x => [sourceRank x.source]) h (holds.filter fun x => x.source ≠ h.source)

/-- A hold record written on a section, and HOLD_CHANGED (R33, R35). -/
def Ev.writeHold (e : Ev) (n : Nat) (src : HoldSource) (lv : HoldLevel) (reason : Option Nat) : Ev :=
  let e' := e.changeSection n fun d =>
    { d with holds := putHold d.holds { source := src, level := lv, time := stampTime e.st, reason := reason } }
  e'.raise (.holdChanged n src (some lv) (effectiveLevel e'.st n))

/-- Whether a section holds a record of a source. -/
def hasHold (s : State) (n : Nat) (src : HoldSource) : Bool := (sectionRec s n).data.holds.any fun h => h.source = src

/-- The section's record of a source removed, if there is one, and HOLD_CHANGED (R35, R37). -/
def Ev.removeHold (e : Ev) (n : Nat) (src : HoldSource) : Ev :=
  if hasHold e.st n src then
    let e' := e.changeSection n fun d => { d with holds := d.holds.filter fun h => h.source ≠ src }
    e'.raise (.holdChanged n src none (effectiveLevel e'.st n))
  else e

/-- The locked-off count of an anchor's section at its tier moved by one (R15, R42). -/
def Ev.countLocked (e : Ev) (a : AnchorId) (f : Nat → Nat) : Ev :=
  e.changeSection a.sect fun d => { d with counts := d.counts.set (a.tier - 1) (f (d.counts.getD (a.tier - 1) 0)) }

/-- An exit from SUSPECT reported: the STORE hold goes with the last SUSPECT anchor of the section (R15, R38). -/
def Ev.leftSuspect (e : Ev) (n : Nat) : Ev :=
  if e.st.anchors.any fun r => r.id.sect = n && r.stage = .suspect then e else e.removeHold n .store

/-- A change of stage applied whole (R8): the record is written as given, the cure list, the locked-off count and the
STORE hold follow, and STAGE_CHANGED is sent (R10). `old` is the record before the event. -/
def Ev.changeStage (e : Ev) (old new : AnchorRec) : Ev :=
  let e := e.writeAnchor new
  let e := if old.stage = .curing then e.mod fun s => { s with cure := leaveCure new.id s.cure } else e
  let e :=
    if new.stage = .curing then
      e.mod fun s => { s with cure := joinCure { due := new.cureDue.getD 0, id := new.id } s.cure }
    else e
  let e := if old.stage = .lockedOff then e.countLocked new.id (· - 1) else e
  let e := if new.stage = .lockedOff then e.countLocked new.id (· + 1) else e
  let e := if old.stage = .suspect then e.leftSuspect new.id.sect else e
  e.raise (.stageChanged new.id (some old.stage) new.stage)

/-! ## The reading pool (R158, R160) -/

/-- The index a place of a reading list names. -/
def ListPlace.index? : ListPlace → Option Nat
  | .entry i => some i
  | .lost => none

/-- The USED entries of a reading list released to FREE; a lost place frees nothing (R158, R189). -/
def releaseReadings (s : State) (places : List ListPlace) : State :=
  { s with pool := { s.pool with used := s.pool.used.filter fun r => !places.contains (.entry r.index) } }

/-- The reading list of a record, empty without a result. -/
def readingsOf (r : AnchorRec) : List ListPlace :=
  match r.result with
  | some t => t.readings
  | none => []

/-! ## The power warning (R66, R184) -/

/-- The writer at a raising of POWER_WARNING (R184). `begun` says that the write of the reset-cause record is in progress,
where that record is still to be written: the write then runs to its completion, and the record carries the mark. -/
def writerAtWarning (r : Recorder) (begun : Bool) : Recorder :=
  if r.causeDue then { r with writer := .held, warned := true, causeOpen := r.causeOpen || begun }
  else
    match r.writer with
    | .idle => { r with writer := if r.warned then .held else .marking, warned := true }
    | .writing j n => { r with writer := .writing j n, markOwed := r.markOwed || !r.warned, warned := true }
    | .marking => { r with warned := true }
    | .held => { r with warned := true }

/-- Whether the write of the reset-cause record is in progress as POWER_WARNING is raised: FREE (log 12). -/
def causeBegun (s : State) : Bool := Config.causeBegun s.freeIdx s.meas.chans.load.taken

/-- POWER_WARNING raised (R66, R184). -/
def raiseWarning (s : State) : State :=
  { s with supply := { warning := true, above := 0 }, recorder := writerAtWarning s.recorder (causeBegun s) }

/-- POWER_WARNING cleared: a HELD writer becomes IDLE (R66, R184). -/
def clearWarning (s : State) : State :=
  { s with supply := { warning := false, above := 0 }
           recorder := { s.recorder with writer := if s.recorder.writer = .held then .idle else s.recorder.writer } }

end Sys2Proof.Machine
end

