-- ==== Sys2Proof/Machine/Anchors.lean ====
section
/-! DEFINITION. The anchor table's commands: definition, geometry, deletion, abandonment, retest, settlement and cure
expiry (R3 to R7, R16 to R21, R25). -/

namespace Sys2Proof.Machine

/-! ## Define Anchor (R4, R5) -/

/-- The design data of a Define Anchor payload (section 11.8), absent where a datum breaks a condition of R3. -/
def designOfPayload (s : State) (pl : List Byte) : Option Design :=
  let dwl := fieldNat pl 2 2 % 32768
  let tl := fieldNat pl 4 2 % 32768
  let ll := fieldNat pl 6 2
  match defineClass pl with
  | none => none
  | some c =>
    if inSections s (anchorField pl).sect ∧ 1 ≤ dwl ∧ dwl ≤ 30000 ∧ dwl ≤ tl ∧ tl ≤ 2 * dwl ∧ tl ≤ 30000 ∧ 1 ≤ ll ∧
        ll ≤ tl then
      some { zone := zoneField pl, cls := c, dwl := dwl, tl := tl, ll := ll }
    else none

/-- The lowest-numbered FREE slot of the directory (R181). -/
def freeImageSlot (s : State) : Nat :=
  ((lowestFree (s.anchors.map (·.imageSlot)) Config.maxAnchors 0 1).head?).getD 0

/-- The record Define Anchor creates (R4). -/
def plannedRecord (a : AnchorId) (slot : Nat) (d : Design) : AnchorRec :=
  { id := a, imageSlot := slot, design := some d, geometry := none, stage := .planned, tendon := none, passes := [],
    cureDue := none, result := none, reserved := 0, reason := 0, testNumber := 0 }

/-- The creation of a record: image, slot directory and STAGE_CHANGED without a previous stage (R4). -/
def createAnchor (s : State) (r : AnchorRec) : Ev :=
  ((((Ev.of { s with anchors := insertAnchor r s.anchors }).dirtied (.image r.imageSlot)).dirtied .directory).raise
    (.stageChanged r.id none r.stage))

/-- Define Anchor decided (R4, R5). -/
def defineAnchorReply (pl : List Byte) (s : State) : Reply :=
  match designOfPayload s pl with
  | none => refuse s .badValue
  | some d =>
    match findAnchor s (anchorField pl) with
    | some r =>
      if r.stage = .suspect then done ((Ev.of s).writeAnchor { r with design := some d })
      else refuse s .alreadyDefined
    | none =>
      if Config.maxAnchors ≤ s.anchors.length then refuse s .registerFull
      else done (createAnchor s (plannedRecord (anchorField pl) (freeImageSlot s) d))

/-- DEFINE_ANCHOR (R4). -/
def execDefineAnchor (p : Port) (pl : List Byte) (s : State) : Host.Outcome State Fault Refusal :=
  take .defineAnchor p pl (defineAnchorReply pl) s

/-! ## Set Anchor Geometry (R6) -/

/-- The geometry of a payload (section 11.8), absent where a value breaks its condition in R3. -/
def geometryOfPayload (pl : List Byte) : Option Geometry :=
  let g : Geometry :=
    { ea := fieldNat pl 2 4, lfree := fieldNat pl 6 2, lbond := fieldNat pl 8 2, minVolume := fieldNat pl 10 2 }
  if 10000 ≤ g.ea ∧ g.ea ≤ 2000000 ∧ 100 ≤ g.lfree ∧ g.lfree ≤ 5000 ∧ 100 ≤ g.lbond ∧ g.lbond ≤ 2000 ∧
      1 ≤ g.minVolume ∧ g.minVolume ≤ 65535 then some g else none

/-- Set Anchor Geometry decided (R6). -/
def setAnchorGeometryReply (pl : List Byte) (s : State) : Reply :=
  match findAnchor s (anchorField pl) with
  | none => refuse s .noSuchAnchor
  | some r =>
    if r.stage ≠ .planned ∧ r.stage ≠ .suspect then refuse s .wrongStage
    else
      match geometryOfPayload pl with
      | none => refuse s .badValue
      | some g => done ((Ev.of s).writeAnchor { r with geometry := some g })

/-- SET_ANCHOR_GEOMETRY (R6). -/
def execSetAnchorGeometry (p : Port) (pl : List Byte) (s : State) : Host.Outcome State Fault Refusal :=
  take .setAnchorGeometry p pl (setAnchorGeometryReply pl) s

/-! ## Delete Anchor (R7) -/

/-- The records without one identity. -/
def eraseAnchor (l : List AnchorRec) (a : AnchorId) : List AnchorRec := l.filter fun r => r.id ≠ a

/-- Delete Anchor decided (R7). -/
def deleteAnchorReply (pl : List Byte) (s : State) : Reply :=
  match findAnchor s (anchorField pl) with
  | none => refuse s .noSuchAnchor
  | some r =>
    if r.stage = .planned ∨ r.stage = .abandoned then
      done ((Ev.of { s with anchors := eraseAnchor s.anchors r.id }).dirtied .directory)
    else refuse s .wrongStage

/-- DELETE_ANCHOR (R7). -/
def execDeleteAnchor (p : Port) (pl : List Byte) (s : State) : Host.Outcome State Fault Refusal :=
  take .deleteAnchor p pl (deleteAnchorReply pl) s

/-! ## Abandon Anchor (R16) -/

/-- A record as Abandon Anchor leaves it: the reading list is emptied, the other fields of the result are kept (R16). -/
def abandonedRecord (r : AnchorRec) (reason : Nat) : AnchorRec :=
  { r with reason := reason, cureDue := none, stage := .abandoned,
           result := r.result.map fun t => { t with readings := [] } }

/-- Abandon Anchor decided (R16). -/
def abandonAnchorReply (pl : List Byte) (s : State) : Reply :=
  match findAnchor s (anchorField pl) with
  | none => refuse s .noSuchAnchor
  | some r =>
    if r.stage.isActive then refuse s .anchorActive
    else if r.stage = .abandoned then refuse s .wrongStage
    else done ((Ev.of (releaseReadings s (readingsOf r))).changeStage r (abandonedRecord r (fieldNat pl 2 1)))

/-- ABANDON_ANCHOR (R16). -/
def execAbandonAnchor (p : Port) (pl : List Byte) (s : State) : Host.Outcome State Fault Refusal :=
  take .abandonAnchor p pl (abandonAnchorReply pl) s

/-! ## Retest Anchor (R17) -/

/-- A record back in STRESSABLE without its test result (R17, R20). -/
def retestedRecord (r : AnchorRec) : AnchorRec := { r with stage := .stressable, result := none }

/-- Retest Anchor decided (R17). -/
def retestAnchorReply (pl : List Byte) (s : State) : Reply :=
  match findAnchor s (anchorField pl) with
  | none => refuse s .noSuchAnchor
  | some r =>
    if r.stage = .failed ∨ r.stage = .lockedOff then
      done ((Ev.of (releaseReadings s (readingsOf r))).changeStage r (retestedRecord r))
    else refuse s .wrongStage

/-- RETEST_ANCHOR (R17). -/
def execRetestAnchor (p : Port) (pl : List Byte) (s : State) : Host.Outcome State Fault Refusal :=
  take .retestAnchor p pl (retestAnchorReply pl) s

/-! ## Settle Anchor (R18 to R21) -/

/-- The five settleable stages (R18). -/
def Stage.isSettleable : Stage → Bool
  | .tendonRejected | .groutInterrupted | .groutShort | .stressInterrupted | .suspect => true
  | _ => false

/-- The decisions allowed from a stage (the table of R18). -/
def settleAllowed : Stage → Stage → Bool
  | .tendonRejected, .planned | .tendonRejected, .tendonPlaced => true
  | .groutInterrupted, .curing | .groutInterrupted, .groutShort => true
  | .groutShort, .curing => true
  | .stressInterrupted, .stressable | .stressInterrupted, .failed => true
  | .suspect, .planned | .suspect, .tendonPlaced | .suspect, .curing | .suspect, .stressable
  | .suspect, .lockedOff => true
  | _, _ => false

/-- The decision's cure due time is formed from the present time (R18, R19). -/
def settleNeedsClock (from_ dest : Stage) : Bool :=
  dest = .curing && (from_ = .groutInterrupted || from_ = .groutShort)

/-- The tendon record a settlement declares, for a record that has none (R12). -/
def declaredTendon (s : State) (r : AnchorRec) : Option TendonRecord :=
  match r.tendon, r.geometry with
  | some t, _ => some t
  | none, some g =>
    some { length := min (designLengthMm s g) Config.maxPaidOut, peak := 0, limitEvents := 0, time := stampTime s }
  | none, none => none

/-- Present time plus the cure period (R19, R24). Past the clock's range the manual states no value: FREE (log 13). -/
def settleDue (s : State) (now : Nat) : Nat :=
  let sum := now + s.config.params.curePeriod * 60
  if sum ≤ Config.maxClock then sum else Config.freeNat s.freeIdx % (Config.maxClock + 1)

/-- A record as a decision leaves it but for its reason (R12, R19, R20, R21); `carried` is the due time of the request. -/
def decidedRecord (s : State) (r : AnchorRec) (dest : Stage) (carried : Nat) : AnchorRec :=
  match r.stage, dest with
  | .tendonRejected, .planned => { r with stage := .planned, tendon := none }
  | .tendonRejected, .tendonPlaced => { r with stage := .tendonPlaced, tendon := declaredTendon s r }
  | .groutInterrupted, .groutShort => { r with stage := .groutShort }
  | .groutInterrupted, .curing | .groutShort, .curing =>
    { r with stage := .curing, cureDue := some (settleDue s (stampTime s)) }
  | .stressInterrupted, .stressable => retestedRecord r
  | .stressInterrupted, .failed =>
    { r with stage := .failed, result := r.result.map fun t => { t with verdict := some .failNotEvaluable } }
  | .suspect, .planned => { r with stage := .planned, tendon := none }
  | .suspect, .curing => { r with stage := .curing, tendon := declaredTendon s r, cureDue := some carried }
  | .suspect, dest => { r with stage := dest, tendon := declaredTendon s r }
  | _, dest => { r with stage := dest }

/-- A record as a settlement leaves it, with the reason code of the request (R18). -/
def settledRecord (s : State) (r : AnchorRec) (dest : Stage) (reason carried : Nat) : AnchorRec :=
  { decidedRecord s r dest carried with reason := reason }

/-- The pool as a settlement leaves it: STRESS_INTERRUPTED to STRESSABLE releases the reading list (R20). -/
def settledPool (s : State) (r : AnchorRec) (dest : Stage) : State :=
  if r.stage = .stressInterrupted ∧ dest = .stressable then releaseReadings s (readingsOf r) else s

/-- A settlement draws a free value where its due time passes the clock's range (log 13). -/
def settledFree (s : State) (r : AnchorRec) (dest : Stage) : State :=
  if settleNeedsClock r.stage dest ∧ Config.maxClock < stampTime s + s.config.params.curePeriod * 60 then
    { s with freeIdx := s.freeIdx + 1 }
  else s

/-- Settle Anchor decided (R18). -/
def settleAnchorReply (pl : List Byte) (s : State) : Reply :=
  match findAnchor s (anchorField pl) with
  | none => refuse s .noSuchAnchor
  | some r =>
    if !r.stage.isSettleable then refuse s .wrongStage
    else
      match stageOfCode (fieldNat pl 2 1) with
      | none => refuse s .badValue
      | some dest =>
        if !settleAllowed r.stage dest then refuse s .badValue
        else if r.stage = .suspect ∧ (r.design.isNone ∨ r.geometry.isNone) then refuse s .geometryUnset
        else if settleNeedsClock r.stage dest ∧ s.clock.time.isNone then refuse s .clockUnset
        else
          done ((Ev.of (settledFree (settledPool s r dest) r dest)).changeStage r
            (settledRecord s r dest (fieldNat pl 3 1) (fieldNat pl 4 4)))

/-- SETTLE_ANCHOR (R18). -/
def execSettleAnchor (p : Port) (pl : List Byte) (s : State) : Host.Outcome State Fault Refusal :=
  take .settleAnchor p pl (settleAnchorReply pl) s

/-! ## Cure expiry (R25) -/

/-- The event of a cure expiry: the clock is SET and at or past the due time of the head (R25). A due time clamped to the
end of the clock's range (R97) is at or past once the clock stands there, and expires: DESIGN CHOICE (log 35). -/
def cureExpiryEvent (s : State) : Option Ev :=
  match s.clock.time, s.cure with
  | some now, c :: _ =>
    if c.due ≤ now then
      (findAnchor s c.id).map fun r => (Ev.of s).changeStage r { r with stage := .stressable, cureDue := none }
    else none
  | _, _ => none

/-- CURE_EXPIRY (R25). -/
def execCureExpiry (s : State) : Host.Outcome State Fault Refusal := occurs (cureExpiryEvent s) s

end Sys2Proof.Machine
end

