-- ==== Sys2Proof/WellFormed.lean ====
section
/-! DEFINITION. Which commands are well formed: the operands every meaning may be given by the site (the meanings
themselves are total and answer on every command). -/

namespace Sys2Proof

/-- A frame carries 0 to 8 bytes, or 12 or 16 (R192). -/
def payloadOk (pl : List Byte) : Bool :=
  pl.length ≤ 8 || pl.length = 12 || pl.length = 16

/-- A received frame has a payload of a length the bus can carry. -/
def RxFrame.wf (f : RxFrame) : Bool := payloadOk f.payload

/-- The trigger of a watch trip is well formed. -/
def Trigger.wf : Trigger → Bool
  | .sample _ => true
  | .flowRate => true
  | .report _ pl => payloadOk pl
  | .rise => true

/-- A section number lies in 1..64 (R29). -/
def sectionNumberOk (n : Nat) : Bool := 1 ≤ n && n ≤ Config.sectionCapacity

/-- The supply that raises a warning has fallen below 19.0 V (R66). -/
def supplyLow (v : Nat) : Bool := v < 190

/-- The well-formedness of a command's operands. -/
def Instr.wf : Instr → Bool
  | .identify _ pl | .readStatus _ pl | .readAnchor _ pl | .readSection _ pl | .readSession _ pl
  | .clearPortFlags _ pl | .unknownRequestTaken _ _ pl
  | .tendonStart _ pl | .tendonDone _ pl | .tendonWithdraw _ pl
  | .injectStart _ pl | .injectEnd _ pl
  | .stressOpen _ pl | .advance _ pl | .release _ pl | .stressAbort _ pl | .stopSession _ pl
  | .defineAnchor _ pl | .setAnchorGeometry _ pl | .deleteAnchor _ pl | .abandonAnchor _ pl
  | .retestAnchor _ pl | .settleAnchor _ pl
  | .setHold _ pl | .releaseHold _ pl | .openZone _ pl | .closeZone _ pl | .reportDeflection _ pl
  | .setClock _ pl | .setParameter _ pl | .setSection _ pl | .setCalibration _ pl
  | .writeStep _ pl | .setScheduleHead _ pl
  | .watchConfigure _ pl | .watchThreshold _ pl | .watchEnable _ pl | .watchDisable _ pl
  | .watchRearm _ pl | .restart _ pl => payloadOk pl
  | .frameReceived _ f => f.wf
  | .frameSent _ | .busOffEntered _ | .busOffRecovered _ => true
  | .sampleSet _ | .notReadyCleared _ _ | .faultCleared _ _ | .rigLimitLatchSet _
  | .groutLimitLatchSet _ _ | .refusalReached _ _ | .holdPointReading _ | .holdVoid _ => true
  | .watchStepTrip _ t | .watchActionTrip _ t => t.wf
  | .chainLapse | .riseOverEvaluation | .flowRateUpdate | .passEntryRefresh _ => true
  | .sectionStale n => sectionNumberOk n
  | .worksClockSecond | .clockMarkDue | .cureExpiry => true
  | .winchEncStep _ | .flowPulse _ | .valveChanged _ _ => true
  | .powerWarningRaised v => supplyLow v
  | .powerWarningCleared _ => true
  | .itemWriteBegin | .itemWriteComplete | .warningMarkWritten => true
  | .powerOnReset | .resetLineReset | .restartReset | .resetCauseWritten => true

end Sys2Proof
end

