-- ==== Sys2Proof/Machine/Measurement.lean ====
section
/-! DEFINITION. The measurement unit: calibration, histories and values, faults, derived values, the pulse and valve
inputs, the works clock and the supply monitor (chapter 3). -/

namespace Sys2Proof.Machine

/-! ## Calibrated samples (R51) -/

/-- (raw − zero) × span ÷ 65536, truncated toward zero (R51). -/
def calibratedResult (c : Calibration) (raw : RawWord) : Int :=
  (((raw.toNat : Int) - (c.zero : Int)) * (c.span : Int)).tdiv 65536

/-- The calibrated sample: the result brought within 0 and the channel maximum (R51). -/
def calibratedSample (m : Nat) (c : Calibration) (raw : RawWord) : Nat := clampInt 0 m (calibratedResult c raw)

/-- The OVER_RANGE condition of a sample: the result exceeds the channel maximum (R51). -/
def overRangeCondition (m : Nat) (c : Calibration) (raw : RawWord) : Bool := (m : Int) < calibratedResult c raw

/-! ## Faults (R53 to R55) -/

/-- A fault after one sample set in which its condition is present or absent (R54). -/
def FaultState.judge (f : FaultState) (condition : Bool) : FaultState :=
  if condition then { present := true, absent := 0 }
  else if f.present ∧ f.absent + 1 < Config.periodsPerSecond then { present := true, absent := f.absent + 1 }
  else FaultState.clear

/-- A raising or a clearing of a fault sends SENSOR_FAULT (R55). -/
def Ev.faultChange (e : Ev) (f : FaultId) (before after : Bool) : Ev :=
  if before = after then e else e.raise (.sensorFault f after)

/-! ## One channel (R52) -/

/-- A history with a sample joined; the oldest leaves once it holds 8 (R52). -/
def joinHistory (h : List Nat) (v : Nat) : List Nat :=
  if Config.historyLength ≤ h.length then h.drop 1 ++ [v] else h ++ [v]

/-- The value of a history: the truncated mean of eight samples, 0 while there are fewer (R52). -/
def historyValue (h : List Nat) : Nat := if h.length = Config.historyLength then h.sum / Config.historyLength else 0

/-- A channel after one conversion (R51, R52, R54). -/
def ChannelState.sample (x : ChannelState) (m : Nat) (c : Calibration) (raw : RawWord) : ChannelState :=
  { history := joinHistory x.history (calibratedSample m c raw)
    taken := x.taken + 1
    value := historyValue (joinHistory x.history (calibratedSample m c raw))
    notReady := (joinHistory x.history (calibratedSample m c raw)).length ≠ Config.historyLength
    overRange := x.overRange.judge (overRangeCondition m c raw) }

/-- One channel's state replaced. -/
def setChannel (s : State) (c : Channel) (x : ChannelState) : State :=
  { s with meas := { s.meas with chans := channelSet s.meas.chans c x } }

/-- One channel converted, with the notices of its faults (R52, R54, R55). -/
def Ev.sampleChannel (e : Ev) (c : Channel) (raw : RawWord) : Ev :=
  let old := channelGet e.st.meas.chans c
  let new := old.sample (channelMax c) (channelGet e.st.config.cals c) raw
  ((e.mod fun s => setChannel s c new).faultChange (.notReady c) old.notReady new.notReady).faultChange (.overRange c)
    old.overRange.present new.overRange.present

/-! ## Derived values (R56, R57) -/

/-- |a − b|. -/
def absDiff (a b : Nat) : Nat := (a - b) + (b - a)

/-- The EXT_DISAGREE condition (R56). -/
def extDisagreeCondition (s : State) : Bool :=
  !faultPresent s.meas (.notReady .extA) && !faultPresent s.meas (.notReady .extB) &&
    s.config.params.extDisagree < absDiff (channelValue s.meas .extA) (channelValue s.meas .extB)

/-- EXTENSION formed and EXT_DISAGREE judged (R56). -/
def Ev.sampleExtension (e : Ev) : Ev :=
  let old := e.st.meas.extDisagree
  let new := old.judge (extDisagreeCondition e.st)
  (e.mod fun s =>
    { s with meas := { s.meas with
        extension := (channelValue s.meas .extA + channelValue s.meas .extB) / 2
        extDisagree := new } }).faultChange .extDisagree old.present new.present

/-- The load from pressure, LP (R57). -/
def loadFromPressure (press area : Nat) : Nat := press * area / 10000

/-- The LOAD_DISAGREE condition; absent while no session is open (R57). -/
def loadDisagreeCondition (s : State) : Bool :=
  match s.session with
  | none => false
  | some x =>
    !faultPresent s.meas (.notReady .load) && !faultPresent s.meas (.notReady .jackPress) &&
      500 ≤ channelValue s.meas .load &&
      s.config.params.loadTol * channelValue s.meas .load <
        absDiff (channelValue s.meas .load) (loadFromPressure (channelValue s.meas .jackPress) x.area) * 1000

/-- The load cross-check (R57). -/
def Ev.crossCheck (e : Ev) : Ev :=
  let old := e.st.meas.loadDisagree
  let new := old.judge (loadDisagreeCondition e.st)
  (e.mod fun s => { s with meas := { s.meas with loadDisagree := new } }).faultChange .loadDisagree old.present
    new.present

/-- The seven conversions of a sample set (R49). -/
def Ev.convert (e : Ev) (raw : PerChannel RawWord) : Ev :=
  allChannels.foldl (fun acc c => acc.sampleChannel c (channelGet raw c)) e

/-- The measurement unit's part of a sample set: the seven channels, EXTENSION and the load cross-check (R49). -/
def Ev.measure (e : Ev) (raw : PerChannel RawWord) : Ev := (e.convert raw).sampleExtension.crossCheck

/-! ## Set Calibration (R58) -/

/-- Whether a channel is in use by active work (the table of R58). -/
def channelInUse (s : State) : Channel → Bool
  | .load | .jackPress | .extA | .extB => s.session.isSome
  | .groutPressA => s.grout.a.isSome
  | .groutPressB => s.grout.b.isSome
  | .winchTension => s.rig.isSome

/-- A channel's calibration replaced and its history emptied, with the notices of its faults (R52, R54, R58). -/
def calibrateEvent (s : State) (c : Channel) (cal : Calibration) : Ev :=
  let old := channelGet s.meas.chans c
  ((((Ev.of (setChannel s c ChannelState.emptied)).mod fun t =>
      { t with config := { t.config with cals := channelSet t.config.cals c cal } }).dirtied .config).faultChange
    (.overRange c) old.overRange.present false).faultChange (.notReady c) old.notReady true

/-- The stored calibration of a payload (R50, R58). DESIGN CHOICE: of the seven bytes that section 11.8 gives the payload, the
channel takes one, the zero two and the span four, although three would hold its range (log 41). -/
def calibrationOfPayload (pl : List Byte) : Calibration :=
  { zero := clampNat 0 65535 (fieldNat pl 1 2), span := clampNat 1 200000 (fieldNat pl 3 4) }

/-- Set Calibration decided (R58). -/
def setCalibrationReply (pl : List Byte) (s : State) : Reply :=
  match channelOfCode (fieldNat pl 0 1) with
  | none => refuse s .badValue
  | some c =>
    if channelInUse s c then refuse s .channelInUse
    else doneWith (calibrateEvent s c (calibrationOfPayload pl))
      (.calibration (calibrationOfPayload pl).zero (calibrationOfPayload pl).span)

/-- SET_CALIBRATION (R58). -/
def execSetCalibration (p : Port) (pl : List Byte) (s : State) : Host.Outcome State Fault Refusal :=
  take .setCalibration p pl (setCalibrationReply pl) s

/-! ## Pulse inputs and valve lines (R60, R61) -/

/-- The paid-out length after one quadrature step, clamped at both ends (R60). -/
def paidOutAfter (d : WinchDir) (n : Nat) : Nat :=
  match d with
  | .payOut => min (n + 1) Config.maxPaidOut
  | .haulIn => n - 1

/-- WINCH_ENC_STEP (R60). -/
def execWinchEncStep (d : WinchDir) (s : State) : Host.Outcome State Fault Refusal :=
  .next { s with meas := { s.meas with paidOut := paidOutAfter d s.meas.paidOut } }

/-- One line's pulse state replaced. -/
def setLineMeas (s : State) (l : GLine) (x : LineMeas) : State :=
  { s with meas := { s.meas with lines := s.meas.lines.set l x } }

/-- A counted pulse: the gated volume saturates, the bin counts on (R61, R62). -/
def LineMeas.pulse (x : LineMeas) : LineMeas :=
  { x with gated := min (x.gated + 1) Config.maxCount16, bin := x.bin + 1 }

/-- FLOW_PULSE (R61): counted with the valve asserted and a pass running, otherwise nowhere. -/
def execFlowPulse (l : GLine) (s : State) : Host.Outcome State Fault Refusal :=
  .next
    (if (s.meas.lines.get l).valve ∧ (s.grout.get l).isSome then setLineMeas s l (s.meas.lines.get l).pulse else s)

/-- VALVE_CHANGED (R61). -/
def execValveChanged (l : GLine) (asserted : Bool) (s : State) : Host.Outcome State Fault Refusal :=
  .next (setLineMeas s l { s.meas.lines.get l with valve := asserted })

/-! ## The works clock (R63 to R65) -/

/-- Set Clock decided (R64). -/
def setClockReply (pl : List Byte) (s : State) : Reply :=
  if fieldNat pl 0 4 < s.clock.time.getD s.clock.mark then refuse s .clockBackward
  else
    done ((Ev.of { s with clock := { s.clock with time := some (fieldNat pl 0 4), ticks := 0, markSeconds := 0 } }).dirtied
      .mark)

/-- SET_CLOCK (R64). -/
def execSetClock (p : Port) (pl : List Byte) (s : State) : Host.Outcome State Fault Refusal :=
  take .setClock p pl (setClockReply pl) s

/-- The works clock one second on; a clock at the end of its range stays there (R63). -/
def ClockState.second (c : ClockState) (now : Nat) : ClockState :=
  { c with time := some (min (now + 1) Config.maxClock), ticks := c.ticks - Config.periodsPerSecond,
           markSeconds := c.markSeconds + 1 }

/-- WORKS_CLOCK_SECOND (R63): due once a hundred sample periods have run since the last second (log 6). -/
def execWorksClockSecond (s : State) : Host.Outcome State Fault Refusal :=
  match s.clock.time with
  | none => .next s
  | some now =>
    .next (if Config.periodsPerSecond ≤ s.clock.ticks then { s with clock := s.clock.second now } else s)

/-- The event of the clock mark: the 600th second since the last Set Clock, or the 600th since (R65). -/
def clockMarkEvent (s : State) : Option Ev :=
  if s.clock.time.isSome ∧ 600 ≤ s.clock.markSeconds then
    some ((Ev.of { s with clock := { s.clock with markSeconds := s.clock.markSeconds - 600 } }).dirtied .mark)
  else none

/-- CLOCK_MARK_DUE (R65). -/
def execClockMarkDue (s : State) : Host.Outcome State Fault Refusal := occurs (clockMarkEvent s) s

/-! ## The supply monitor (R66) -/

/-- The supply of one sample period judged: in 0.1 V, below 190 raises, 100 periods above 200 clear (R66). -/
def sampleSupply (v : Nat) (s : State) : State :=
  if s.supply.warning then
    if 200 < v then
      if Config.periodsPerSecond ≤ s.supply.above + 1 then clearWarning s
      else { s with supply := { s.supply with above := s.supply.above + 1 } }
    else { s with supply := { s.supply with above := 0 } }
  else if supplyLow v then raiseWarning s
  else s

/-- The event of the supply falling below 19.0 V while no warning is present (R66). -/
def powerWarningEvent (v : Nat) (s : State) : Option Ev :=
  if supplyLow v ∧ s.supply.warning = false then some (Ev.of (raiseWarning s)) else none

/-- POWER_WARNING_RAISED (R66). -/
def execPowerWarningRaised (v : Nat) (s : State) : Host.Outcome State Fault Refusal :=
  occurs (powerWarningEvent v s) s

end Sys2Proof.Machine
end

