-- ==== Sys2Proof/Machine/Rig.lean ====
section
/-! DEFINITION. The rig monitor: Tendon Start, the judgement of a sample set, Tendon Done and Tendon Withdraw
(chapter 4). -/

namespace Sys2Proof.Machine

/-! ## Starting a run (R71, R72) -/

/-- Nine tenths of a limit, truncated: the level at which a limit latch clears (R69, R83). -/
def releaseLevelOf (limit : Nat) : Nat := limit * 9 / 10

/-- The tendon context as Tendon Start opens it (R69). -/
def openedRun (s : State) (a : AnchorId) (g : Geometry) (now : Nat) : TendonCtx :=
  { anchor := a, start := now, designLength := designLengthMm s g, tolerance := s.config.params.tendonTol,
    tensionLimit := s.config.params.winchLimit, releaseLevel := releaseLevelOf s.config.params.winchLimit, peak := 0,
    overCount := 0, latch := false, limitEvents := 0 }

/-- What an accepted Tendon Start does (R72). -/
def tendonStartEvent (s : State) (r : AnchorRec) (g : Geometry) (now : Nat) : Ev :=
  (Ev.of { s with rig := some (openedRun s r.id g now), meas := { s.meas with paidOut := 0 } }).changeStage r
    { r with stage := .tendonRunning }

/-- Tendon Start decided (R71). -/
def tendonStartReply (pl : List Byte) (s : State) : Reply :=
  match findAnchor s (anchorField pl) with
  | none => refuse s .noSuchAnchor
  | some r =>
    if s.rig.isSome then refuse s .rigBusy
    else
      match s.clock.time with
      | none => refuse s .clockUnset
      | some now =>
        if r.stage ≠ .planned then refuse s .wrongStage
        else
          match r.geometry with
          | none => refuse s .geometryUnset
          | some g =>
            if anchorZoneClosed s r then refuse s .zoneClosed
            else if sectionHeld s r.id.sect then refuse s .sectionHeld
            else if rigFaulted s.meas then refuse s .sensorFault
            else done (tendonStartEvent s r g now)

/-- TENDON_START (R71). -/
def execTendonStart (p : Port) (pl : List Byte) (s : State) : Host.Outcome State Fault Refusal :=
  take .tendonStart p pl (tendonStartReply pl) s

/-! ## During the run (R73, R74) -/

/-- The over count after a value, while the latch is clear (R73, R88). -/
def overCountAfter (value limit overCount : Nat) : Nat := if limit < value then overCount + 1 else 0

/-- The context after a winch tension value, and whether the latch was set by it (R73, R74). -/
def TendonCtx.judge (c : TendonCtx) (v : Nat) : TendonCtx :=
  let c := { c with peak := max c.peak v }
  if c.latch then { c with latch := c.releaseLevel < v, overCount := 0 }
  else if overCountAfter v c.tensionLimit c.overCount = 3 then
    { c with latch := true, overCount := 0, limitEvents := min (c.limitEvents + 1) Config.maxCount8 }
  else { c with overCount := overCountAfter v c.tensionLimit c.overCount }

/-- The rig monitor's part of a sample set; LIMIT_EXCEEDED as the latch is set (R73). -/
def Ev.judgeRig (e : Ev) : Ev :=
  match e.st.rig with
  | none => e
  | some c =>
    let v := channelValue e.st.meas .winchTension
    let e' := e.mod fun s => { s with rig := some (c.judge v) }
    if !c.latch && (c.judge v).latch then
      e'.raise (.limitExceeded .rig c.anchor v c.tensionLimit (c.judge v).limitEvents)
    else e'

/-! ## Ending a run (R76 to R78) -/

/-- The open run on an anchor record, absent unless the record is in TENDON_RUNNING (R76). -/
def openRun (s : State) (r : AnchorRec) : Option TendonCtx :=
  if r.stage = .tendonRunning then s.rig else none

/-- The difference |L − design length| (R76). -/
def placedDifference (c : TendonCtx) (l : Nat) : Nat := absDiff l c.designLength

/-- The decision of Tendon Done (R76). -/
def placedStage (c : TendonCtx) (l : Nat) : Stage :=
  if placedDifference c l ≤ c.tolerance then .tendonPlaced else .tendonRejected

/-- The record as Tendon Done leaves it: the tendon record for both decisions (R77). -/
def placedRecord (s : State) (c : TendonCtx) (r : AnchorRec) : AnchorRec :=
  { r with
    stage := placedStage c s.meas.paidOut
    tendon := some { length := s.meas.paidOut, peak := c.peak, limitEvents := c.limitEvents, time := stampTime s } }

/-- Tendon Done decided (R76, R77). -/
def tendonDoneReply (pl : List Byte) (s : State) : Reply :=
  match findAnchor s (anchorField pl) with
  | none => refuse s .noSuchAnchor
  | some r =>
    match openRun s r with
    | none => refuse s .wrongStage
    | some c =>
      doneWith ((Ev.of { s with rig := none }).changeStage r (placedRecord s c r))
        (.tendonDone (placedStage c s.meas.paidOut) s.meas.paidOut (placedDifference c s.meas.paidOut))

/-- TENDON_DONE (R76). -/
def execTendonDone (p : Port) (pl : List Byte) (s : State) : Host.Outcome State Fault Refusal :=
  take .tendonDone p pl (tendonDoneReply pl) s

/-- Tendon Withdraw decided (R78). -/
def tendonWithdrawReply (pl : List Byte) (s : State) : Reply :=
  match findAnchor s (anchorField pl) with
  | none => refuse s .noSuchAnchor
  | some r =>
    match openRun s r with
    | none => refuse s .wrongStage
    | some _ => done ((Ev.of { s with rig := none }).changeStage r { r with stage := .planned })

/-- TENDON_WITHDRAW (R78). -/
def execTendonWithdraw (p : Port) (pl : List Byte) (s : State) : Host.Outcome State Fault Refusal :=
  take .tendonWithdraw p pl (tendonWithdrawReply pl) s

end Sys2Proof.Machine
end

