-- ==== Sys2Proof/Machine/Grout.lean ====
section
/-! DEFINITION. The grout monitor: Inject Start, the judgement of a sample set on each line, the second's refresh of the
open pass entry, and Inject End (chapter 5). -/

namespace Sys2Proof.Machine

/-! ## Starting a pass (R85 to R87) -/

/-- Whether an anchor's stage suits the kind of a pass (R85, check 6). -/
def stageSuits (k : PassKind) (st : Stage) : Bool :=
  match k with
  | .primary => st = .tendonPlaced
  | .topUp => st = .groutShort
  | .post => st = .curing || st = .stressable

/-- Whether the post-grout window admits a POST at a time: measured from the end of the last entry, both bounds
included (R86). -/
def windowAdmits (s : State) (r : AnchorRec) (now : Nat) : Bool :=
  match r.passes.getLast?.bind (·.stop) with
  | none => false
  | some stop =>
    ((s.config.params.windowMin * 60 : Nat) : Int) ≤ (now : Int) - stop &&
      (now : Int) - stop ≤ ((s.config.params.windowMax * 60 : Nat) : Int)

/-- The line context as Inject Start opens it (R83); `position` is that of the appended entry. -/
def openedPass (s : State) (r : AnchorRec) (k : PassKind) : LineCtx :=
  { anchor := r.id, kind := k, position := r.passes.length + 1
    pressLimit := (sectionRec s r.id.sect).data.pressLimit
    releaseLevel := releaseLevelOf (sectionRec s r.id.sect).data.pressLimit
    refusalPress := (sectionRec s r.id.sect).data.refusalPress
    peak := 0, overCount := 0, latch := false, limitEvents := 0, refusalCount := 0, refusalReached := false }

/-- The pass entry Inject Start appends (R87). -/
def startedEntry (k : PassKind) (l : GLine) (now : Nat) : PassEntry :=
  { kind := k, line := l, start := now, stop := none, volume := 0, peak := 0, limitEvents := 0, refusal := false }

/-- One line's context replaced. -/
def setLineCtx (s : State) (l : GLine) (c : Option LineCtx) : State := { s with grout := s.grout.set l c }

/-- A line opened: its context, its gated volume at 0 and no second owed to it (R61, R87). -/
def openLine (s : State) (l : GLine) (c : LineCtx) : State :=
  let s := setLineMeas (setLineCtx s l (some c)) l { s.meas.lines.get l with gated := 0 }
  { s with time := { s.time with refreshDue := s.time.refreshDue.set l 0 } }

/-- What an accepted Inject Start does (R87). -/
def injectStartEvent (s : State) (r : AnchorRec) (l : GLine) (k : PassKind) (now : Nat) : Ev :=
  (Ev.of (openLine s l (openedPass s r k))).changeStage r
    { r with stage := .grouting, cureDue := none, passes := r.passes ++ [startedEntry k l now] }

/-- Inject Start decided for a line and a kind (R85, from check 3). -/
def injectStartOn (a : AnchorId) (l : GLine) (k : PassKind) (s : State) : Reply :=
  match findAnchor s a with
  | none => refuse s .noSuchAnchor
  | some r =>
    if (s.grout.get l).isSome then refuse s .lineBusy
    else
      match s.clock.time with
      | none => refuse s .clockUnset
      | some now =>
        if !stageSuits k r.stage then refuse s .wrongStage
        else if k = .post ∧ windowAdmits s r now = false then refuse s .windowClosed
        else if 4 ≤ r.passes.length then refuse s .passesFull
        else if anchorZoneClosed s r then refuse s .zoneClosed
        else if sectionHeld s r.id.sect then refuse s .sectionHeld
        else if sectionIsStale s r.id.sect then refuse s .deflectionStale
        else if lineFaulted s.meas l then refuse s .sensorFault
        else done (injectStartEvent s r l k now)

/-- Inject Start decided (R85). -/
def injectStartReply (pl : List Byte) (s : State) : Reply :=
  match lineOfCode (fieldNat pl 2 1), passKindOfCode (fieldNat pl 3 1) with
  | some l, some k => injectStartOn (anchorField pl) l k s
  | _, _ => refuse s .badValue

/-- INJECT_START (R85). -/
def execInjectStart (p : Port) (pl : List Byte) (s : State) : Host.Outcome State Fault Refusal :=
  take .injectStart p pl (injectStartReply pl) s

/-! ## During the pass (R88 to R91) -/

/-- The context after a pressure value, as far as the peak and the limit latch go (R88 steps 1 to 4, R89). -/
def LineCtx.judgeLimit (c : LineCtx) (v : Nat) : LineCtx :=
  let c := { c with peak := max c.peak v }
  if c.latch then { c with latch := c.releaseLevel < v, overCount := 0 }
  else if overCountAfter v c.pressLimit c.overCount = 3 then
    { c with latch := true, overCount := 0, limitEvents := min (c.limitEvents + 1) Config.maxCount8 }
  else { c with overCount := overCountAfter v c.pressLimit c.overCount }

/-- The sample sets at or above the refusal pressure that make 60 s (R90). -/
def refusalSets : Nat := 6000

/-- The context after a pressure value, as far as refusal goes (R90). -/
def LineCtx.judgeRefusal (c : LineCtx) (v : Nat) : LineCtx :=
  if c.refusalReached then c
  else if v < c.refusalPress then { c with refusalCount := 0 }
  else if c.refusalCount + 1 < refusalSets then { c with refusalCount := c.refusalCount + 1 }
  else { c with refusalCount := refusalSets, refusalReached := true }

/-- The pass list with the entry at a position (1 is the first) changed. -/
def changeEntry (passes : List PassEntry) (position : Nat) (f : PassEntry → PassEntry) : List PassEntry :=
  passes.modify (position - 1) f

/-- The open pass entry of a running line changed, and the anchor image dirtied (R88, R90, R91). -/
def Ev.changeOpenEntry (e : Ev) (c : LineCtx) (f : PassEntry → PassEntry) : Ev :=
  match findAnchor e.st c.anchor with
  | none => e
  | some r => e.writeAnchor { r with passes := changeEntry r.passes c.position f }

/-- The subject of a line's LIMIT_EXCEEDED. -/
def limitSubject : GLine → LimitSubject
  | .a => .groutA
  | .b => .groutB

/-- The limit judgement of a running line: a latch set is counted into the open entry and reported (R88). -/
def Ev.judgeLineLimit (e : Ev) (l : GLine) (c : LineCtx) (v : Nat) : Ev :=
  let c' := c.judgeLimit v
  let e' := e.mod fun s => setLineCtx s l (some c')
  if !c.latch && c'.latch then
    (e'.changeOpenEntry c fun x => { x with limitEvents := c'.limitEvents }).raise
      (.limitExceeded (limitSubject l) c.anchor v c.pressLimit c'.limitEvents)
  else e'

/-- The refusal judgement of a running line: refusal reached is written into the open entry and reported (R90). -/
def Ev.judgeLineRefusal (e : Ev) (l : GLine) (c : LineCtx) (v : Nat) : Ev :=
  let c' := c.judgeRefusal v
  let e' := e.mod fun s => setLineCtx s l (some c')
  if !c.refusalReached && c'.refusalReached then
    (e'.changeOpenEntry c fun x => { x with refusal := true }).raise
      (.refusalReached l c.anchor v c.refusalPress (e.st.meas.lines.get l).gated)
  else e'

/-- The grout monitor's part of a sample set, on one line (R88). -/
def Ev.judgeLine (e : Ev) (l : GLine) : Ev :=
  match e.st.grout.get l with
  | none => e
  | some c =>
    let v := channelValue e.st.meas (lineChannel l)
    (e.judgeLineLimit l c v).judgeLineRefusal l (c.judgeLimit v) v

/-- A line's second is used up (log 6). -/
def useRefresh (s : State) (l : GLine) : State :=
  { s with time := { s.time with refreshDue := s.time.refreshDue.set l (s.time.refreshDue.get l - 1) } }

/-- The entry a running line's context and gated volume call for differs from the one held (R91). -/
def entryTrails (s : State) (l : GLine) (c : LineCtx) : Bool :=
  match (findAnchor s c.anchor).bind fun r => r.passes[c.position - 1]? with
  | none => false
  | some x => x.volume ≠ (s.meas.lines.get l).gated || x.peak ≠ c.peak

/-- The event of a second of a running line (R91). -/
def refreshEvent (l : GLine) (s : State) : Option Ev :=
  match s.grout.get l with
  | none => none
  | some c =>
    if s.time.refreshDue.get l = 0 then none
    else if entryTrails s l c then
      some ((Ev.of (useRefresh s l)).changeOpenEntry c fun x =>
        { x with volume := (s.meas.lines.get l).gated, peak := c.peak })
    else some (Ev.of (useRefresh s l))

/-- PASS_ENTRY_REFRESH (R91). -/
def execPassEntryRefresh (l : GLine) (s : State) : Host.Outcome State Fault Refusal := occurs (refreshEvent l s) s

/-! ## Ending a pass (R94 to R97) -/

/-- The open pass of an anchor record on a line, absent unless the record is in GROUTING there (R94, check 4). -/
def openPassOn (s : State) (r : AnchorRec) (l : GLine) : Option LineCtx :=
  match s.grout.get l with
  | none => none
  | some c => if r.stage = .grouting ∧ c.anchor = r.id then some c else none

/-- The pass list with the open entry closed (R95). -/
def closedPasses (c : LineCtx) (passes : List PassEntry) (now gated : Nat) : List PassEntry :=
  changeEntry passes c.position fun x =>
    { x with stop := some now, volume := gated, peak := c.peak, limitEvents := c.limitEvents,
             refusal := c.refusalReached }

/-- The cumulative volume: the volumes of every PRIMARY and TOP_UP entry (R96). -/
def cumulativeVolume (passes : List PassEntry) : Nat :=
  ((passes.filter fun x => x.kind ≠ .post).map (·.volume)).sum

/-- The minimum grout volume of a record; a record without geometry has none to reach (R96). -/
def minimumVolume (r : AnchorRec) : Nat :=
  match r.geometry with
  | some g => g.minVolume
  | none => 0

/-- The stage after a pass (R96). -/
def stageAfterPass (k : PassKind) (r : AnchorRec) (passes : List PassEntry) : Stage :=
  if k = .post ∨ minimumVolume r ≤ cumulativeVolume passes then .curing else .groutShort

/-- The cure due time formed at Inject End, clamped to the clock's range (R97). -/
def cureDueAt (s : State) (now : Nat) : Nat := min (now + s.config.params.curePeriod * 60) Config.maxClock

/-- The record as Inject End leaves it (R95). -/
def injectedRecord (s : State) (c : LineCtx) (r : AnchorRec) (passes : List PassEntry) : AnchorRec :=
  if stageAfterPass c.kind r passes = .curing then
    { r with passes := passes, stage := .curing, cureDue := some (cureDueAt s (stampTime s)) }
  else { r with passes := passes, stage := .groutShort }

/-- What an accepted Inject End does and answers (R95). -/
def injectEndDone (s : State) (r : AnchorRec) (l : GLine) (c : LineCtx) : Reply :=
  let gated := (s.meas.lines.get l).gated
  let new := injectedRecord s c r (closedPasses c r.passes (stampTime s) gated)
  doneWith ((Ev.of (setLineCtx s l none)).changeStage r new)
    (.injectEnd new.stage gated (if c.kind = .post then none else some (cumulativeVolume new.passes)) new.cureDue)

/-- Inject End decided (R94). -/
def injectEndReply (pl : List Byte) (s : State) : Reply :=
  match lineOfCode (fieldNat pl 2 1) with
  | none => refuse s .badValue
  | some l =>
    match findAnchor s (anchorField pl) with
    | none => refuse s .noSuchAnchor
    | some r =>
      match openPassOn s r l with
      | none => refuse s .wrongStage
      | some c => injectEndDone s r l c

/-- INJECT_END (R94). -/
def execInjectEnd (p : Port) (pl : List Byte) (s : State) : Host.Outcome State Fault Refusal :=
  take .injectEnd p pl (injectEndReply pl) s

end Sys2Proof.Machine
end

