-- ==== Sys2Proof/Machine/Parameters.lean ====
section
/-! DEFINITION. Set Parameter: the 22 parameters, their ranges, their refusals and the effects of a change (R206, R30,
R43, R46, R47, R56, R57, R70, R84, R116, R167). -/

namespace Sys2Proof.Machine

/-- The parameters, in the number order of R206. -/
inductive ParamId
  | sectionCount | curePeriod | windowMin | windowMax | jacking | tendonTol | winchLimit | stalePeriod | reachBand
  | holdBand | offBandVoid | pauseVoid | reholdMax | liftThreshold | liftTol | relockMax | freeLower | bondShare
  | extDisagree | loadTol | stagger | chainMode
  deriving DecidableEq, Repr

/-- The parameter of a number (the table of R206). -/
def paramOfCode : Nat → Option ParamId
  | 1 => some .sectionCount | 2 => some .curePeriod | 3 => some .windowMin | 4 => some .windowMax | 5 => some .jacking
  | 6 => some .tendonTol | 7 => some .winchLimit | 8 => some .stalePeriod | 9 => some .reachBand | 10 => some .holdBand
  | 11 => some .offBandVoid | 12 => some .pauseVoid | 13 => some .reholdMax | 14 => some .liftThreshold
  | 15 => some .liftTol | 16 => some .relockMax | 17 => some .freeLower | 18 => some .bondShare
  | 19 => some .extDisagree | 20 => some .loadTol | 21 => some .stagger | 22 => some .chainMode
  | _ => none

/-- The staleness period clamped: 0, or 30..3600, a value of 1 to 29 becoming 30 (R46, R206). -/
def clampStale (v : Int) : Nat := if v ≤ 0 then 0 else clampInt 30 3600 v

/-- A value clamped into its parameter's range (R30, R43, R46, R56, R57, R70, R84, R116, R167). -/
def clampParam (k : ParamId) (v : Int) : Nat :=
  match k with
  | .sectionCount => clampInt 2 64 v
  | .curePeriod => clampInt 60 20160 v
  | .windowMin => clampInt 120 4320 v
  | .windowMax => clampInt 120 4320 v
  | .jacking => clampInt 50 300 v
  | .tendonTol => clampInt 20 1000 v
  | .winchLimit => clampInt 10 1000 v
  | .stalePeriod => clampStale v
  | .reachBand => clampInt 5 50 v
  | .holdBand => clampInt 10 50 v
  | .offBandVoid => clampInt 10 300 v
  | .pauseVoid => clampInt 60 3600 v
  | .reholdMax => clampInt 0 5 v
  | .liftThreshold => clampInt 5 200 v
  | .liftTol => clampInt 10 100 v
  | .relockMax => clampInt 0 3 v
  | .freeLower => clampInt 800 1000 v
  | .bondShare => clampInt 0 1000 v
  | .extDisagree => clampInt 10 500 v
  | .loadTol => clampInt 20 200 v
  | .stagger => clampInt 0 4 v
  | .chainMode => clampInt 0 3 v

/-- A parameter's value. -/
def Params.get (p : Params) : ParamId → Nat
  | .sectionCount => p.sectionCount | .curePeriod => p.curePeriod | .windowMin => p.windowMin
  | .windowMax => p.windowMax | .jacking => p.jacking | .tendonTol => p.tendonTol | .winchLimit => p.winchLimit
  | .stalePeriod => p.stalePeriod | .reachBand => p.reachBand | .holdBand => p.holdBand
  | .offBandVoid => p.offBandVoid | .pauseVoid => p.pauseVoid | .reholdMax => p.reholdMax
  | .liftThreshold => p.liftThreshold | .liftTol => p.liftTol | .relockMax => p.relockMax
  | .freeLower => p.freeLower | .bondShare => p.bondShare | .extDisagree => p.extDisagree | .loadTol => p.loadTol
  | .stagger => p.stagger | .chainMode => p.chainMode

/-- The parameters with one value stored. -/
def Params.set (p : Params) (k : ParamId) (v : Nat) : Params :=
  match k with
  | .sectionCount => { p with sectionCount := v }
  | .curePeriod => { p with curePeriod := v }
  | .windowMin => { p with windowMin := v }
  | .windowMax => { p with windowMax := v }
  | .jacking => { p with jacking := v }
  | .tendonTol => { p with tendonTol := v }
  | .winchLimit => { p with winchLimit := v }
  | .stalePeriod => { p with stalePeriod := v }
  | .reachBand => { p with reachBand := v }
  | .holdBand => { p with holdBand := v }
  | .offBandVoid => { p with offBandVoid := v }
  | .pauseVoid => { p with pauseVoid := v }
  | .reholdMax => { p with reholdMax := v }
  | .liftThreshold => { p with liftThreshold := v }
  | .liftTol => { p with liftTol := v }
  | .relockMax => { p with relockMax := v }
  | .freeLower => { p with freeLower := v }
  | .bondShare => { p with bondShare := v }
  | .extDisagree => { p with extDisagree := v }
  | .loadTol => { p with loadTol := v }
  | .stagger => { p with stagger := v }
  | .chainMode => { p with chainMode := v }

/-- A parameter's own refusal (R206, check 2): an anchor above the clamped section count (R30), a channel ENABLED under
the chain mode (R167). -/
def paramRefusal (s : State) (k : ParamId) (v : Nat) : Option Code :=
  match k with
  | .sectionCount => if s.anchors.any fun r => v < r.id.sect then some .badValue else none
  | .chainMode => if allWatches.any fun w => (s.watch.get w).enabled then some .configLocked else none
  | _ => none

/-- HOLD_CHANGED of every hold record that the sections of a list lose (R30, R35). Each carries the effective level NONE,
that of the section after all the removals of the event: DESIGN CHOICE (log 32). -/
def removedHolds (s : State) (ns : List Nat) : List Notice :=
  ns.flatMap fun n => (sectionRec s n).data.holds.map fun h => .holdChanged n h.source none none

/-- The sections above a new section count, up to the old one (R30). -/
def droppedSections (old new : Nat) : List Nat := (List.range 65).filter fun n => new < n && n ≤ old

/-- The sections of a list returned to their defaults, their holds reported and the section block dirtied (R30). -/
def Ev.defaultSections (e : Ev) (ns : List Nat) : Ev :=
  if ns.isEmpty then e
  else
    { e.mod fun s => ns.foldl (fun acc n => setSection acc n SectionRec.default) s with
      notices := e.notices ++ removedHolds e.st ns
      dirty := e.dirty ++ [.sections] }

/-- Every section's stale flag evaluated against its age with a new period (R47). -/
def restale (s : State) (period : Nat) : State :=
  { s with sections := s.sections.map fun r => { r with stale := ageStale period r.age } }

/-- The effects of a stored parameter beyond its value (R30, R47). -/
def Ev.paramEffect (e : Ev) (k : ParamId) (old new : Nat) : Ev :=
  match k with
  | .sectionCount => e.defaultSections (droppedSections old new)
  | .stalePeriod => e.mod fun s => restale s new
  | _ => e

/-- A parameter stored: the value, the configuration block and its effects (R206). -/
def storeParam (s : State) (k : ParamId) (v : Nat) : Ev :=
  ((Ev.of { s with config := { s.config with params := s.config.params.set k v } }).dirtied .config).paramEffect k
    (s.config.params.get k) v

/-- Set Parameter decided (R206). -/
def setParameterReply (pl : List Byte) (s : State) : Reply :=
  match paramOfCode (fieldNat pl 0 1) with
  | none => refuse s .badValue
  | some k =>
    match paramRefusal s k (clampParam k (fieldInt pl 1 4)) with
    | some c => refuse s c
    | none => doneWith (storeParam s k (clampParam k (fieldInt pl 1 4))) (.value (clampParam k (fieldInt pl 1 4)))

/-- SET_PARAMETER (R206). -/
def execSetParameter (p : Port) (pl : List Byte) (s : State) : Host.Outcome State Fault Refusal :=
  take .setParameter p pl (setParameterReply pl) s

end Sys2Proof.Machine
end

