-- ==== Sys2Proof/Machine/Reads.lean ====
section
/-! DEFINITION. The reads, Identify and Clear Port Flags: what each answers from the state as it stands at the taking
(R28, R32, R143, R196, R201, R204, R205). -/

namespace Sys2Proof.Machine

/-! ## Identify (R205) -/

/-- The content of Identify (R205), in two continuation frames. -/
def identifyReply (s : State) : Reply :=
  { ev := Ev.of s, body := .read (.identify 0x5A4E 0x0420 2 512 64 8192 4) 2 }

/-- IDENTIFY (R205). -/
def execIdentify (p : Port) (pl : List Byte) (s : State) : Host.Outcome State Fault Refusal :=
  take .identify p pl identifyReply s

/-! ## Read Anchor (R28) -/

/-- The readings of a reading list, in list order: a lost place and a torn entry carry no content (R28, R189). -/
def readingViews (s : State) : Nat → List ListPlace → List ReadingView
  | _, [] => []
  | n, .lost :: rest => { position := n, body := none } :: readingViews s (n + 1) rest
  | n, .entry i :: rest =>
    { position := n, body := (tableGet s.pool.used i).bind (·.body) } :: readingViews s (n + 1) rest

/-- The test result fields of a record. -/
def resultView (t : TestResult) : ResultView :=
  { verdict := t.verdict, lapp := t.lapp, creep := t.creep, plock := t.plock, plift := t.plift, loss := t.loss,
    stamp := t.stamp }

/-- What Read Anchor returns of a record (R28). -/
def anchorView (s : State) (r : AnchorRec) : AnchorView :=
  { id := r.id, stage := r.stage, reason := r.reason, design := r.design, geometry := r.geometry, cureDue := r.cureDue,
    reserved := r.reserved, tendon := r.tendon, passes := r.passes, result := r.result.map resultView,
    readings := readingViews s 1 (readingsOf r) }

/-- Read Anchor decided (R28). -/
def readAnchorReply (pl : List Byte) (s : State) : Reply :=
  match findAnchor s (anchorField pl) with
  | none => refuse s .noSuchAnchor
  | some r => readReply s (.anchor (anchorView s r))

/-- READ_ANCHOR (R28). -/
def execReadAnchor (p : Port) (pl : List Byte) (s : State) : Host.Outcome State Fault Refusal :=
  take .readAnchor p pl (readAnchorReply pl) s

/-! ## Read Section (R32) -/

/-- What Read Section returns of a section (R32). -/
def sectionView (s : State) (n : Nat) : SectionView :=
  let r := sectionRec s n
  { number := n, inUse := inSections s n, pressLimit := r.data.pressLimit, refusalPress := r.data.refusalPress,
    deflLimit := r.data.deflLimit, lastDeflection := r.data.lastDeflection, age := r.age, stale := staleFlagReads s n,
    counts := r.data.counts, effective := effectiveLevel s n, holds := r.data.holds }

/-- Read Section decided: BAD_VALUE outside 1..64 (R32). -/
def readSectionReply (pl : List Byte) (s : State) : Reply :=
  if 1 ≤ fieldNat pl 0 1 ∧ fieldNat pl 0 1 ≤ Config.sectionCapacity then
    readReply s (.sect (sectionView s (fieldNat pl 0 1)))
  else refuse s .badValue

/-- READ_SECTION (R32). -/
def execReadSection (p : Port) (pl : List Byte) (s : State) : Host.Outcome State Fault Refusal :=
  take .readSection p pl (readSectionReply pl) s

/-! ## Read Session (R143) -/

/-- A stage frame as Read Session returns it (R143). -/
def frameView (f : StageFrame) : FrameView :=
  { target := f.target, cycle := f.cycle, critical := f.critical, creepExtended := f.creepExtended,
    holdDone := f.holdDone, rehold := f.rehold, holdReadings := f.holdReadings.length, ks := f.ks, ks2 := f.ks2 }

/-- A hold context as Read Session returns it, in whole seconds (R143, log 21). -/
def holdView (h : HoldCtx) : HoldView :=
  { begun := h.begun, elapsed := h.elapsed / Config.periodsPerSecond, offBand := h.offBand / Config.periodsPerSecond,
    pause := h.pause / Config.periodsPerSecond, nextPoint := h.nextPoint }

/-- The datum frame as Read Session returns it (R143). -/
def datumView (d : DatumFrame) : DatumView := { target := d.target, load0 := d.load0, ext0 := d.ext0 }

/-- What Read Session returns of the open session (R143). -/
def sessionView (s : State) (x : Session) : SessionView :=
  { anchor := x.anchor, cls := x.cls, head := x.head, info := stepInfo s x, paused := sessionPaused s,
    relocks := x.relocks, reservation := x.reservation, area := x.area, captured := x.captured
    datum := x.datum.map datumView
    frames := x.stages.reverse.map frameView
    hold := match x.phase with | .holding h => some (holdView h) | _ => none
    lift := match x.phase with | .liftoff l => some l | _ => none
    plock := ((findAnchor s x.anchor).bind (·.result)).bind (·.plock)
    plift := ((findAnchor s x.anchor).bind (·.result)).bind (·.plift) }

/-- Read Session decided: DONE with n = 0 while the engine is IDLE (R143). -/
def readSessionReply (s : State) : Reply :=
  match s.session with
  | none => { ev := Ev.of s, body := .read (.status []) 0 }
  | some x => readReply s (.session (sessionView s x))

/-- READ_SESSION (R143). -/
def execReadSession (p : Port) (pl : List Byte) (s : State) : Host.Outcome State Fault Refusal :=
  take .readSession p pl readSessionReply s

/-! ## Read Status (R204) -/

/-- A pulse line as Read Status returns it (R68). -/
def lineView (m : LineMeas) : LineView := { valve := m.valve, gated := m.gated, rate := m.rate }

/-- Part 1 (R68). -/
def statusMeasurement (s : State) : StatusPart :=
  .measurement (channelTabulate (channelValue s.meas)) s.meas.extension (allFaults.filter (faultPresent s.meas))
    s.meas.paidOut { a := lineView s.meas.lines.a, b := lineView s.meas.lines.b } s.clock.time s.clock.mark
    s.supply.warning

/-- The start time of a line's pass: that of its open pass entry (R101). -/
def passStart (s : State) (c : LineCtx) : Option Nat :=
  ((findAnchor s c.anchor).bind fun r => r.passes[c.position - 1]?).map (·.start)

/-- A running line as Read Status returns it (R101). -/
def passView (s : State) (c : LineCtx) : PassView :=
  { anchor := c.anchor, kind := c.kind, position := c.position, start := passStart s c, pressLimit := c.pressLimit,
    releaseLevel := c.releaseLevel, refusalPress := c.refusalPress, peak := c.peak, latch := c.latch,
    limitEvents := c.limitEvents, refusalCount := c.refusalCount, refusalReached := c.refusalReached }

/-- A running rig monitor as Read Status returns it (R81). -/
def runView (c : TendonCtx) : RunView :=
  { anchor := c.anchor, start := c.start, designLength := c.designLength, tolerance := c.tolerance,
    tensionLimit := c.tensionLimit, releaseLevel := c.releaseLevel, peak := c.peak, latch := c.latch,
    limitEvents := c.limitEvents }

/-- One head as Read Status returns it (R114). -/
def headInfo (s : State) (c : TestClass) : HeadInfo :=
  { head := s.schedule.heads.get c, result := (s.results.get c).answer, walkCount := (s.results.get c).walkCount,
    pathSteps := (s.results.get c).pathSteps, walked := headWalked s c }

/-- The worst-case reading count of a VALID head (R162). -/
def headWorst (s : State) (c : TestClass) : Option Nat :=
  (s.results.get c).walkCount.map fun n => worstCase n s.config.params.relockMax

/-- One watch channel as Read Status returns it (R179). -/
def watchView (s : State) (w : WatchId) (x : WatchState) : WatchView :=
  { config := s.config.watch.get w, enabled := x.enabled, armed := x.armed, tripped := x.tripped,
    swapPending := x.staged.isSome, staged := x.staged, count := x.count, window := x.window,
    evaluating := evaluating s w, latch := x.latch }

/-- One permit line as Read Status returns it (R179). -/
def permitView (s : State) (l : PLine) : PermitView := { asserted := s.permits.get l, causes := lineCauses s l }

/-- The writer's state by name: the write of the warning mark is a write in progress (R183). -/
def writerName : Writer → WriterName
  | .idle => .idle
  | .writing _ _ => .writing
  | .marking => .writing
  | .held => .held

/-- The item being written (R183). -/
def writtenItem : Writer → Option WrittenItem
  | .writing j _ => some (.item j.item)
  | .marking => some .warningMark
  | _ => none

/-- One port as Read Status returns it (R204). -/
def portView (p : PortState) : PortView :=
  { link := p.link, flags := p.flags, inbound := p.inbound.length, notices := p.notices.length }

/-- A part of Read Status, 1..8 (R204). -/
def statusPart (s : State) : Nat → Option StatusPart
  | 1 => some (statusMeasurement s)
  | 2 => some (.rig (s.rig.map runView) s.permits.rig)
  | 3 => some (.grout (s.grout.a.map (passView s)) (s.grout.b.map (passView s)) s.permits.groutA s.permits.groutB)
  | 4 => some (.schedule (PerClass.tabulate (headInfo s)))
  | 5 => some (.pool s.pool.freeCount s.pool.reservedCount s.pool.usedCount (PerClass.tabulate (headWorst s)))
  | 6 => some (.watch s.config.params.chainMode (chainCondition s) (s.watch.map (watchView s))
      (PerPermit.tabulate (permitView s)))
  | 7 => some (.store (writerName s.recorder.writer) (writtenItem s.recorder.writer) s.recorder.list.length
      s.recorder.cause)
  | 8 => some (.ports (s.ports.map fun _ p => portView p) s.config.zones s.config.params.sectionCount)
  | _ => none

/-- Read Status decided: part 0 answers all eight in order, above 8 is BAD_VALUE (R204). -/
def readStatusReply (pl : List Byte) (s : State) : Reply :=
  if 8 < fieldNat pl 0 1 then refuse s .badValue
  else if fieldNat pl 0 1 = 0 then readReply s (.status ([1, 2, 3, 4, 5, 6, 7, 8].filterMap (statusPart s)))
  else readReply s (.status ([fieldNat pl 0 1].filterMap (statusPart s)))

/-- READ_STATUS (R204). -/
def execReadStatus (p : Port) (pl : List Byte) (s : State) : Host.Outcome State Fault Refusal :=
  take .readStatus p pl (readStatusReply pl) s

/-! ## Clear Port Flags (R201) -/

/-- The port a Clear Port Flags names: 0 stands for the port that sends it (R201). -/
def namedPort (p : Port) (pl : List Byte) : Option Port :=
  if fieldNat pl 0 1 = 0 then some p else portOfCode (fieldNat pl 0 1)

/-- Clear Port Flags decided (R201). -/
def clearPortFlagsReply (p : Port) (pl : List Byte) (s : State) : Reply :=
  match namedPort p pl with
  | none => refuse s .badValue
  | some q =>
    if p ≠ .p4 ∧ q ≠ p then refuse (setFlags s p fun f => { f with wrongRole := true }) .wrongRole
    else doneWith (Ev.of (setFlags s q fun _ => PortFlags.clear)) (.flags (s.ports.get q).flags)

/-- CLEAR_PORT_FLAGS (R201). -/
def execClearPortFlags (p : Port) (pl : List Byte) (s : State) : Host.Outcome State Fault Refusal :=
  take .clearPortFlags p pl (clearPortFlagsReply p pl) s

end Sys2Proof.Machine
end

