-- ==== Sys2Proof/Machine/Ports.lean ====
section
/-! DEFINITION. The port units' own events: a taken frame of an unknown kind, a frame received, a frame sent, bus-off
and its recovery (R193 to R203). -/

namespace Sys2Proof.Machine

/-- The event of taking a frame whose kind code is not a request kind: answered UNKNOWN_REQUEST, the flag set (R194). -/
def unknownEvent (p : Port) (kind : Byte) (pl : List Byte) (s : State) : Option Ev :=
  if isRequestCode kind then none
  else if canTake s p kind pl then
    some (putAnswer kind p
      (refuse (setFlags (takeFrame s p) p fun f => { f with unknownRequest := true }) .unknownRequest))
  else none

/-- UNKNOWN_REQUEST_TAKEN (R194). -/
def execUnknownRequestTaken (p : Port) (kind : Byte) (pl : List Byte) (s : State) :
    Host.Outcome State Fault Refusal :=
  occurs (unknownEvent p kind pl s) s

/-- How an ON_BUS port sorts a received frame by its class (the table of R193). -/
def sortFrame (f : RxFrame) (p : PortState) : PortState :=
  if f.extended ∨ f.remote then { p with flags := { p.flags with malformed := true } }
  else if f.cls = 1 then
    if p.inbound.length < Config.inboundRoom then
      { p with inbound := p.inbound ++ [{ kind := f.kind, payload := f.payload }] }
    else { p with flags := { p.flags with overrun := true } }
  else if f.cls = 2 ∨ f.cls = 3 ∨ f.cls = 4 then { p with flags := { p.flags with unsolicited := true } }
  else { p with flags := { p.flags with malformed := true } }

/-- A frame arrives at a port: a port off the bus receives none (R192, R193, R203). -/
def receiveFrame (f : RxFrame) (p : PortState) : PortState := if p.link = .onBus then sortFrame f p else p

/-- FRAME_RECEIVED (R193). -/
def execFrameReceived (p : Port) (f : RxFrame) (s : State) : Host.Outcome State Fault Refusal :=
  .next { s with ports := s.ports.set p (receiveFrame f (s.ports.get p)) }

/-- A frame's sending completes: with the last frame of an answer the request in hand is released (R195), and the
port's next frame begins (R197). -/
def finishFrame (p : PortState) : PortState :=
  match p.sending with
  | none => p
  | some (.answer _) =>
    pump { p with sending := none, inHand := if p.slot.isEmpty then none else p.inHand }
  | some (.notice _) => pump { p with sending := none }

/-- FRAME_SENT (R195, R197). -/
def execFrameSent (p : Port) (s : State) : Host.Outcome State Fault Refusal :=
  .next { s with ports := s.ports.set p (finishFrame (s.ports.get p)) }

/-- What a port does when its controller enters bus-off (R203). -/
def portBusOff (p : PortState) : PortState :=
  { p with link := .busOff, inbound := [], inHand := none, slot := [], notices := [], sending := none,
           flags := { p.flags with linkLost := true } }

/-- The event of entering bus-off, from ON_BUS alone (R192, R203). -/
def busOffEvent (p : Port) (s : State) : Option Ev :=
  if (s.ports.get p).link = .onBus then
    some (Ev.of { s with ports := s.ports.set p (portBusOff (s.ports.get p)) })
  else none

/-- BUS_OFF_ENTERED (R203). -/
def execBusOffEntered (p : Port) (s : State) : Host.Outcome State Fault Refusal := occurs (busOffEvent p s) s

/-- The event of completing bus-off recovery (R203). -/
def rejoinEvent (p : Port) (s : State) : Option Ev :=
  if (s.ports.get p).link = .busOff then
    some (Ev.of { s with ports := s.ports.set p { s.ports.get p with link := .onBus } })
  else none

/-- BUS_OFF_RECOVERED (R203). -/
def execBusOffRecovered (p : Port) (s : State) : Host.Outcome State Fault Refusal := occurs (rejoinEvent p s) s

end Sys2Proof.Machine
end

