-- ==== Sys2Proof/Machine/Schedules.lean ====
section
/-! DEFINITION. The schedule table: the validation of a programme, Write Step and Set Schedule Head (chapter 6). -/

namespace Sys2Proof.Machine

/-! ## The simulation (R109 to R112) -/

/-- A frame of the simulated stack: its fraction, whether it is the datum frame, whether it has been held (R109). -/
structure SimFrame where
  fraction : Nat
  isDatum : Bool
  held : Bool
  deriving DecidableEq, Repr

/-- The simulation of a walk (R109). `stack` holds the frames, top frame first, the datum frame last. -/
structure Sim where
  stack : List SimFrame
  cycles : Nat
  evaluated : Bool
  lockedOff : Bool
  previous : Option StepKind
  count : Nat
  path : List Nat
  deriving DecidableEq, Repr

/-- The simulation at the start of a validation (R109). -/
def Sim.start : Sim :=
  { stack := [], cycles := 0, evaluated := false, lockedOff := false, previous := none, count := 0, path := [] }

/-- The fraction of the top frame. -/
def Sim.top (m : Sim) : Nat := (m.stack.head?.map (·.fraction)).getD 0

/-- The top frame is the datum frame. -/
def Sim.onDatum (m : Sim) : Bool := (m.stack.head?.map (·.isDatum)).getD false

/-- The fraction of the datum frame. -/
def Sim.datum (m : Sim) : Nat := (m.stack.getLast?.map (·.fraction)).getD 0

/-- The conditions of R110 marked for one kind, in the order of its table. -/
def kindFinding (m : Sim) : StepRec → Option Finding
  | .datum _ _ => if m.path ≠ [] then some .datumRepeated else none
  | .loadTo f _ =>
    if f ≤ m.top then some .loadNotAbove
    else if 8 ≤ m.stack.length then some .stackFull
    else if m.onDatum = true ∧ m.cycles = 7 then some .cyclesFull
    else none
  | .hold _ _ _ _ => if m.previous ≠ some .loadTo then some .holdMisplaced else none
  | .unloadTo f _ =>
    if m.top ≤ f then some .unloadNotBelow else if f < m.datum then some .unloadBelowDatum else none
  | .lockOff _ =>
    if 1 < m.stack.length ∨ m.lockedOff then some .lockOffMisplaced
    else if !m.evaluated then some .noEvaluation
    else none
  | .liftOff _ => if m.previous ≠ some .lockOff then some .liftOffMisplaced else none
  | .endStep => if m.previous ≠ some .liftOff then some .endMisplaced else none

/-- The first condition of R110 that fails at a step. -/
def stepFinding (m : Sim) (r : StepRec) : Option Finding :=
  if 24 ≤ m.path.length then some .tooLong
  else if m.path = [] ∧ r.kind ≠ .datum then some .firstNotDatum
  else if m.previous = some .lockOff ∧ r.kind ≠ .liftOff then some .liftOffMisplaced
  else if m.previous = some .liftOff ∧ r.kind ≠ .endStep then some .endMisplaced
  else
    match kindFinding m r with
    | some f => some f
    | none => if r.kind ≠ .endStep ∧ r.next = none then some .linkEnds else none

/-- The frames of a stack that an unload to a fraction pops (R110). -/
def simPopped (f : Nat) (stack : List SimFrame) : List SimFrame := stack.takeWhile fun g => f < g.fraction

/-- The pool entries of a step (the table of R112). -/
def stepEntries (m : Sim) : StepRec → Nat
  | .datum _ _ => 1
  | .loadTo _ _ => 1
  | .hold _ _ extendable _ => if extendable then 9 else 5
  | .unloadTo f _ => 1 + (simPopped f m.stack).length
  | .lockOff _ => 2
  | .liftOff _ => 1
  | .endStep => 0

/-- The stack with its top frame marked held (R110). -/
def holdTop : List SimFrame → List SimFrame
  | [] => []
  | top :: rest => { top with held := true } :: rest

/-- What a step that passes does to the stack, the cycle count and the notes (R110). -/
def Sim.change (m : Sim) : StepRec → Sim
  | .datum f _ => { m with stack := { fraction := f, isDatum := true, held := false } :: m.stack }
  | .loadTo f _ =>
    { m with stack := { fraction := f, isDatum := false, held := false } :: m.stack
             cycles := if m.onDatum then m.cycles + 1 else m.cycles }
  | .hold _ _ _ _ => { m with stack := holdTop m.stack }
  | .unloadTo f _ =>
    { m with
      stack := m.stack.dropWhile fun g => f < g.fraction
      evaluated := m.evaluated || (f = m.datum && (simPopped f m.stack).any fun g => 1000 ≤ g.fraction) }
  | .lockOff _ => { m with lockedOff := true }
  | .liftOff _ | .endStep => m

/-- The simulation after a step that passes: path, walk count and previous kind follow (R109). -/
def Sim.pass (m : Sim) (i : Nat) (r : StepRec) : Sim :=
  { m.change r with previous := some r.kind, count := m.count + stepEntries m r, path := m.path ++ [i] }

/-- The walk from a step (R109). Condition 1 of R110 ends it within 25 steps. -/
def walk (sch : ScheduleData) : (fuel : Nat) → Sim → Nat → HeadResult
  | 0, _, i => .invalid .tooLong (some i)
  | fuel + 1, m, i =>
    match stepFinding m (stepAt sch i) with
    | some f => .invalid f (some i)
    | none =>
      match (stepAt sch i).next with
      | none => .valid (m.pass i (stepAt sch i)).path (m.pass i (stepAt sch i)).count
      | some j => walk sch fuel (m.pass i (stepAt sch i)) j

/-- The validation of one head (R109). -/
def validateHead (sch : ScheduleData) : Option Nat → HeadResult
  | none => .invalid .noHead none
  | some i => walk sch 25 Sim.start i

/-- The validation of all three heads (R109). -/
def validateAll (sch : ScheduleData) : PerClass HeadResult :=
  PerClass.tabulate fun c => validateHead sch (sch.heads.get c)

/-! ## Editing the table (R106, R107) -/

/-- The table edited, revalidated and dirtied, answered with the three results (R106, R107, R114). -/
def editSchedule (s : State) (sch : ScheduleData) : Reply :=
  doneWith ((Ev.of { s with schedule := sch, results := validateAll sch }).dirtied .schedule)
    (.heads (headAnswers (validateAll sch)))

/-- Write Step decided (R106). -/
def writeStepReply (pl : List Byte) (s : State) : Reply :=
  if 64 ≤ fieldNat pl 0 1 then refuse s .badValue
  else
    match (stepKindOfCode (fieldNat pl 1 1)).bind fun k => stepOfPayload k pl with
    | none => refuse s .badValue
    | some r =>
      if stepInUse s (fieldNat pl 0 1) then refuse s .scheduleInUse
      else editSchedule s { s.schedule with steps := s.schedule.steps.set (fieldNat pl 0 1) r }

/-- WRITE_STEP (R106). -/
def execWriteStep (p : Port) (pl : List Byte) (s : State) : Host.Outcome State Fault Refusal :=
  take .writeStep p pl (writeStepReply pl) s

/-- Set Schedule Head decided (R107). -/
def setScheduleHeadReply (pl : List Byte) (s : State) : Reply :=
  match classOfCode (fieldNat pl 0 1), linkOfCode (fieldNat pl 1 1) with
  | some c, some h =>
    if headWalked s c then refuse s .scheduleInUse
    else editSchedule s { s.schedule with heads := s.schedule.heads.set c h }
  | _, _ => refuse s .badValue

/-- SET_SCHEDULE_HEAD (R107). -/
def execSetScheduleHead (p : Port) (pl : List Byte) (s : State) : Host.Outcome State Fault Refusal :=
  take .setScheduleHead p pl (setScheduleHeadReply pl) s

end Sys2Proof.Machine
end

