-- ==== Sys2Proof/Machine/Record.lean ====
section
/-! DEFINITION. The record store: the writer, the warning mark, Restart, the three resets and start-up recovery
(chapter 10, R27, R38, R48, R161). -/

namespace Sys2Proof.Machine

/-! ## The writer (R181, R183, R184) -/

/-- The slots the present directory names (R181). -/
def directorySlots (s : State) : List (Slot AnchorId) :=
  s.anchors.foldl (fun acc r => tablePut acc r.imageSlot r.id) []

/-- A directory write: to the copy with the lower sequence number or a failing check word, numbered one above the other
copy; to the first copy with number 1 where neither passes (R181). -/
def directoryJob (st : Store) (slots : List (Slot AnchorId)) : WriteJob :=
  match st.dirFirst, st.dirSecond with
  | some a, some b =>
    if b.seq < a.seq then .directory false { seq := a.seq + 1, slots := slots }
    else .directory true { seq := b.seq + 1, slots := slots }
  | some a, none => .directory false { seq := a.seq + 1, slots := slots }
  | none, some b => .directory true { seq := b.seq + 1, slots := slots }
  | none, none => .directory true { seq := 1, slots := slots }

/-- The write of an item, with its content as it stands (R180, R182; the clock mark by R65). -/
def jobOf (s : State) : Item → WriteJob
  | .entry i => .entry i (tableGet s.pool.used i)
  | .image n => .image n (s.anchors.find? fun r => r.imageSlot = n)
  | .directory => directoryJob s.store (directorySlots s)
  | .sections => .sections (s.sections.map (·.data))
  | .config => .config s.config
  | .schedule => .schedule s.schedule
  | .mark => .mark (stampTime s)

/-- Whether the writer may begin a write: IDLE, no warning, and past the start-up scan (R183, R190). -/
def writerReady (s : State) : Bool :=
  s.recorder.writer = .idle && !s.supply.warning && !s.recorder.causeDue

/-- The oldest item taken off the list and its write begun (R183). -/
def beginWrite (s : State) (i : Item) : State :=
  { s with recorder := { s.recorder with writer := .writing (jobOf s i) false, list := s.recorder.list.drop 1 } }

/-- ITEM_WRITE_BEGIN (R183). -/
def execItemWriteBegin (s : State) : Host.Outcome State Fault Refusal :=
  .next
    (match s.recorder.list with
      | [] => s
      | i :: _ => if writerReady s then beginWrite s i else s)

/-- The store with a completed write; an image or entry whose subject is gone leaves the stored item as it is (log 17). -/
def storeJob (st : Store) : WriteJob → Store
  | .image n (some r) => { st with images := tablePut st.images n r }
  | .image _ none => st
  | .directory true c => { st with dirFirst := some c }
  | .directory false c => { st with dirSecond := some c }
  | .sections c => { st with sections := some c }
  | .config c => { st with config := some c }
  | .schedule c => { st with schedule := some c }
  | .entry i (some e) => { st with entries := tablePut st.entries i e }
  | .entry _ none => st
  | .mark c => { st with mark := some c }

/-- The writer after the completion of a write (R183, R184; log 22). -/
def writerAfter (owed warning : Bool) : Writer := if owed then .marking else if warning then .held else .idle

/-- The recorder after the completion of a write: a noted item rejoins the tail (R183). -/
def completeRecorder (r : Recorder) (j : WriteJob) (noted warning : Bool) : Recorder :=
  { r with
    writer := writerAfter r.markOwed warning
    list := if noted then r.list ++ [j.item] else r.list
    markOwed := false }

/-- ITEM_WRITE_COMPLETE (R183, R184). -/
def execItemWriteComplete (s : State) : Host.Outcome State Fault Refusal :=
  match s.recorder.writer with
  | .writing j noted =>
    .next { s with store := storeJob s.store j, recorder := completeRecorder s.recorder j noted s.supply.warning }
  | _ => .next s

/-- The stored reset-cause record with its warning mark (R184). -/
def markCause (st : Store) : Store := { st with cause := st.cause.map fun c => { c with mark := true } }

/-- WARNING_MARK_WRITTEN (R184): the writer is HELD while the warning is present (log 22). -/
def execWarningMarkWritten (s : State) : Host.Outcome State Fault Refusal :=
  .next
    (if s.recorder.writer = .marking then
      { s with store := markCause s.store
               recorder := { s.recorder with writer := writerAfter false s.supply.warning } }
    else s)

/-! ## Restart (R186) -/

/-- Whether work is active (R186, check 2). -/
def workActive (s : State) : Bool := s.rig.isSome || s.grout.a.isSome || s.grout.b.isSome || s.session.isSome

/-- The part draining: no port takes a request any more (R186). -/
def drain (s : State) : State :=
  { s with ports := s.ports.map fun _ p => { p with taking := false }, recorder := { s.recorder with draining := true } }

/-- Restart decided (R186). -/
def restartReply (s : State) : Reply :=
  if workActive s then refuse s .activeWork
  else done (if s.clock.time.isSome then (Ev.of (drain s)).dirtied .mark else Ev.of (drain s))

/-- RESTART (R186). -/
def execRestart (p : Port) (pl : List Byte) (s : State) : Host.Outcome State Fault Refusal :=
  take .restart p pl restartReply s

/-! ## What a reset tears (R184, R185) -/

/-- The store with the item of a write in progress torn (R180, R185). -/
def tearJob (st : Store) : WriteJob → Store
  | .image n _ => { st with images := tableErase st.images n }
  | .directory true _ => { st with dirFirst := none }
  | .directory false _ => { st with dirSecond := none }
  | .sections _ => { st with sections := none }
  | .config _ => { st with config := none }
  | .schedule _ => { st with schedule := none }
  | .entry i _ => { st with entries := tableErase st.entries i }
  | .mark _ => { st with mark := none }

/-- The write of the reset-cause record can be in progress: it is still to be completed, and no POWER_WARNING delays it, or
the warning was raised inside it and it runs to its completion (R184, R190). -/
def causeWriting (s : State) : Bool := s.recorder.causeDue && (!s.supply.warning || s.recorder.causeOpen)

/-- The store as a reset leaves it (R184, R185). A write of the reset-cause record that a warning found in progress is torn;
whether any other reset inside start-up meets that write is not said: FREE (log 12). -/
def tornStore (s : State) : Store :=
  match s.recorder.writer with
  | .writing j _ => tearJob s.store j
  | .marking => { s.store with cause := none }
  | .idle | .held =>
    if causeWriting s ∧ (s.recorder.causeOpen || Config.freeBool s.freeIdx) = true then { s.store with cause := none }
    else s.store

/-- Every reset advances the counter of free values, so that each start-up has its own number (log 12). -/
def freeAfterReset (s : State) : Nat := s.freeIdx + 1

/-! ## Start-up recovery: the blocks (R187) -/

/-- A blank store: no directory copy, no block and no clock mark passes its check word (R187). -/
def Store.isBlank (st : Store) : Bool :=
  st.dirFirst.isNone && st.dirSecond.isNone && st.config.isNone && st.sections.isNone && st.schedule.isNone &&
    st.mark.isNone

/-- A blank store formatted (R187); what no directory names is left as it is. -/
def formatStore (st : Store) : Store :=
  { Store.formatted with images := st.images, entries := st.entries, cause := st.cause }

/-- The slots of the directory in use: the passing copy with the higher sequence number (R181). -/
def directoryInUse (st : Store) : List (Slot AnchorId) :=
  match st.dirFirst, st.dirSecond with
  | some a, some b => if b.seq < a.seq then a.slots else b.slots
  | some a, none => a.slots
  | none, some b => b.slots
  | none, none => []

/-- 1 for an item that is torn. -/
def tornOne {α : Type} (x : Option α) : Nat := if x.isNone then 1 else 0

/-- The torn items among blocks, clock mark, directory copies and the stored reset-cause record (R187, R191). -/
def tornBlocks (st : Store) : Nat :=
  tornOne st.config + tornOne st.schedule + tornOne st.sections + tornOne st.mark + tornOne st.dirFirst +
    tornOne st.dirSecond + tornOne st.cause

/-! ## Start-up recovery: the anchors (R27, R188) -/

/-- A SUSPECT record: the identity of the directory and no other data (R27). -/
def suspectRecord (slot : Nat) (a : AnchorId) : AnchorRec :=
  { id := a, imageSlot := slot, design := none, geometry := none, stage := .suspect, tendon := none, passes := [],
    cureDue := none, result := none, reserved := 0, reason := 0, testNumber := 0 }

/-- The passes of a cut-off GROUTING image: the one without an end time is closed with the mark (R27). -/
def closeAtMark (mark : Nat) (passes : List PassEntry) : List PassEntry :=
  passes.map fun x => if x.stop.isNone then { x with stop := some mark } else x

/-- The record of a readable image (R27). -/
def recoveredRecord (mark : Nat) (r : AnchorRec) : AnchorRec :=
  match r.stage with
  | .tendonRunning => { r with reserved := 0, stage := .tendonRejected, tendon := none }
  | .grouting => { r with reserved := 0, stage := .groutInterrupted, passes := closeAtMark mark r.passes }
  | .stressing =>
    { r with reserved := 0, stage := .stressInterrupted, result := r.result.map fun t => { t with verdict := none } }
  | _ => { r with reserved := 0 }

/-- The readable image of a slot that agrees with the directory (R188). -/
def agreeingImage (st : Store) (d : Slot AnchorId) : Option AnchorRec :=
  match tableGet st.images d.index with
  | none => none
  | some r => if r.id = d.val then some { r with imageSlot := d.index } else none

/-- The record of a slot (R27, R188). -/
def slotRecord (st : Store) (mark : Nat) (d : Slot AnchorId) : AnchorRec :=
  match agreeingImage st d with
  | some r => recoveredRecord mark r
  | none => suspectRecord d.index d.val

/-- The slots whose image is torn or disagrees (R188). -/
def unreadSlots (st : Store) (dir : List (Slot AnchorId)) : List (Slot AnchorId) :=
  dir.filter fun d => (agreeingImage st d).isNone

/-- The slots whose image is in an active stage (R27). -/
def activeSlots (st : Store) (dir : List (Slot AnchorId)) : List (Slot AnchorId) :=
  dir.filter fun d => match agreeingImage st d with | some r => r.stage.isActive | none => false

/-- The recovered records in identity order (R2, R188). -/
def recoveredAnchors (st : Store) (mark : Nat) (dir : List (Slot AnchorId)) : List AnchorRec :=
  dir.foldl (fun acc d => insertAnchor (slotRecord st mark d) acc) []

/-- The highest section of any record. -/
def highestSection (l : List AnchorRec) : Nat := l.foldl (fun acc r => max acc r.id.sect) 0

/-- The cure list rebuilt from the CURING records (R188). -/
def rebuiltCure (l : List AnchorRec) : List CureEntry :=
  l.foldl (fun acc r => if r.stage = .curing then joinCure { due := r.cureDue.getD 0, id := r.id } acc else acc) []

/-! ## Start-up recovery: the section table (R38, R42, R48) -/

/-- The recount of one section and tier (R42). -/
def recount (l : List AnchorRec) (n tier : Nat) : Nat :=
  (l.filter fun r => r.id.sect = n && r.id.tier = tier && r.stage = .lockedOff).length

/-- The hold records of a section with its STORE hold made to agree with the SUSPECT anchors (R38). -/
def agreeStore (l : List AnchorRec) (mark n : Nat) (holds : List Hold) : List Hold :=
  if l.any fun r => r.id.sect = n && r.stage = .suspect then
    if holds.any fun h => h.source = .store then holds
    else putHold holds { source := .store, level := .stopNew, time := mark, reason := none }
  else holds.filter fun h => h.source ≠ .store

/-- The persistent fields of section `n` after recovery (R48, steps 1 to 3); a record above the section count takes its
defaults. -/
def recoveredData (st : Store) (l : List AnchorRec) (mark count n : Nat) : SectionData :=
  if count < n then SectionData.default
  else
    let d := ((st.sections.getD []).getD (n - 1) SectionData.default)
    { d with counts := [1, 2, 3, 4, 5, 6, 7, 8].map (recount l n), holds := agreeStore l mark n d.holds }

/-- The section numbers 1..64. -/
def sectionNumbers : List Nat := (List.range 64).map (· + 1)

/-- The persistent fields of the 64 sections after recovery (R48). -/
def recoveredSections (st : Store) (l : List AnchorRec) (mark count : Nat) : List SectionData :=
  sectionNumbers.map (recoveredData st l mark count)

/-! ## Start-up recovery: the reading pool (R161, R189) -/

/-- A naming of a pool index by a reading list. -/
structure Claim where
  owner : AnchorId
  stamp : TestStamp
  position : Nat
  index : Nat
  deriving DecidableEq, Repr

/-- The claims of a reading list from a position on. -/
def claimsFrom (a : AnchorId) (stamp : TestStamp) : Nat → List ListPlace → List Claim
  | _, [] => []
  | n, .lost :: rest => claimsFrom a stamp (n + 1) rest
  | n, .entry i :: rest =>
    { owner := a, stamp := stamp, position := n, index := i } :: claimsFrom a stamp (n + 1) rest

/-- The claims of a record. -/
def recordClaims (r : AnchorRec) : List Claim :=
  match r.result with
  | some t => claimsFrom r.id t.stamp 1 t.readings
  | none => []

/-- The stored entry agrees with a claim in owner, position and test stamp (R161). -/
def claimAgrees (st : Store) (c : Claim) : Bool :=
  match tableGet st.entries c.index with
  | none => false
  | some e => e.owner = c.owner && e.position = c.position && e.stamp = c.stamp

/-- The claim that keeps an index: the one that agrees, otherwise that of the lowest identity (R189). `claims` stands
in identity order. -/
def keepsIndex (st : Store) (claims : List Claim) (i : Nat) : Option Claim :=
  match (claims.filter fun c => c.index = i).find? (claimAgrees st) with
  | some c => some c
  | none => claims.find? fun c => c.index = i

/-- Whether a claim keeps its index (R189). -/
def isKept (st : Store) (claims : List Claim) (c : Claim) : Bool := keepsIndex st claims c.index = some c

/-- The USED entry of a kept claim: with its content where it agrees, otherwise marked torn (R161). -/
def keptEntry (st : Store) (c : Claim) : PoolEntry :=
  { owner := c.owner, position := c.position, stamp := c.stamp
    body := if claimAgrees st c then (tableGet st.entries c.index).bind (·.body) else none }

/-- The USED entries after recovery (R189). -/
def rebuiltUsed (st : Store) (kept : List Claim) : List (Slot PoolEntry) :=
  kept.foldl (fun acc c => tablePut acc c.index (keptEntry st c)) []

/-- The indices that keep an entry marked torn (R161). -/
def tornEntries (st : Store) (kept : List Claim) : List Nat :=
  (kept.filter fun c => !claimAgrees st c).map (·.index)

/-- Those of them whose check word failed: they alone are counted (R161, log 23). -/
def failedEntries (st : Store) (kept : List Claim) : List Nat :=
  (kept.filter fun c => (tableGet st.entries c.index).isNone).map (·.index)

/-- A reading list with every place that kept nothing turned into a lost place (R189). -/
def losePlaces (lost : List Claim) (a : AnchorId) : Nat → List ListPlace → List ListPlace
  | _, [] => []
  | n, p :: rest =>
    (if lost.any fun c => c.owner = a && c.position = n then .lost else p) :: losePlaces lost a (n + 1) rest

/-- A record with its lost places (R189). -/
def loseReadings (lost : List Claim) (r : AnchorRec) : AnchorRec :=
  { r with result := r.result.map fun t => { t with readings := losePlaces lost r.id 1 t.readings } }

/-! ## Start-up recovery: the write-back (R190, R191) -/

/-- What the scan found, before the records' lost places (R187 to R189). -/
structure Scan where
  store : Store
  blank : Bool
  mark : Nat
  dir : List (Slot AnchorId)
  anchors : List AnchorRec
  count : Nat
  config : ConfigData
  sections : List SectionData
  claims : List Claim
  kept : List Claim
  lost : List Claim

/-- The scan of a store that is read as it stands (R187 to R189). -/
def scanOf (st : Store) (blank : Bool) : Scan :=
  let mark := st.mark.getD 0
  let dir := directoryInUse st
  let anchors := recoveredAnchors st mark dir
  let config := st.config.getD ConfigData.default
  let count := max config.params.sectionCount (highestSection anchors)
  let claims := anchors.flatMap recordClaims
  let kept := claims.filter (isKept st claims)
  { store := st, blank := blank, mark := mark, dir := dir, anchors := anchors, count := count
    config := { config with params := { config.params with sectionCount := count } }
    sections := recoveredSections st anchors mark count
    claims := claims, kept := kept, lost := claims.filter fun c => !kept.contains c }

/-- The scan of a store, formatted first where it is blank (R187). -/
def scanStore (st : Store) : Scan := if st.isBlank then scanOf (formatStore st) true else scanOf st false

/-- The records as recovery leaves them. -/
def Scan.records (c : Scan) : List AnchorRec := c.anchors.map (loseReadings c.lost)

/-- The image slots whose record recovery changed (R190). -/
def Scan.changedSlots (c : Scan) : List Nat :=
  (unreadSlots c.store c.dir).map (·.index) ++ (activeSlots c.store c.dir).map (·.index) ++
    (c.anchors.filter fun r => c.lost.any fun x => x.owner = r.id).map (·.imageSlot)

/-- An item, where a condition stands. -/
def itemIf (b : Bool) (i : Item) : List Item := if b then [i] else []

/-- The items recovery puts on the write list (R190). -/
def Scan.items (c : Scan) : List Item :=
  (tornEntries c.store c.kept).map .entry ++ c.changedSlots.eraseDups.map .image ++
    itemIf (c.store.sections ≠ some c.sections) .sections ++ itemIf (c.store.config ≠ some c.config) .config ++
    itemIf c.store.schedule.isNone .schedule ++ itemIf c.store.mark.isNone .mark

/-- Whether the stored reset-cause record shows that the previous run saw a warning: its mark, or its tear (R191). A
blank store has no torn items (R187, log 18). -/
def warnedBefore (st : Store) (blank : Bool) : Bool :=
  match st.cause with
  | some c => c.mark
  | none => !blank

/-- The torn items of a start-up (R191); a blank store counts none (R187). -/
def Scan.torn (c : Scan) : Nat :=
  if c.blank then 0
  else
    tornBlocks c.store + (unreadSlots c.store c.dir).length + (failedEntries c.store c.kept).length + c.lost.length

/-- The reset-cause record of a start-up (R191). -/
def Scan.cause (c : Scan) (k : ResetKind) : CauseRecord :=
  { kind := k, blank := c.blank, previousWarned := warnedBefore c.store c.blank, torn := c.torn
    interrupted := (activeSlots c.store c.dir).length, configDefaulted := !c.blank && c.store.config.isNone }

/-- The volatile state of the record store at the end of the scan, its list still empty (R185, R190). -/
def Recorder.afterScan (cause : CauseRecord) : Recorder :=
  { writer := .idle, list := [], warned := false, markOwed := false, cause := cause, causeDue := true,
    causeOpen := false, draining := false }

/-- The part after a reset and its start-up scan (R67, R80, R100, R142, R163, R179, R185, R192). -/
def afterScan (s : State) (c : Scan) (k : ResetKind) : State :=
  { anchors := c.records, cure := rebuiltCure c.records
    sections := c.sections.map fun d => { data := d, age := none, stale := true }
    config := c.config, schedule := c.store.schedule.getD ScheduleData.blank
    results := validateAll (c.store.schedule.getD ScheduleData.blank)
    meas := Meas.afterReset { a := s.meas.lines.a.valve, b := s.meas.lines.b.valve }
    clock := ClockState.afterReset c.mark, time := TimeBase.afterReset, supply := { warning := false, above := 0 }
    rig := none, grout := { a := none, b := none }, session := none
    pool := { reserved := [], used := rebuiltUsed c.store c.kept }
    watch := { w1 := WatchState.afterReset, w2 := WatchState.afterReset, w3 := WatchState.afterReset,
               w4 := WatchState.afterReset }
    permits := { rig := false, groutA := false, groutB := false, jack := false }
    store := c.store, recorder := Recorder.afterScan (c.cause k)
    ports := { p1 := PortState.afterReset, p2 := PortState.afterReset, p3 := PortState.afterReset,
               p4 := PortState.afterReset }
    freeIdx := freeAfterReset s, pending := s.pending }

/-- A reset of a kind with its start-up recovery (R185, R187 to R190). -/
def resetAs (k : ResetKind) (s : State) : State :=
  joinItems (afterScan s (scanStore (tornStore s)) k) (scanStore (tornStore s)).items

/-- POWER_ON_RESET (R185). -/
def execPowerOnReset (s : State) : Host.Outcome State Fault Refusal := .next (resetAs .powerOn s)

/-- RESET_LINE_RESET (R185). -/
def execResetLineReset (s : State) : Host.Outcome State Fault Refusal := .next (resetAs .resetLine s)

/-- The drain has ended: the list is empty, the writer IDLE, and no port has a frame of an answer left (R186). -/
def drained (s : State) : Bool :=
  s.recorder.draining && s.recorder.list.isEmpty && s.recorder.writer = .idle && answersSent s

/-- RESTART_RESET (R186). -/
def execRestartReset (s : State) : Host.Outcome State Fault Refusal :=
  .next (if drained s then resetAs .restart s else s)

/-- The reset-cause record written and the ports on the bus (R190, R191). -/
def writeCause (s : State) : State :=
  { s with
    store := { s.store with cause := some { record := s.recorder.cause, mark := s.recorder.warned } }
    recorder := { s.recorder with causeDue := false, causeOpen := false }
    ports := s.ports.map fun _ p => { p with link := .onBus } }

/-- Every channel has its value: no NOT_READY stands (R52). -/
def valuesReady (s : State) : Bool := allChannels.all fun c => !faultPresent s.meas (.notReady c)

/-- The event of the reset-cause record written: the ports come on the bus and their lines are evaluated (R190, R177). A
POWER_WARNING delays it unless it was raised inside the write (R184), and it waits for the channels' values, which are ready before the ports rejoin the bus (R67, log 40). -/
def causeWrittenEvent (s : State) : Option Ev :=
  if causeWriting s && valuesReady s then some (Ev.of (writeCause s)) else none

/-- RESET_CAUSE_WRITTEN (R190). -/
def execResetCauseWritten (s : State) : Host.Outcome State Fault Refusal := occurs (causeWrittenEvent s) s

end Sys2Proof.Machine
end

