-- ==== Sys2Proof/Machine/Evaluation.lean ====
section
/-! DEFINITION. The evaluation unit, which holds no state (chapter 8): creep, the apparent free length and its bounds,
the lift-off loads and tolerance, and the reading points of a hold. -/

namespace Sys2Proof.Machine

/-! ## Reading points (R127) -/

/-- The reading points of an attempt in hundredths of D: five, and four more of an extended attempt (R127). -/
def pointFactors : List Nat := [10, 20, 30, 50, 100, 200, 300, 500, 1000]

/-- The factor of a reading point 1..9. -/
def pointFactor (n : Nat) : Nat := pointFactors.getD (n - 1) 0

/-- The sample periods of elapsed time at a reading point: factor ÷ 100 × D seconds of 100 periods (R127). -/
def pointPeriods (duration n : Nat) : Nat := pointFactor n * duration

/-- The seconds of elapsed time at a reading point (R129). -/
def pointSeconds (duration n : Nat) : Nat := pointFactor n * duration / 100

/-! ## Creep (R147, R148) -/

/-- A creep value passes at or below the limit (R148). -/
def creepPasses (limit : Nat) (k : Int) : Bool := k ≤ limit

/-! ## Apparent free length (R149 to R151) -/

/-- Lapp of a load drop and a recovery: 0 without recovery, otherwise rounded half up and clamped (R150). -/
def apparentFreeLength (ea : Nat) (dP dE : Int) : Nat :=
  if dE ≤ 0 then 0
  else clampInt 0 65535 (((ea : Int) * dE + (100 * dP).tdiv 2).tdiv (100 * dP))

/-- The lower bound of the apparent free length (R151). -/
def lowerBound (lfree freeLower : Nat) : Nat := lfree * freeLower / 1000

/-- The upper bound of the apparent free length (R151). -/
def upperBound (lfree lbond bondShare : Nat) : Nat := lfree + lbond * bondShare / 1000

/-- The verdict of a formed Lapp, absent for leave to go on (R151). -/
def boundsVerdict (g : Geometry) (c : Captured) (lapp : Nat) : Option Verdict :=
  if lapp < lowerBound g.lfree c.freeLower then some .failFreeLengthLow
  else if upperBound g.lfree g.lbond c.bondShare < lapp then some .failFreeLengthHigh
  else none

/-- What an evaluation hands back: the Lapp it formed, and a fail verdict or leave to go on. -/
structure Evaluated where
  lapp : Option Nat
  verdict : Option Verdict
  deriving DecidableEq, Repr

/-- The evaluation of apparent free length (R149, R150). -/
def evaluateFreeLength (g : Geometry) (c : Captured) (pPeak sPeak pRes sRes : Nat) : Evaluated :=
  if (pPeak : Int) - pRes < 500 then { lapp := none, verdict := some .failNotEvaluable }
  else
    let lapp := apparentFreeLength g.ea ((pPeak : Int) - pRes) ((sPeak : Int) - sRes)
    { lapp := some lapp, verdict := boundsVerdict g c lapp }

/-! ## Lift-off (R153, R154) -/

/-- The low level (R153). -/
def lowLevel (ll : Nat) : Nat := ll / 2

/-- The overrun load (R153). -/
def overrunLoad (ll tol : Nat) : Nat := ll * (1000 + 2 * tol) / 1000

/-- Whether a captured lift-off is within tolerance (R154). -/
def liftWithin (plift ll tol : Nat) : Bool := absDiff plift ll * 1000 ≤ tol * ll

end Sys2Proof.Machine
end

