-- ==== Sys2Proof/Machine/Stressing.lean ====
section
/-! DEFINITION. The stressing engine: the session, its readings, Stress Open, Advance, Release, Stress Abort and Stop
Session, and the judgement of holds and lift-off at a sample set (chapter 7, R158, R160). -/

namespace Sys2Proof.Machine

/-! ## The open test -/

/-- The session with the anchor record and the test result it works on. -/
structure OpenTest where
  sess : Session
  rec_ : AnchorRec
  result : TestResult

/-- The open test of a state, absent while the engine is IDLE. -/
def openTest (s : State) : Option OpenTest :=
  match s.session with
  | none => none
  | some x =>
    match findAnchor s x.anchor with
    | none => none
    | some r => r.result.map fun t => { sess := x, rec_ := r, result := t }

/-- The session context changed. -/
def Ev.changeSession (e : Ev) (f : Session → Session) : Ev := e.mod fun s => { s with session := s.session.map f }

/-- The test result of the session's anchor changed, and its image dirtied (R156). -/
def Ev.changeResult (e : Ev) (f : TestResult → TestResult) : Ev :=
  match openTest e.st with
  | none => e
  | some o => e.writeAnchor { o.rec_ with result := some (f o.result) }

/-! ## Readings (R117, R160) -/

/-- The content of a reading of the standing sample set (R117, R159). -/
def readingNow (s : State) (k : ReadingKind) : ReadingBody :=
  { kind := k, time := stampTime s, load := channelValue s.meas .load, ext := s.meas.extension, summary := none }

/-- The pool with the lowest RESERVED entry filled (R160). -/
def fillEntry (p : Pool) (i : Nat) (v : PoolEntry) : Pool := { reserved := p.reserved.drop 1, used := tablePut p.used i v }

/-- The record and result with a reading's index appended, one reserved entry fewer (R117). -/
def appendReading (o : OpenTest) (i : Nat) : AnchorRec :=
  { o.rec_ with reserved := o.rec_.reserved - 1
                result := some { o.result with readings := o.result.readings ++ [.entry i] } }

/-- A reading or summary taken: the RESERVED entry with the lowest index becomes USED (R117, R160). A reservation
always holds one (R117). -/
def Ev.takeReading (e : Ev) (b : ReadingBody) : Ev :=
  match openTest e.st, e.st.pool.reserved.head? with
  | some o, some i =>
    let entry : PoolEntry :=
      { owner := o.rec_.id, position := o.result.readings.length + 1, stamp := o.result.stamp, body := some b }
    (((e.mod fun s => { s with pool := fillEntry s.pool i entry }).changeSession fun x =>
        { x with reservation := x.reservation - 1 }).dirtied (.entry i)).writeAnchor (appendReading o i)
  | _, _ => e

/-- The readings of a voided attempt returned to the reservation (R117, R130, R160): `back` holds their indices.
DESIGN CHOICE: the stored entries are not written, the anchor image alone goes on the write list (log 42). -/
def Ev.returnReadings (e : Ev) (back : List Nat) : Ev :=
  match openTest e.st with
  | none => e
  | some o =>
    ((e.mod fun s =>
        { s with pool := { reserved := back.foldl (fun acc i => insertNat i acc) s.pool.reserved
                           used := s.pool.used.filter fun r => !back.contains r.index } }).changeSession fun x =>
        { x with reservation := x.reservation + back.length }).writeAnchor
      { o.rec_ with
        reserved := o.rec_.reserved + back.length
        result := some { o.result with readings := o.result.readings.take (o.result.readings.length - back.length) } }

/-- The load and extension of a pool entry. -/
def entryValues (s : State) (i : Nat) : Nat × Nat :=
  match (tableGet s.pool.used i).bind (·.body) with
  | some b => (b.load, b.ext)
  | none => (0, 0)

/-- The load and extension of a frame's last reading: its last hold reading, otherwise its arrival (R124, R149). -/
def frameEnd (s : State) (f : StageFrame) : Nat × Nat := entryValues s (f.holdReadings.getLast?.getD f.arrival)

/-! ## Moving between steps (R120) -/

/-- A hold context for a new attempt, from the HOLD step's fields (R127). -/
def newAttempt (duration limit : Nat) (extendable : Bool) : HoldCtx :=
  { duration := duration, limit := limit, extendable := extendable, begun := false, elapsed := 0, offBand := 0,
    pause := 0, nextPoint := 1 }

/-- The phase in which a step other than LIFT_OFF is reached (R120). -/
def phaseAt (r : StepRec) : Phase :=
  match r with
  | .hold d l x _ => .holding (newAttempt d l x)
  | _ => .approach

/-- NEXT_STEP of the step a session stands at (R119, R120). -/
def Ev.announceStep (e : Ev) : Ev :=
  match e.st.session with
  | none => e
  | some x => e.raise (.nextStep x.anchor (stepInfo e.st x))

/-- The session moved to the step of its present step's next link (R120). -/
def Ev.moveOn (e : Ev) : Ev :=
  (e.changeSession fun x =>
    match (stepAt e.st.schedule x.step).next with
    | none => x
    | some j => { x with step := j, phase := phaseAt (stepAt e.st.schedule j) }).announceStep

/-! ## The end of a session (R137 to R139) -/

/-- The session closed: what is still reserved is released and the engine is IDLE (R139). -/
def closeSession (s : State) : State := { s with session := none, pool := { s.pool with reserved := [] } }

/-- The stage a verdict leads to (R137). -/
def verdictStage (v : Verdict) : Stage := if v = .pass then .lockedOff else .failed

/-- The lock-off loss P_lock − P_lift (R155). -/
def lockOffLoss (t : TestResult) : Option Int :=
  match t.plock, t.plift with
  | some a, some b => some ((a : Int) - b)
  | _, _ => none

/-- The result as a verdict leaves it: the loss is written at PASS alone (R137, R155). -/
def judgedResult (v : Verdict) (t : TestResult) : TestResult :=
  { t with verdict := some v, loss := if v = .pass then lockOffLoss t else t.loss }

/-- A session ended with a verdict (R137, R139). -/
def Ev.endWith (e : Ev) (v : Verdict) : Ev :=
  match openTest e.st with
  | none => e
  | some o =>
    ((e.mod closeSession).changeStage o.rec_
      { o.rec_ with stage := verdictStage v, reserved := 0, result := some (judgedResult v o.result) }).raise
      (.sessionEnded o.rec_.id (.verdict v o.sess.relocks))

/-- Whether a CRITICAL frame is on the stack (R138). -/
def hasCritical (x : Session) : Bool := x.stages.any (·.critical)

/-- The record as an abort or a stop leaves it (R138). -/
def interruptedRecord (o : OpenTest) : AnchorRec :=
  if hasCritical o.sess then { o.rec_ with stage := .stressInterrupted, reserved := 0 }
  else { o.rec_ with stage := .stressable, reserved := 0, result := none }

/-- The pool as an abort or a stop leaves it: without a CRITICAL frame the reading list is released (R138). -/
def interruptedPool (s : State) (o : OpenTest) : State :=
  if hasCritical o.sess then closeSession s else closeSession (releaseReadings s o.result.readings)

/-- Stress Abort or Stop Session decided (R138). -/
def interruptReply (how : SessionEnd) (s : State) : Reply :=
  match openTest s with
  | none => refuse s .noSession
  | some o =>
    doneWith
      (((Ev.of (interruptedPool s o)).changeStage o.rec_ (interruptedRecord o)).raise (.sessionEnded o.rec_.id how))
      (.stage (interruptedRecord o).stage)

/-- STRESS_ABORT (R138). -/
def execStressAbort (p : Port) (pl : List Byte) (s : State) : Host.Outcome State Fault Refusal :=
  take .stressAbort p pl (interruptReply .abort) s

/-- STOP_SESSION (R138). -/
def execStopSession (p : Port) (pl : List Byte) (s : State) : Host.Outcome State Fault Refusal :=
  take .stopSession p pl (interruptReply .stop) s

/-! ## Stress Open (R118, R119) -/

/-- The parameters a session captures (R116). -/
def capturedNow (p : Params) : Captured :=
  { reachBand := p.reachBand, holdBand := p.holdBand, offBandVoid := p.offBandVoid, pauseVoid := p.pauseVoid,
    reholdMax := p.reholdMax, liftThreshold := p.liftThreshold, liftTol := p.liftTol, relockMax := p.relockMax,
    freeLower := p.freeLower, bondShare := p.bondShare }

/-- The index of the LOCK_OFF step of a path (R115). -/
def lockStepOf (sch : ScheduleData) (path : List Nat) : Nat :=
  (path.find? fun i => (stepAt sch i).kind = .lockOff).getD 0

/-- The pool with the lowest FREE entries reserved (R160). -/
def reserveEntries (p : Pool) (w : Nat) : Pool :=
  { p with reserved := lowestFree (p.used.map (·.index)) Config.poolSize 0 w }

/-- The test result Stress Open creates (R14, R119). -/
def emptyResult (stamp : TestStamp) : TestResult :=
  { verdict := none, lapp := none, creep := none, plock := none, plift := none, loss := none, readings := [],
    stamp := stamp }

/-- The record as Stress Open leaves it (R119). -/
def openedRecord (r : AnchorRec) (now w : Nat) : AnchorRec :=
  { r with stage := .stressing, testNumber := (r.testNumber + 1) % 65536, reserved := w
           result := some (emptyResult { number := (r.testNumber + 1) % 65536, time := now }) }

/-- The session context as Stress Open opens it (R115, R119). -/
def openedSession (s : State) (r : AnchorRec) (cls : TestClass) (path : List Nat) (area w : Nat) : Session :=
  { anchor := r.id, cls := cls, head := path.headD 0, step := path.headD 0, lockStep := lockStepOf s.schedule path,
    area := area, captured := capturedNow s.config.params, phase := .opened, datum := none, stages := [], cycles := 0,
    relocks := 0, reservation := w }

/-- What an accepted Stress Open does and answers (R119). -/
def stressOpenDone (s : State) (r : AnchorRec) (d : Design) (path : List Nat) (area now w : Nat) : Reply :=
  let x := openedSession s r d.cls path area w
  let s' := { s with session := some x, pool := reserveEntries s.pool w }
  doneWith (((Ev.of s').changeStage r (openedRecord r now w)).announceStep)
    (.stressOpen w x.step ((sessionTarget s' x).getD 0) ((sessionBand s' x).getD 0))

/-- Stress Open decided from the schedule on (R118, checks 10 to 13). -/
def stressOpenOn (s : State) (r : AnchorRec) (d : Design) (area now : Nat) : Reply :=
  match s.results.get d.cls with
  | .invalid _ _ => refuse s .scheduleInvalid
  | .valid path count =>
    if equalTargets s.schedule d.tl [] path then refuse s .scheduleInvalid
    else if area < 5000 ∨ 60000 < area then refuse s .badValue
    else if jackFaulted s.meas then refuse s .sensorFault
    else if s.pool.freeCount < worstCase count s.config.params.relockMax then refuse s .poolExhausted
    else stressOpenDone s r d path area now (worstCase count s.config.params.relockMax)

/-- Stress Open decided (R118). -/
def stressOpenReply (pl : List Byte) (s : State) : Reply :=
  match findAnchor s (anchorField pl) with
  | none => refuse s .noSuchAnchor
  | some r =>
    if s.session.isSome then refuse s .sessionBusy
    else
      match s.clock.time with
      | none => refuse s .clockUnset
      | some now =>
        if r.stage ≠ .stressable then refuse s .wrongStage
        else
          match r.design with
          | none => refuse s .zoneClosed
          | some d =>
            if !zoneOpen s d.zone then refuse s .zoneClosed
            else if sectionHeld s r.id.sect then refuse s .sectionHeld
            else if sectionIsStale s r.id.sect then refuse s .deflectionStale
            else if !staggerPasses s r.id then refuse s .stagger
            else stressOpenOn s r d (fieldNat pl 2 2) now

/-- STRESS_OPEN (R118). -/
def execStressOpen (p : Port) (pl : List Byte) (s : State) : Host.Outcome State Fault Refusal :=
  take .stressOpen p pl (stressOpenReply pl) s

/-! ## Advance (R125, R126) -/

/-- The reading kind of a step's arrival; a LIFT_OFF, HOLD or END step has none (R126). -/
def arrivalKind : StepRec → Option ReadingKind
  | .datum _ _ => some .datumArrival
  | .loadTo _ _ => some .loadArrival
  | .unloadTo _ _ => some .unloadArrival
  | .lockOff _ => some .lockArrival
  | .hold _ _ _ _ | .liftOff _ | .endStep => none

/-- The datum frame of a DATUM Advance (R122, R123). -/
def datumFrame (s : State) (x : Session) (f : Nat) : DatumFrame :=
  { fraction := f, target := targetOf (testLoad s x.anchor) f, load0 := channelValue s.meas .load,
    ext0 := s.meas.extension }

/-- The cycle number of a pushed frame: a new cycle on the datum frame, otherwise that of the frame beneath (R123). -/
def pushedCycle (x : Session) : Nat :=
  match x.stages with
  | [] => x.cycles + 1
  | top :: _ => top.cycle

/-- The stage frame of a LOAD_TO Advance (R123). -/
def stageFrame (s : State) (x : Session) (f arrival : Nat) : StageFrame :=
  { fraction := f, target := targetOf (testLoad s x.anchor) f, cycle := pushedCycle x, arrival := arrival,
    holdReadings := [], critical := 1000 ≤ f, creepExtended := false, holdDone := false, rehold := 0, ks := none,
    ks2 := none }

/-- The session with a stage frame pushed (R123). -/
def pushStage (s : State) (x : Session) (f arrival : Nat) : Session :=
  { x with stages := stageFrame s x f arrival :: x.stages,
           cycles := if x.stages.isEmpty then x.cycles + 1 else x.cycles }

/-- The frames an unload to a fraction pops, top frame first (R124). -/
def poppedFrames (f : Nat) (x : Session) : List StageFrame := x.stages.takeWhile fun g => f < g.fraction

/-- The evaluation runs at an unload to the datum fraction that pops a CRITICAL frame (R124, R149). -/
def evaluationRuns (f : Nat) (x : Session) : Bool :=
  (match x.datum with | some d => f = d.fraction | none => false) && (poppedFrames f x).any (·.critical)

/-- The summary of a popped frame (R124, R157). -/
def summaryBody (s : State) (f : StageFrame) (permanent : Option Int) : ReadingBody :=
  { kind := .summary, time := stampTime s, load := (frameEnd s f).1, ext := (frameEnd s f).2
    summary := some { target := f.target, cycle := f.cycle, ks := f.ks, ks2 := f.ks2, rehold := f.rehold,
                      permanent := permanent } }

/-- The permanent displacement of an evaluating unload: s_res − s0 (R152). -/
def permanentDisplacement (s : State) (x : Session) : Option Int :=
  x.datum.map fun d => (s.meas.extension : Int) - d.ext0

/-- The summaries of popped frames, top frame first; the first carries the permanent displacement of an evaluating
unload (R124, R152, R157). -/
def Ev.takeSummaries (e : Ev) (frames : List StageFrame) (permanent : Option Int) : Ev :=
  match frames with
  | [] => e
  | f :: rest =>
    rest.foldl (fun acc g => acc.takeReading (summaryBody acc.st g none)) (e.takeReading (summaryBody e.st f permanent))

/-- The evaluation's inputs and decision, for the highest popped frame (R149). -/
def evaluationOf (s : State) (o : OpenTest) (top : StageFrame) : Evaluated :=
  match o.rec_.geometry with
  | none => { lapp := none, verdict := some .failNotEvaluable }
  | some g =>
    evaluateFreeLength g o.sess.captured (frameEnd s top).1 (frameEnd s top).2 (channelValue s.meas .load)
      s.meas.extension

/-- The evaluation of an unload carried out: Lapp is written, and a fail verdict ends the session (R150, R151). -/
def Ev.evaluate (e : Ev) (v : Evaluated) : Ev :=
  let e := match v.lapp with
    | none => e
    | some l => e.changeResult fun t => { t with lapp := some l }
  match v.verdict with
  | none => e.moveOn
  | some x => e.endWith x

/-- An unload carried out after its arrival reading (R124). -/
def Ev.unload (e : Ev) (o : OpenTest) (f : Nat) : Ev :=
  let popped := poppedFrames f o.sess
  let runs := evaluationRuns f o.sess
  let decided := popped.head?.map (evaluationOf e.st o)
  let e := (e.takeSummaries popped (if runs then permanentDisplacement e.st o.sess else none)).changeSession fun x =>
    { x with stages := x.stages.dropWhile fun g => f < g.fraction }
  match runs, decided with
  | true, some v => e.evaluate v
  | _, _ => e.moveOn

/-- The verdict with which an unload ends the session, if it does (R126). -/
def unloadVerdict (s : State) (o : OpenTest) (f : Nat) : Option Verdict :=
  if evaluationRuns f o.sess then (poppedFrames f o.sess).head?.bind fun top => (evaluationOf s o top).verdict else none

/-- The current step carried out, after its arrival reading was taken at the pool index given (R126). -/
def Ev.carryOut (e : Ev) (o : OpenTest) (arrival : Nat) : Ev :=
  match stepAt e.st.schedule o.sess.step with
  | .datum f _ => (e.changeSession fun x => { x with datum := some (datumFrame e.st x f) }).moveOn
  | .loadTo f _ => (e.changeSession fun x => pushStage e.st x f arrival).moveOn
  | .unloadTo f _ => e.unload o f
  | .lockOff _ => e.changeSession fun x => { x with phase := .releaseWait }
  | .hold _ _ _ _ | .liftOff _ | .endStep => e

/-- A reading as an answer gives it. -/
def readingInfo (b : ReadingBody) : ReadingInfo := { kind := b.kind, load := b.load, ext := b.ext, time := b.time }

/-- The number of frames popped and the verdict an answer to an unload carries (R126). -/
def unloadAnswer (s : State) (o : OpenTest) : Option Nat × Option Verdict :=
  match stepAt s.schedule o.sess.step with
  | .unloadTo f _ => (some (poppedFrames f o.sess).length, unloadVerdict s o f)
  | _ => (none, none)

/-- An accepted Advance (R126). -/
def advanceDone (s : State) (o : OpenTest) (k : ReadingKind) : Reply :=
  let e := ((Ev.of s).takeReading (readingNow s k)).carryOut o (s.pool.reserved.headD 0)
  doneWith e
    (.advance (readingInfo (readingNow s k)) (e.st.session.map (stepInfo e.st)) (unloadAnswer s o).1
      (unloadAnswer s o).2)

/-- Advance decided at a step that has an arrival (R125, checks 5 to 8). A faulted jack group has dropped JACK, so that
the order of R125 answers PAUSED where R140 and R141 give SENSOR_FAULT: which comes first is left open (log 38). -/
def advanceOn (s : State) (o : OpenTest) (k : ReadingKind) : Reply :=
  if jackFaulted s.meas && Config.faultBeforePaused then refuse s .sensorFault
  else if sessionPaused s then refuse s .paused
  else if jackFaulted s.meas then refuse s .sensorFault
  else if (stepAt s.schedule o.sess.step).kind = .loadTo ∧ anchorZoneClosed s o.rec_ then refuse s .zoneClosed
  else if !inBand (channelValue s.meas .load) ((sessionTarget s o.sess).getD 0) ((sessionBand s o.sess).getD 0) then
    refuse s .targetNotReached
  else advanceDone s o k

/-- Advance decided (R125). -/
def advanceReply (s : State) : Reply :=
  match openTest s with
  | none => refuse s .noSession
  | some o =>
    match o.sess.phase with
    | .holding _ => refuse s .holdRunning
    | .releaseWait | .liftoff _ => refuse s .wrongPhase
    | .opened | .approach =>
      match arrivalKind (stepAt s.schedule o.sess.step) with
      | none => refuse s .wrongPhase
      | some k => advanceOn s o k

/-- ADVANCE (R125). -/
def execAdvance (p : Port) (pl : List Byte) (s : State) : Host.Outcome State Fault Refusal :=
  take .advance p pl advanceReply s

/-! ## Release (R133) -/

/-- The session as Release leaves it: at the lock-off step's next step, in LIFTOFF (R133). -/
def releasedSession (s : State) (x : Session) : Session :=
  { x with step := (stepAt s.schedule x.lockStep).next.getD x.step, phase := .liftoff { lowSeen := false, ref := none } }

/-- An accepted Release (R133). -/
def releaseDone (s : State) : Reply :=
  let load := channelValue s.meas .load
  let e := ((Ev.of s).changeResult fun t => { t with plock := some load }).takeReading (readingNow s .release)
  doneWith ((e.changeSession (releasedSession s)).announceStep) (.release load (readingInfo (readingNow s .release)))

/-- Release decided (R133). -/
def releaseReply (s : State) : Reply :=
  match openTest s with
  | none => refuse s .noSession
  | some o =>
    match o.sess.phase with
    | .releaseWait => if jackFaulted s.meas then refuse s .sensorFault else releaseDone s
    | _ => refuse s .wrongPhase

/-- RELEASE (R133). -/
def execRelease (p : Port) (pl : List Byte) (s : State) : Host.Outcome State Fault Refusal :=
  take .release p pl releaseReply s

/-! ## Holds at a sample set (R128 to R132) -/

/-- The top frame of the stack changed. -/
def changeTop (x : Session) (f : StageFrame → StageFrame) : Session :=
  match x.stages with
  | [] => x
  | top :: rest => { x with stages := f top :: rest }

/-- The hold context written back. -/
def setHoldCtx (x : Session) (h : HoldCtx) : Session := { x with phase := .holding h }

/-- The frame of a new attempt after a void: no readings, no extension, no ks (R130). -/
def voidedFrame (f : StageFrame) (rehold : Nat) : StageFrame :=
  { f with holdReadings := [], creepExtended := false, ks := none, rehold := rehold }

/-- A void of the present attempt (R130). -/
def Ev.voidHold (e : Ev) (x : Session) (top : StageFrame) (h : HoldCtx) (cause : VoidCause) : Ev :=
  let e := e.returnReadings top.holdReadings
  if x.captured.reholdMax < top.rehold + 1 then
    ((e.changeSession fun x => changeTop x fun f => voidedFrame f top.rehold).raise
      (.holdVoid x.anchor top.target cause top.rehold)).endWith .failHoldUnstable
  else
    (e.changeSession fun x =>
      setHoldCtx (changeTop x fun f => voidedFrame f (top.rehold + 1))
        (newAttempt h.duration h.limit h.extendable)).raise
      (.holdVoid x.anchor top.target cause (top.rehold + 1))

/-- A creep value between two hold readings of the frame, numbered from 0 (R147). -/
def creepBetween (s : State) (f : StageFrame) (later earlier : Nat) : Int :=
  ((entryValues s (f.holdReadings.getD later 0)).2 : Int) - (entryValues s (f.holdReadings.getD earlier 0)).2

/-- The critical creep value written, on a CRITICAL frame alone (R148). -/
def Ev.writeCreep (e : Ev) (critical : Bool) (k : Int) : Ev :=
  if critical then e.changeResult fun t => { t with creep := some k } else e

/-- A hold complete (R132, R148): `k` is the creep value that decided it, absent under a creep limit of 0. -/
def Ev.completeHold (e : Ev) (top : StageFrame) (k : Option Int) : Ev :=
  let e := match k with
    | none => e
    | some k => e.writeCreep top.critical k
  match e.st.session with
  | none => e
  | some x =>
    ((e.changeSession fun y => changeTop y fun f => { f with holdDone := true }).raise
      (.holdComplete x.anchor top.target top.holdReadings.length top.ks top.ks2 top.rehold)).moveOn

/-- A creep decision that fails ends the session FAIL_CREEP (R131, R132, R148). -/
def Ev.failCreep (e : Ev) (top : StageFrame) (k : Int) : Ev := (e.writeCreep top.critical k).endWith .failCreep

/-- The decision at D, after its reading (R131). -/
def Ev.decideAtD (e : Ev) (top : StageFrame) (h : HoldCtx) : Ev :=
  if h.limit = 0 then e.completeHold top none
  else
    let ks := creepBetween e.st top 4 0
    let e := e.changeSession fun x => changeTop x fun f => { f with ks := some ks }
    if creepPasses h.limit ks then e.completeHold { top with ks := some ks } (some ks)
    else if h.extendable ∧ top.creepExtended = false then
      e.changeSession fun x => changeTop x fun f => { f with creepExtended := true }
    else e.failCreep top ks

/-- The decision at 10D, after its reading (R132). -/
def Ev.decideAt10D (e : Ev) (top : StageFrame) (h : HoldCtx) : Ev :=
  let ks2 := creepBetween e.st top 8 4
  let e := e.changeSession fun x => changeTop x fun f => { f with ks2 := some ks2 }
  if creepPasses h.limit ks2 then e.completeHold { top with ks2 := some ks2 } (some ks2) else e.failCreep top ks2

/-- A reading point reached: the reading, HOLD_READING, and at D and 10D the decision (R129). -/
def Ev.reachPoint (e : Ev) (x : Session) (h : HoldCtx) (index : Nat) : Ev :=
  let e := e.takeReading (readingNow e.st .holdPoint)
  let e := e.changeSession fun y =>
    setHoldCtx (changeTop y fun f => { f with holdReadings := f.holdReadings ++ [index] })
      { h with nextPoint := h.nextPoint + 1 }
  match e.st.session.bind (·.stages.head?) with
  | none => e
  | some top =>
    let e := e.raise
      (.holdReading x.anchor top.target h.nextPoint (pointSeconds h.duration h.nextPoint)
        (channelValue e.st.meas .load) e.st.meas.extension)
    if h.nextPoint = 5 then e.decideAtD top h
    else if h.nextPoint = 9 then e.decideAt10D top h
    else e

/-- A sample set in which the hold runs (R128, step 4). A reading always finds a RESERVED entry (R117). -/
def Ev.runHold (e : Ev) (x : Session) (h : HoldCtx) : Ev :=
  let h' := { h with begun := true, elapsed := h.elapsed + 1, pause := 0 }
  let e' := e.changeSession fun y => setHoldCtx y h'
  if h'.elapsed = pointPeriods h.duration h.nextPoint then
    match e.st.pool.reserved.head? with
    | none => e'
    | some i => e'.reachPoint x h' i
  else e'

/-- A sample set that counts against the attempt: voided past the limit, otherwise counted (R128, steps 2 and 3). -/
def Ev.countHold (e : Ev) (x : Session) (top : StageFrame) (h : HoldCtx) (expired : Bool) (cause : VoidCause) : Ev :=
  if expired then e.voidHold x top h cause else e.changeSession fun y => setHoldCtx y h

/-- The judgement of a hold at a sample set, in the order of R128; PAUSED is what the conditions of JACK give in this
event (R178, log 10). -/
def Ev.judgeHold (e : Ev) (x : Session) (top : StageFrame) (h : HoldCtx) : Ev :=
  if jackFaulted e.st.meas then if h.begun then e.voidHold x top h .fault else e
  else if !lineUp e.st .jack then
    if h.begun then
      e.countHold x top { h with pause := h.pause + 1 } (x.captured.pauseVoid * 100 < h.pause + 1) .pause
    else e
  else if !inBand (channelValue e.st.meas .load) top.target (bandOf top.target x.captured.holdBand) then
    if h.begun then
      e.countHold x top { h with pause := 0, offBand := h.offBand + 1 } (x.captured.offBandVoid * 100 < h.offBand + 1)
        .offBand
    else e
  else e.runHold x h

/-! ## Lift-off at a sample set (R134 to R136) -/

/-- The lift-off context after the low and the reference are judged (R134, steps 1 and 2). -/
def LiftCtx.judge (l : LiftCtx) (load ext ll : Nat) : LiftCtx :=
  let low := l.lowSeen || load < lowLevel ll
  { lowSeen := low, ref := if low ∧ l.ref = none ∧ lowLevel ll ≤ load then some ext else l.ref }

/-- Whether the extension captures lift-off (R134, step 3). -/
def liftCaptured (l : LiftCtx) (ext threshold : Nat) : Bool :=
  match l.ref with
  | none => false
  | some r => r + threshold ≤ ext

/-- A failed lift-off: a relock while one is left, otherwise FAIL_LOCKOFF (R136). -/
def Ev.failLift (e : Ev) (x : Session) : Ev :=
  if x.relocks < x.captured.relockMax then
    (e.changeSession fun y => { y with relocks := y.relocks + 1, step := y.lockStep, phase := .approach }).announceStep
  else e.endWith .failLockoff

/-- A captured lift-off, and its verdict (R134, R136). -/
def Ev.captureLift (e : Ev) (x : Session) (load ll : Nat) : Ev :=
  let e := ((e.changeResult fun t => { t with plift := some load }).takeReading (readingNow e.st .liftOff)).raise
    (.liftoffCaptured x.anchor load ll x.relocks)
  if liftWithin load ll x.captured.liftTol then e.endWith .pass else e.failLift x

/-- The judgement of lift-off at a sample set (R134, R135). -/
def Ev.judgeLift (e : Ev) (x : Session) (l : LiftCtx) : Ev :=
  if jackFaulted e.st.meas then e
  else
    let load := channelValue e.st.meas .load
    let ext := e.st.meas.extension
    let ll := lockLoad e.st x.anchor
    let l' := l.judge load ext ll
    let e' := e.changeSession fun y => { y with phase := .liftoff l' }
    if liftCaptured l' ext x.captured.liftThreshold then e'.captureLift x load ll
    else if overrunLoad ll x.captured.liftTol < load then (e'.takeReading (readingNow e.st .liftOff)).failLift x
    else e'

/-- The stressing engine's part of a sample set (R128, R134). -/
def Ev.judgeSession (e : Ev) : Ev :=
  match e.st.session with
  | none => e
  | some x =>
    match x.phase, x.stages with
    | .holding h, top :: _ => e.judgeHold x top h
    | .liftoff l, _ => e.judgeLift x l
    | _, _ => e

end Sys2Proof.Machine
end

