-- ==== Sys2Proof/Machine/Watch.lean ====
section
/-! DEFINITION. The watch unit: evaluation, trips and chains, the requests on it, and the events that hand it values at
the second of a flow rate, at a Report Deflection and at the second of RISE_OVER (chapter 9, R44, R45, R62). -/

namespace Sys2Proof.Machine

/-! ## Trips (R166, R168, R169) -/

/-- One channel's state changed. -/
def Ev.changeWatch (e : Ev) (w : WatchId) (f : WatchState → WatchState) : Ev :=
  e.mod fun s => { s with watch := s.watch.set w (f (s.watch.get w)) }

/-- The flags of a trip: ARMED cleared, TRIPPED set, the count at 0, no window remaining (R166, R168). -/
def WatchState.trip (x : WatchState) : WatchState := { x with armed := false, tripped := true, count := 0, window := none }

/-- The successor armed by a step trip, with its chain window if it has one (R168). -/
def WatchState.armAs (x : WatchState) (chainWindow : Nat) : WatchState :=
  if x.enabled then
    { x with armed := true, count := 0, history := [], window := if chainWindow = 0 then none else some chainWindow }
  else x

/-- A step trip (R168). The notice names no section and no action (log 16). -/
def Ev.stepTrip (e : Ev) (w next : WatchId) (v : Int) : Ev :=
  ((e.changeWatch w WatchState.trip).changeWatch next fun x => x.armAs (e.st.config.watch.get next).chainWindow).raise
    (.watchTripped w false (e.st.config.watch.get w).source v none none none)

/-- The hold of an action, on the related section (R169, step 1). -/
def Ev.actionHold (e : Ev) (w : WatchId) (sect : Option Nat) : Ev :=
  match (e.st.config.watch.get w).level, sect with
  | some lv, some n => e.writeHold n (watchHoldSource w) lv none
  | _, _ => e

/-- The section an action's notice names: the one on which a hold was written (R169, step 3). -/
def heldSection (c : WatchConfig) (sect : Option Nat) : Option Nat := if c.level.isSome then sect else none

/-- An action trip (R169). -/
def Ev.actionTrip (e : Ev) (w : WatchId) (v : Int) : Ev :=
  let c := e.st.config.watch.get w
  let sect := relatedSection e.st c.source
  (((e.changeWatch w WatchState.trip).actionHold w sect).changeWatch w fun x =>
      { x with latch := x.latch || c.drop.isSome }).raise
    (.watchTripped w true c.source v (heldSection c sect) c.level c.drop)

/-- A trip, by the channel's place in the chain mode (R166). -/
def Ev.tripWatch (e : Ev) (w : WatchId) (v : Int) : Ev :=
  match watchSuccessor e.st w with
  | some next => e.stepTrip w next v
  | none => e.actionTrip w v

/-! ## Evaluation (R164 to R166) -/

/-- One evaluation: the comparison holds or not, the persistence counts, and a full count trips (R166). -/
def Ev.countWatch (e : Ev) (w : WatchId) (holds : Bool) (v : Int) : Ev :=
  if holds then
    if (e.st.config.watch.get w).persistence ≤ (e.st.watch.get w).count + 1 then e.tripWatch w v
    else e.changeWatch w fun x => { x with count := x.count + 1 }
  else e.changeWatch w fun x => { x with count := 0 }

/-- The evaluation of a channel on its source's new value (R165). -/
def Ev.evaluateWatch (e : Ev) (w : WatchId) : Ev :=
  let c := e.st.config.watch.get w
  match sourceValue e.st c.source with
  | none => e
  | some v => e.countWatch w (comparisonHolds c.kind c.threshold v) v

/-- The channels that evaluate when sources of a set have new values: those evaluating as the event reaches the watch
unit, so that a successor armed in it starts with the next value (R164, log 10, log 11). -/
def watchesOn (s : State) (fed : WatchSource → Bool) : List WatchId :=
  allWatches.filter fun w =>
    evaluating s w && fed (s.config.watch.get w).source && (s.config.watch.get w).kind ≠ .riseOver

/-- New values handed to the watch unit (R49, R62, R44). Channels that trip in one event act in their number order:
DESIGN CHOICE, the manual gives no order (log 33). -/
def Ev.feedWatches (e : Ev) (fed : WatchSource → Bool) : Ev :=
  (watchesOn e.st fed).foldl (fun acc w => acc.evaluateWatch w) e

/-- The sources with a new value at every sample set (R164). -/
def fedBySample : WatchSource → Bool
  | .load | .jackPress | .extension | .groutPressA | .groutPressB | .winchTension => true
  | .flowRateA | .flowRateB | .deflection _ => false

/-- The sources with a new value at every second of the flow rates (R164). -/
def fedByFlow : WatchSource → Bool
  | .flowRateA | .flowRateB => true
  | _ => false

/-- The source with a new value at a Report Deflection (R164). -/
def fedByReport (n : Nat) (src : WatchSource) : Bool := src = .deflection n

/-! ## Flow rates (R62) -/

/-- A line's pulse state after a second: the filled bin joins the ten, the rate is six times their sum (R62). -/
def LineMeas.second (x : LineMeas) : LineMeas :=
  { x with bin := 0, bins := x.bins.drop 1 ++ [x.bin]
           rate := min ((x.bins.drop 1 ++ [x.bin]).sum * 6) Config.maxCount16 }

/-- Both lines' rates formed, and the second used up (R62, log 6). -/
def flowSecond (s : State) : State :=
  { s with
    meas := { s.meas with lines := { a := s.meas.lines.a.second, b := s.meas.lines.b.second } }
    time := { s.time with flowDue := s.time.flowDue - 1 } }

/-- The event of a second of the flow rates, absent until one has come (R62). -/
def flowRateEvent (s : State) : Option Ev :=
  if s.time.flowDue = 0 then none else some ((Ev.of (flowSecond s)).feedWatches fedByFlow)

/-- FLOW_RATE_UPDATE (R62). -/
def execFlowRateUpdate (s : State) : Host.Outcome State Fault Refusal := occurs (flowRateEvent s) s

/-! ## RISE_OVER (R165) -/

/-- A snapshot history with its newest entry; the oldest leaves past w + 1 entries (R165). -/
def joinSnapshot (w : Nat) (h : List Int) (v : Int) : List Int := (h ++ [v]).drop (h.length + 1 - (w + 1))

/-- Whether RISE_OVER holds of a history: w + 1 entries, newest minus oldest above t (R165). -/
def riseHolds (w : Nat) (t : Threshold) (h : List Int) : Bool :=
  match t with
  | .one x => h.length = w + 1 && x < h.getLastD 0 - h.headD 0
  | .two _ _ => false

/-- The second of one RISE_OVER channel (R165): a source without a value empties the history. -/
def Ev.evaluateRise (e : Ev) (w : WatchId) : Ev :=
  let c := e.st.config.watch.get w
  let win := c.riseWindow.getD 1
  match sourceValue e.st c.source with
  | none => e.changeWatch w fun x => { x with history := [], count := 0 }
  | some v =>
    let h := joinSnapshot win (e.st.watch.get w).history v
    (e.changeWatch w fun x => { x with history := h }).countWatch w (riseHolds win c.threshold h) v

/-- The RISE_OVER channels that are evaluating (R164). -/
def risingWatches (s : State) : List WatchId :=
  allWatches.filter fun w => evaluating s w && (s.config.watch.get w).kind = .riseOver

/-- The event of the second of the RISE_OVER evaluation, absent until one has come (R165). -/
def riseEvent (s : State) : Option Ev :=
  if s.time.riseDue = 0 then none
  else
    some ((risingWatches s).foldl (fun acc w => acc.evaluateRise w)
      (Ev.of { s with time := { s.time with riseDue := s.time.riseDue - 1 } }))

/-- RISE_OVER_EVALUATION (R165). -/
def execRiseOverEvaluation (s : State) : Host.Outcome State Fault Refusal := occurs (riseEvent s) s

/-! ## Lapse of a chain (R168) -/

/-- A channel without flags, count, window and history; ENABLED, the staged threshold and the latch stand. -/
def WatchState.reset (x : WatchState) : WatchState :=
  { x with armed := false, tripped := false, count := 0, window := none, history := [] }

/-- Every channel of a list reset (R168, R173, R174). -/
def Ev.resetWatches (e : Ev) (ws : List WatchId) : Ev := ws.foldl (fun acc w => acc.changeWatch w WatchState.reset) e

/-- A channel armed if it is ENABLED (R168, R173, R174). -/
def Ev.armIfEnabled (e : Ev) (w : Option WatchId) : Ev :=
  match w with
  | none => e
  | some w => e.changeWatch w fun x => if x.enabled then { x with armed := true } else x

/-- The window of an armed successor has reached 0 (R168). -/
def windowRunOut (s : State) : Bool :=
  (chainOf s).any fun w => (s.watch.get w).armed && (s.watch.get w).window = some 0

/-- The event of a lapse (R168). -/
def chainLapseEvent (s : State) : Option Ev :=
  if windowRunOut s then some (((Ev.of s).resetWatches (chainOf s)).armIfEnabled (chainOf s).head?) else none

/-- CHAIN_LAPSE (R168). -/
def execChainLapse (s : State) : Host.Outcome State Fault Refusal := occurs (chainLapseEvent s) s

/-! ## Report Deflection (R44, R45) -/

/-- The section as a report leaves it: value, time, report age and stale flag (R44, R46). -/
def reportedSection (s : State) (n : Nat) (v : Int) : State :=
  setSection s n
    { data := { (sectionRec s n).data with lastDeflection := some { value := v, time := stampTime s } }
      age := some 0, stale := false }

/-- The limit compared: a DEFLECTION hold at STOP_NEW if the section has none (R45). -/
def Ev.compareLimit (e : Ev) (n : Nat) (v : Int) : Ev :=
  let limit := (sectionRec e.st n).data.deflLimit
  if limit ≠ 0 ∧ limit < v.natAbs ∧ hasHold e.st n .deflection = false then e.writeHold n .deflection .stopNew none else e

/-- What an accepted Report Deflection does (R44). -/
def reportEvent (s : State) (n : Nat) (v : Int) : Ev :=
  (((Ev.of (reportedSection s n v)).dirtied .sections).compareLimit n v).feedWatches (fedByReport n)

/-- Report Deflection decided (R44). -/
def reportDeflectionReply (pl : List Byte) (s : State) : Reply :=
  if inSections s (fieldNat pl 0 1) then
    done (reportEvent s (fieldNat pl 0 1) (clampSigned (-50000) 50000 (fieldInt pl 1 4)))
  else refuse s .badValue

/-- REPORT_DEFLECTION (R44). -/
def execReportDeflection (p : Port) (pl : List Byte) (s : State) : Host.Outcome State Fault Refusal :=
  take .reportDeflection p pl (reportDeflectionReply pl) s

/-! ## Watch Configure and Watch Threshold (R170, R171) -/

/-- One channel's configuration replaced, and the configuration block dirtied (R163). -/
def Ev.configureWatch (e : Ev) (w : WatchId) (c : WatchConfig) : Ev :=
  (e.mod fun s => { s with config := { s.config with watch := s.config.watch.set w c } }).dirtied .config

/-- The threshold of a Watch Configure payload for its comparison kind (section 11.8). -/
def configuredThreshold (k : CmpKind) (pl : List Byte) : Threshold :=
  if k = .outside then .two (fieldInt pl 6 3) (fieldInt pl 9 3) else .one (fieldInt pl 6 3)

/-- The source named by a Watch Configure payload, absent where check 4 of R170 refuses it. -/
def configuredSource (s : State) (pl : List Byte) : Option WatchSource :=
  match watchSourceOfCode (fieldNat pl 1 1) (fieldNat pl 2 1) with
  | some (.deflection n) => if inSections s n then some (.deflection n) else none
  | src => src

/-- The comparison kind named by a Watch Configure payload; RISE_OVER on W4 alone (R170, check 4). -/
def configuredKind (w : WatchId) (pl : List Byte) : Option CmpKind :=
  match cmpKindOfCode (fieldNat pl 3 1) with
  | some .riseOver => if w = .w4 then some .riseOver else none
  | k => k

/-- The configuration a Watch Configure payload gives, every number clamped; absent where it is refused (R170). -/
def configOfPayload (s : State) (w : WatchId) (pl : List Byte) : Option WatchConfig :=
  match configuredSource s pl, configuredKind w pl, actionLevelOfCode (fieldNat pl 13 1 / 16),
      actionDropOfCode (fieldNat pl 13 1 % 16) with
  | some src, some k, some lv, some dr =>
    (clampThreshold src k (configuredThreshold k pl)).map fun t =>
      { source := src, kind := k
        riseWindow := if k = .riseOver then some (clampNat 1 600 (fieldNat pl 4 2)) else none
        threshold := t, persistence := clampNat 1 255 (fieldNat pl 12 1), level := lv, drop := dr
        chainWindow := clampNat 0 3600 (fieldNat pl 14 2) }
  | _, _, _, _ => none

/-- Watch Configure decided (R170). -/
def watchConfigureReply (pl : List Byte) (s : State) : Reply :=
  match watchOfCode (fieldNat pl 0 1) with
  | none => refuse s .badValue
  | some w =>
    if (s.watch.get w).enabled then refuse s .configLocked
    else
      match configOfPayload s w pl with
      | none => refuse s .badValue
      | some c => doneWith ((Ev.of s).configureWatch w c) (.watchConfig c)

/-- WATCH_CONFIGURE (R170). -/
def execWatchConfigure (p : Port) (pl : List Byte) (s : State) : Host.Outcome State Fault Refusal :=
  take .watchConfigure p pl (watchConfigureReply pl) s

/-- The threshold of a Watch Threshold payload for a channel, clamped; absent where it is refused (R171). -/
def givenThreshold (c : WatchConfig) (pl : List Byte) : Option Threshold :=
  match thresholdOfPayload pl with
  | none => none
  | some t => if t.matchesKind c.kind then clampThreshold c.source c.kind t else none

/-- A threshold accepted: written into a disabled channel, staged on an enabled one (R171). -/
def acceptThreshold (s : State) (w : WatchId) (t : Threshold) : Reply :=
  if (s.watch.get w).enabled then
    doneWith ((Ev.of s).changeWatch w fun x => { x with staged := some t }) (.threshold t true)
  else doneWith ((Ev.of s).configureWatch w { s.config.watch.get w with threshold := t }) (.threshold t false)

/-- Watch Threshold decided (R171). -/
def watchThresholdReply (pl : List Byte) (s : State) : Reply :=
  match watchOfCode (fieldNat pl 0 1) with
  | none => refuse s .badValue
  | some w =>
    match givenThreshold (s.config.watch.get w) pl with
    | none => refuse s .badValue
    | some t => acceptThreshold s w t

/-- WATCH_THRESHOLD (R171). -/
def execWatchThreshold (p : Port) (pl : List Byte) (s : State) : Host.Outcome State Fault Refusal :=
  take .watchThreshold p pl (watchThresholdReply pl) s

/-! ## Watch Enable, Disable and Rearm (R172 to R174) -/

/-- Whether a channel becomes ARMED when it is enabled (R172). -/
def armsOnEnable (s : State) (w : WatchId) : Bool :=
  !(chainOf s).contains w || ((chainOf s).head? = some w && chainCondition s ≠ .complete)

/-- Watch Enable decided (R172). -/
def watchEnableReply (pl : List Byte) (s : State) : Reply :=
  match watchOfCode (fieldNat pl 0 1) with
  | none => refuse s .badValue
  | some w =>
    if sourceOutside s (s.config.watch.get w).source then refuse s .badValue
    else if (s.watch.get w).enabled then done (Ev.of s)
    else done ((Ev.of s).changeWatch w fun x => { x with enabled := true, count := 0, armed := armsOnEnable s w })

/-- WATCH_ENABLE (R172). -/
def execWatchEnable (p : Port) (pl : List Byte) (s : State) : Host.Outcome State Fault Refusal :=
  take .watchEnable p pl (watchEnableReply pl) s

/-- A staged threshold swapped in (R173, R174). -/
def Ev.swapThreshold (e : Ev) (w : WatchId) : Ev :=
  match (e.st.watch.get w).staged with
  | none => e
  | some t =>
    (e.configureWatch w { e.st.config.watch.get w with threshold := t }).changeWatch w fun x => { x with staged := none }

/-- The drop latches of channels released (R173, R174). -/
def Ev.releaseLatch (e : Ev) (w : WatchId) : Ev := e.changeWatch w fun x => { x with latch := false }

/-- The rest of a chain after one member was disabled: restarted unless the chain was COMPLETE (R173). -/
def Ev.restartChain (e : Ev) (w : WatchId) (wasComplete : Bool) : Ev :=
  if (chainOf e.st).contains w ∧ wasComplete = false then
    (e.resetWatches (chainOf e.st)).armIfEnabled (chainOf e.st).head?
  else e

/-- What a Watch Disable does to an ENABLED channel and its chain (R173). -/
def disableEvent (s : State) (w : WatchId) : Ev :=
  (((((Ev.of s).resetWatches [w]).changeWatch w fun x => { x with enabled := false }).swapThreshold w).releaseLatch
    w).restartChain w (chainCondition s = .complete)

/-- Watch Disable decided (R173). -/
def watchDisableReply (pl : List Byte) (s : State) : Reply :=
  match watchOfCode (fieldNat pl 0 1) with
  | none => refuse s .badValue
  | some w => if (s.watch.get w).enabled then done (disableEvent s w) else done (Ev.of s)

/-- WATCH_DISABLE (R173). -/
def execWatchDisable (p : Port) (pl : List Byte) (s : State) : Host.Outcome State Fault Refusal :=
  take .watchDisable p pl (watchDisableReply pl) s

/-- The channels a Watch Rearm acts on, first to be armed first (R174). -/
def rearmed (s : State) (w : WatchId) : List WatchId := if (chainOf s).contains w then chainOf s else [w]

/-- What a Watch Rearm does (R174). -/
def rearmEvent (s : State) (w : WatchId) : Ev :=
  (((rearmed s w).foldl (fun acc v => (acc.swapThreshold v).releaseLatch v) (Ev.of s)).resetWatches
    (rearmed s w)).armIfEnabled (rearmed s w).head?

/-- Watch Rearm decided (R174). -/
def watchRearmReply (pl : List Byte) (s : State) : Reply :=
  match watchOfCode (fieldNat pl 0 1) with
  | none => refuse s .badValue
  | some w => done (rearmEvent s w)

/-- WATCH_REARM (R174). -/
def execWatchRearm (p : Port) (pl : List Byte) (s : State) : Host.Outcome State Fault Refusal :=
  take .watchRearm p pl (watchRearmReply pl) s

end Sys2Proof.Machine
end

