-- ==== Sys2Proof/Machine/Sampling.lean ====
section
/-! DEFINITION. The sample set and everything that comes about in it: measurement, limit latches, refusal, watch
channels, holds and lift-off, and the second of the part's own time base (R49, R54, R73, R88, R128, R134, R165). The
rows that name one thing of a sample set, and the two rows of a watch trip, are the event in which that thing comes
about (log 4). -/

namespace Sys2Proof.Machine

/-! ## The second (chapter 3, opening text; log 6) -/

/-- A section's report age one second on; an age of "none" stays (R46). -/
def SectionRec.older (r : SectionRec) : SectionRec := { r with age := r.age.map (· + 1) }

/-- A watch channel's window remaining one second on; it stops at 0 (R168). -/
def WatchState.olderWindow (x : WatchState) : WatchState := { x with window := x.window.map (· - 1) }

/-- One second more is owed to a running line's pass entry (R91). -/
def owedRefresh (s : State) (l : GLine) : Nat := s.time.refreshDue.get l + if (s.grout.get l).isSome then 1 else 0

/-- What the hundredth sample period of a second brings (R46, R62, R91, R165, R168). -/
def wholeSecond (s : State) : State :=
  { s with
    sections := s.sections.map SectionRec.older
    watch := s.watch.map fun _ x => x.olderWindow
    time := { periods := 0, flowDue := s.time.flowDue + 1, riseDue := s.time.riseDue + 1
              refreshDue := { a := owedRefresh s .a, b := owedRefresh s .b } } }

/-- The part's time base one sample period on. -/
def tickTime (s : State) : State :=
  if s.time.periods + 1 < Config.periodsPerSecond then { s with time := { s.time with periods := s.time.periods + 1 } }
  else wholeSecond s

/-- A SET works clock's second one sample period on (R63, R64). -/
def tickClock (s : State) : State :=
  if s.clock.time.isSome then { s with clock := { s.clock with ticks := s.clock.ticks + 1 } } else s

/-! ## The sample set (R49) -/

/-- A sample set as the measurement unit publishes it: the supply, the values and the faults (R49, R66). -/
def measuredEvent (x : SampleIn) (s : State) : Ev := ((Ev.of s).mod (sampleSupply x.supply)).measure x.raw

/-- A sample set as it reaches the watch unit: the rig and both lines judged (R73, R88). -/
def monitoredEvent (x : SampleIn) (s : State) : Ev := (((measuredEvent x s).judgeRig).judgeLine .a).judgeLine .b

/-- A sample set as it reaches the stressing engine: the watch channels evaluated (R164). -/
def watchedEvent (x : SampleIn) (s : State) : Ev := (monitoredEvent x s).feedWatches fedBySample

/-- The event of a sample set; the order inside it is log 10: supply, measurement, rig, lines, watch channels, session,
and the time base. -/
def sampleEvent (x : SampleIn) (s : State) : Ev :=
  ((watchedEvent x s).judgeSession).mod fun t => tickTime (tickClock t)

/-- SAMPLE_SET (R49). -/
def execSampleSet (x : SampleIn) (s : State) : Host.Outcome State Fault Refusal := .next (commit (sampleEvent x s))

/-! ## What comes about in a sample set -/

/-- A sample set in which something comes about, absent where it does not (log 4). -/
def sampleIn (x : SampleIn) (s : State) (about : Ev → Bool) : Option Ev :=
  if about (sampleEvent x s) then some (sampleEvent x s) else none

/-- Whether a notice that passes a test was raised in an event. -/
def Ev.raised (e : Ev) (f : Notice → Bool) : Bool := e.notices.any f

/-- A fault's clearing. -/
def clearsFault (f : FaultId) : Notice → Bool
  | .sensorFault g raised => g = f && !raised
  | _ => false

/-- NOT_READY_CLEARED (R52): the sample set that brings a channel's history to eight. -/
def execNotReadyCleared (c : Channel) (x : SampleIn) (s : State) : Host.Outcome State Fault Refusal :=
  occurs (sampleIn x s fun e => e.raised (clearsFault (.notReady c))) s

/-- FAULT_CLEARED (R54): the hundredth consecutive sample set without the fault's condition. -/
def execFaultCleared (f : FaultId) (x : SampleIn) (s : State) : Host.Outcome State Fault Refusal :=
  occurs (sampleIn x s fun e => e.raised (clearsFault f)) s

/-- A LIMIT_EXCEEDED about a subject. -/
def exceedsLimit (u : LimitSubject) : Notice → Bool
  | .limitExceeded v _ _ _ _ => v = u
  | _ => false

/-- RIG_LIMIT_LATCH_SET (R73). -/
def execRigLimitLatchSet (x : SampleIn) (s : State) : Host.Outcome State Fault Refusal :=
  occurs (sampleIn x s fun e => e.raised (exceedsLimit .rig)) s

/-- GROUT_LIMIT_LATCH_SET (R88). -/
def execGroutLimitLatchSet (l : GLine) (x : SampleIn) (s : State) : Host.Outcome State Fault Refusal :=
  occurs (sampleIn x s fun e => e.raised (exceedsLimit (limitSubject l))) s

/-- A REFUSAL_REACHED on a line. -/
def reachesRefusal (l : GLine) : Notice → Bool
  | .refusalReached m _ _ _ _ => m = l
  | _ => false

/-- REFUSAL_REACHED (R90). -/
def execRefusalReached (l : GLine) (x : SampleIn) (s : State) : Host.Outcome State Fault Refusal :=
  occurs (sampleIn x s fun e => e.raised (reachesRefusal l)) s

/-- A HOLD_READING. -/
def readsHold : Notice → Bool
  | .holdReading _ _ _ _ _ _ => true
  | _ => false

/-- HOLD_POINT_READING (R129). -/
def execHoldPointReading (x : SampleIn) (s : State) : Host.Outcome State Fault Refusal :=
  occurs (sampleIn x s fun e => e.raised readsHold) s

/-- A HOLD_VOID. -/
def voidsHold : Notice → Bool
  | .holdVoid _ _ _ _ => true
  | _ => false

/-- HOLD_VOID (R130). -/
def execHoldVoid (x : SampleIn) (s : State) : Host.Outcome State Fault Refusal :=
  occurs (sampleIn x s fun e => e.raised voidsHold) s

/-- POWER_WARNING_CLEARED (R66): the sample set at which the supply has stood above 20.0 V for 1 s. -/
def execPowerWarningCleared (x : SampleIn) (s : State) : Host.Outcome State Fault Refusal :=
  occurs (sampleIn x s fun e => s.supply.warning && !e.st.supply.warning) s

/-! ## Watch trips (R168, R169) -/

/-- The event of a trigger, absent where its condition does not stand. -/
def triggerEvent (t : Trigger) (s : State) : Option Ev :=
  match t with
  | .sample x => some (sampleEvent x s)
  | .flowRate => flowRateEvent s
  | .report p pl => takeEvent .reportDeflection p pl (reportDeflectionReply pl) s
  | .rise => riseEvent s

/-- A WATCH_TRIPPED of a channel, by its kind. -/
def tripsWatch (w : WatchId) (action : Bool) : Notice → Bool
  | .watchTripped v a _ _ _ _ _ => v = w && a = action
  | _ => false

/-- The event of a trigger in which a channel trips (log 4). -/
def tripIn (w : WatchId) (action : Bool) (t : Trigger) (s : State) : Option Ev :=
  match triggerEvent t s with
  | none => none
  | some e => if e.raised (tripsWatch w action) then some e else none

/-- WATCH_STEP_TRIP (R168). -/
def execWatchStepTrip (w : WatchId) (t : Trigger) (s : State) : Host.Outcome State Fault Refusal :=
  occurs (tripIn w false t s) s

/-- WATCH_ACTION_TRIP (R169). -/
def execWatchActionTrip (w : WatchId) (t : Trigger) (s : State) : Host.Outcome State Fault Refusal :=
  occurs (tripIn w true t s) s

end Sys2Proof.Machine
end

