-- ==== Sys2Proof/Machine/Sections.lean ====
section
/-! DEFINITION. The section table's and the zone set's commands: holds, zones, section limits and staleness (R31, R36,
R37, R40, R46). Report Deflection feeds the watch channels and stands in Watch.lean. -/

namespace Sys2Proof.Machine

/-! ## Set Hold and Release Hold (R36, R37) -/

/-- Set Hold decided (R36). -/
def setHoldReply (pl : List Byte) (s : State) : Reply :=
  if inSections s (fieldNat pl 0 1) then
    match levelOfCode (fieldNat pl 1 1) with
    | none => refuse s .badValue
    | some lv => done ((Ev.of s).writeHold (fieldNat pl 0 1) .survey lv (some (fieldNat pl 2 1)))
  else refuse s .badValue

/-- SET_HOLD (R36). -/
def execSetHold (p : Port) (pl : List Byte) (s : State) : Host.Outcome State Fault Refusal :=
  take .setHold p pl (setHoldReply pl) s

/-- Release Hold decided (R37). -/
def releaseHoldReply (pl : List Byte) (s : State) : Reply :=
  if inSections s (fieldNat pl 0 1) then
    match sourceOfCode (fieldNat pl 1 1) with
    | none | some .store => refuse s .badValue
    | some src => done ((Ev.of s).removeHold (fieldNat pl 0 1) src)
  else refuse s .badValue

/-- RELEASE_HOLD (R37). -/
def execReleaseHold (p : Port) (pl : List Byte) (s : State) : Host.Outcome State Fault Refusal :=
  take .releaseHold p pl (releaseHoldReply pl) s

/-! ## Zones (R40) -/

/-- Open Zone or Close Zone decided (R40): a zone that stands so already is answered DONE with no change. -/
def setZoneReply (isOpen : Bool) (pl : List Byte) (s : State) : Reply :=
  if fieldNat pl 0 1 ≤ 15 then
    if zoneOpen s (fieldNat pl 0 1) = isOpen then done (Ev.of s)
    else
      done ((Ev.of { s with config := { s.config with zones := s.config.zones.set (fieldNat pl 0 1) isOpen } }).dirtied
        .config)
  else refuse s .badValue

/-- OPEN_ZONE (R40). -/
def execOpenZone (p : Port) (pl : List Byte) (s : State) : Host.Outcome State Fault Refusal :=
  take .openZone p pl (setZoneReply true pl) s

/-- CLOSE_ZONE (R40). -/
def execCloseZone (p : Port) (pl : List Byte) (s : State) : Host.Outcome State Fault Refusal :=
  take .closeZone p pl (setZoneReply false pl) s

/-! ## Set Section (R31) -/

/-- Set Section decided: the three values are clamped, stored and answered (R31). -/
def setSectionReply (pl : List Byte) (s : State) : Reply :=
  if inSections s (fieldNat pl 0 1) then
    let press := clampNat 50 5000 (fieldNat pl 1 2)
    let refusal := clampNat 50 5000 (fieldNat pl 3 2)
    let defl := clampNat 0 50000 (fieldNat pl 5 2)
    doneWith
      ((Ev.of s).changeSection (fieldNat pl 0 1) fun d =>
        { d with pressLimit := press, refusalPress := refusal, deflLimit := defl })
      (.sectionLimits press refusal defl)
  else refuse s .badValue

/-- SET_SECTION (R31). -/
def execSetSection (p : Port) (pl : List Byte) (s : State) : Host.Outcome State Fault Refusal :=
  take .setSection p pl (setSectionReply pl) s

/-! ## Staleness (R46) -/

/-- The stale flag is due: the flag is clear and the report age has reached the period (R46). -/
def staleDue (s : State) (n : Nat) : Bool :=
  1 ≤ n && n ≤ s.sections.length && !(sectionRec s n).stale && sectionIsStale s n

/-- SECTION_STALE (R46): the flag is set at the expiry; no notice is sent and nothing is persisted. -/
def execSectionStale (n : Nat) (s : State) : Host.Outcome State Fault Refusal :=
  .next (if staleDue s n then setSection s n { sectionRec s n with stale := true } else s)

end Sys2Proof.Machine
end

