-- ==== Sys2Proof/Machine/Dispatch.lean ====
section
/-! DEFINITION. The dispatch: one arm per command, each one direct call of its meaning. -/

namespace Sys2Proof.Machine

/-- The effect of a command on everything but the queue of waiting commands. -/
def exec (i : Instr) (s : State) : Host.Outcome State Fault Refusal :=
  match i with
  | .identify p pl => Sys2Proof.Machine.execIdentify p pl s
  | .readStatus p pl => Sys2Proof.Machine.execReadStatus p pl s
  | .readAnchor p pl => Sys2Proof.Machine.execReadAnchor p pl s
  | .readSection p pl => Sys2Proof.Machine.execReadSection p pl s
  | .readSession p pl => Sys2Proof.Machine.execReadSession p pl s
  | .clearPortFlags p pl => Sys2Proof.Machine.execClearPortFlags p pl s
  | .unknownRequestTaken p kind pl => Sys2Proof.Machine.execUnknownRequestTaken p kind pl s
  | .tendonStart p pl => Sys2Proof.Machine.execTendonStart p pl s
  | .tendonDone p pl => Sys2Proof.Machine.execTendonDone p pl s
  | .tendonWithdraw p pl => Sys2Proof.Machine.execTendonWithdraw p pl s
  | .injectStart p pl => Sys2Proof.Machine.execInjectStart p pl s
  | .injectEnd p pl => Sys2Proof.Machine.execInjectEnd p pl s
  | .stressOpen p pl => Sys2Proof.Machine.execStressOpen p pl s
  | .advance p pl => Sys2Proof.Machine.execAdvance p pl s
  | .release p pl => Sys2Proof.Machine.execRelease p pl s
  | .stressAbort p pl => Sys2Proof.Machine.execStressAbort p pl s
  | .stopSession p pl => Sys2Proof.Machine.execStopSession p pl s
  | .defineAnchor p pl => Sys2Proof.Machine.execDefineAnchor p pl s
  | .setAnchorGeometry p pl => Sys2Proof.Machine.execSetAnchorGeometry p pl s
  | .deleteAnchor p pl => Sys2Proof.Machine.execDeleteAnchor p pl s
  | .abandonAnchor p pl => Sys2Proof.Machine.execAbandonAnchor p pl s
  | .retestAnchor p pl => Sys2Proof.Machine.execRetestAnchor p pl s
  | .settleAnchor p pl => Sys2Proof.Machine.execSettleAnchor p pl s
  | .setHold p pl => Sys2Proof.Machine.execSetHold p pl s
  | .releaseHold p pl => Sys2Proof.Machine.execReleaseHold p pl s
  | .openZone p pl => Sys2Proof.Machine.execOpenZone p pl s
  | .closeZone p pl => Sys2Proof.Machine.execCloseZone p pl s
  | .reportDeflection p pl => Sys2Proof.Machine.execReportDeflection p pl s
  | .setClock p pl => Sys2Proof.Machine.execSetClock p pl s
  | .setParameter p pl => Sys2Proof.Machine.execSetParameter p pl s
  | .setSection p pl => Sys2Proof.Machine.execSetSection p pl s
  | .setCalibration p pl => Sys2Proof.Machine.execSetCalibration p pl s
  | .writeStep p pl => Sys2Proof.Machine.execWriteStep p pl s
  | .setScheduleHead p pl => Sys2Proof.Machine.execSetScheduleHead p pl s
  | .watchConfigure p pl => Sys2Proof.Machine.execWatchConfigure p pl s
  | .watchThreshold p pl => Sys2Proof.Machine.execWatchThreshold p pl s
  | .watchEnable p pl => Sys2Proof.Machine.execWatchEnable p pl s
  | .watchDisable p pl => Sys2Proof.Machine.execWatchDisable p pl s
  | .watchRearm p pl => Sys2Proof.Machine.execWatchRearm p pl s
  | .restart p pl => Sys2Proof.Machine.execRestart p pl s
  | .frameReceived p f => Sys2Proof.Machine.execFrameReceived p f s
  | .frameSent p => Sys2Proof.Machine.execFrameSent p s
  | .busOffEntered p => Sys2Proof.Machine.execBusOffEntered p s
  | .busOffRecovered p => Sys2Proof.Machine.execBusOffRecovered p s
  | .sampleSet x => Sys2Proof.Machine.execSampleSet x s
  | .notReadyCleared c x => Sys2Proof.Machine.execNotReadyCleared c x s
  | .faultCleared f x => Sys2Proof.Machine.execFaultCleared f x s
  | .rigLimitLatchSet x => Sys2Proof.Machine.execRigLimitLatchSet x s
  | .groutLimitLatchSet l x => Sys2Proof.Machine.execGroutLimitLatchSet l x s
  | .refusalReached l x => Sys2Proof.Machine.execRefusalReached l x s
  | .holdPointReading x => Sys2Proof.Machine.execHoldPointReading x s
  | .holdVoid x => Sys2Proof.Machine.execHoldVoid x s
  | .watchStepTrip w t => Sys2Proof.Machine.execWatchStepTrip w t s
  | .watchActionTrip w t => Sys2Proof.Machine.execWatchActionTrip w t s
  | .chainLapse => Sys2Proof.Machine.execChainLapse s
  | .riseOverEvaluation => Sys2Proof.Machine.execRiseOverEvaluation s
  | .flowRateUpdate => Sys2Proof.Machine.execFlowRateUpdate s
  | .passEntryRefresh l => Sys2Proof.Machine.execPassEntryRefresh l s
  | .sectionStale sect => Sys2Proof.Machine.execSectionStale sect s
  | .worksClockSecond => Sys2Proof.Machine.execWorksClockSecond s
  | .clockMarkDue => Sys2Proof.Machine.execClockMarkDue s
  | .cureExpiry => Sys2Proof.Machine.execCureExpiry s
  | .winchEncStep d => Sys2Proof.Machine.execWinchEncStep d s
  | .flowPulse l => Sys2Proof.Machine.execFlowPulse l s
  | .valveChanged l asserted => Sys2Proof.Machine.execValveChanged l asserted s
  | .powerWarningRaised supply => Sys2Proof.Machine.execPowerWarningRaised supply s
  | .powerWarningCleared x => Sys2Proof.Machine.execPowerWarningCleared x s
  | .itemWriteBegin => Sys2Proof.Machine.execItemWriteBegin s
  | .itemWriteComplete => Sys2Proof.Machine.execItemWriteComplete s
  | .warningMarkWritten => Sys2Proof.Machine.execWarningMarkWritten s
  | .powerOnReset => Sys2Proof.Machine.execPowerOnReset s
  | .resetLineReset => Sys2Proof.Machine.execResetLineReset s
  | .restartReset => Sys2Proof.Machine.execRestartReset s
  | .resetCauseWritten => Sys2Proof.Machine.execResetCauseWritten s

end Sys2Proof.Machine
end

