-- ==== Sys2Proof/Safety.lean ====
section
/-! DEFINITION. What a safe state is, and the vocabulary in which the statements speak of a command: which parts of the
state it leaves alone, what an accepted request does at its port, and what goes on the write list. -/

namespace Sys2Proof.Machine

/-! ## Properties of the whole part -/

/-- Every permit line stands as its conditions give: asserted while all of them hold, deasserted while any fails
(R176). -/
def PermitsExact (s : State) : Prop := ∀ l : PLine, s.permits.get l = lineUp s l

/-- Every inbound queue holds at most four requests and every notice queue at most eight notices (R192). -/
def QueuesBounded (s : State) : Prop :=
  ∀ p : Port, (s.ports.get p).inbound.length ≤ Config.inboundRoom ∧ (s.ports.get p).notices.length ≤ Config.noticeRoom

/-- No notice queue holds two notices of one kind and key (R198). -/
def NoticeKeysDistinct (s : State) : Prop := ∀ p : Port, ((s.ports.get p).notices.map Notice.key).Nodup

/-- The works clock, while SET, lies within its range (R63). -/
def ClockInRange (s : State) : Prop := ∀ t, s.clock.time = some t → t ≤ Config.maxClock

/-- The commands that are a reset of the part (R185). -/
def IsReset (c : Instr) : Prop := c = .powerOnReset ∨ c = .resetLineReset ∨ c = .restartReset

/-- The paid-out length lies within 0..80000 mm (R60). -/
def PaidOutInRange (s : State) : Prop := s.meas.paidOut ≤ Config.maxPaidOut

/-- The gated volume and the flow rate of both lines lie within 0..65535 (R61, R62). -/
def FlowInRange (s : State) : Prop :=
  ∀ l : GLine, (s.meas.lines.get l).gated ≤ Config.maxCount16 ∧ (s.meas.lines.get l).rate ≤ Config.maxCount16

/-- Every channel holds the samples taken since its history was last emptied, at most eight, each within 0..its maximum;
NOT_READY is present exactly while there are fewer than eight, the value being 0 meanwhile (R51, R52). -/
def ChannelsSound (s : State) : Prop :=
  ∀ c : Channel, (channelGet s.meas.chans c).history.length ≤ Config.historyLength ∧
    (channelGet s.meas.chans c).history.length =
      min Config.historyLength (channelGet s.meas.chans c).taken ∧
    (∀ v ∈ (channelGet s.meas.chans c).history, v ≤ channelMax c) ∧
    ((channelGet s.meas.chans c).notReady = true ↔
      (channelGet s.meas.chans c).history.length < Config.historyLength) ∧
    ((channelGet s.meas.chans c).notReady = true → (channelGet s.meas.chans c).value = 0) ∧
    (channelGet s.meas.chans c).value ≤ channelMax c

/-- An identity lies in its ranges: section 1..64, tier 1..8, slot 1..8 (R1). -/
def IdInRange (a : AnchorId) : Prop :=
  (1 ≤ a.sect ∧ a.sect ≤ 64) ∧ (1 ≤ a.tier ∧ a.tier ≤ 8) ∧ (1 ≤ a.slot ∧ a.slot ≤ 8)

/-- A copy of the slot directory names identities in their ranges alone. -/
def DirSound (c : DirCopy) : Prop := ∀ x ∈ c.slots, IdInRange x.val

/-- A configuration holds 16 zones and a section count of 2..64 (R30, R40). -/
def ConfigSized (c : ConfigData) : Prop :=
  c.zones.length = 16 ∧ 2 ≤ c.params.sectionCount ∧ c.params.sectionCount ≤ 64

/-- A schedule table holds 64 steps (R103). -/
def ScheduleSized (c : ScheduleData) : Prop := c.steps.length = 64

/-- The persistent fields of a section table: 64 records of 8 counts each (R29). -/
def SectionsSized (l : List SectionData) : Prop := l.length = 64 ∧ ∀ d ∈ l, d.counts.length = 8

/-- The tables that have a fixed size have it: 64 section records of 8 counts each, 16 zones, 64 steps, in the part, in the
store and in the write in progress; the section count lies in 2..64 and every anchor identity in its ranges; each head's
result is that of its validation (R1, R29, R30, R40, R103, R105). -/
def TablesSized (s : State) : Prop :=
  s.sections.length = 64 ∧ (∀ r ∈ s.sections, r.data.counts.length = 8) ∧ ConfigSized s.config ∧
    ScheduleSized s.schedule ∧ (∀ c, s.store.config = some c → ConfigSized c) ∧
    (∀ c, s.store.schedule = some c → ScheduleSized c) ∧
    (∀ c n, s.recorder.writer = .writing (.config c) n → ConfigSized c) ∧
    (∀ c n, s.recorder.writer = .writing (.schedule c) n → ScheduleSized c) ∧
    (∀ r ∈ s.anchors, IdInRange r.id) ∧ (∀ c, s.store.dirFirst = some c → DirSound c) ∧
    (∀ c, s.store.dirSecond = some c → DirSound c) ∧
    (∀ b c n, s.recorder.writer = .writing (.directory b c) n → DirSound c) ∧
    s.results = validateAll s.schedule ∧ (∀ l, s.store.sections = some l → SectionsSized l) ∧
    ∀ l n, s.recorder.writer = .writing (.sections l) n → SectionsSized l

/-! ## Agreement of the tables -/

/-- The anchor records stand in identity order, no identity twice (R2). -/
def AnchorsOrdered (l : List AnchorRec) : Prop := l.Pairwise fun a b => a.id.before b.id = true

/-- The hold records of a section stand in the order of their sources, at most one for each source (R34). -/
def HoldsRising (l : List Hold) : Prop := l.Pairwise fun a b => sourceRank a.source < sourceRank b.source

/-- The cure list is ordered by due time then identity, holds no anchor twice, and holds an anchor exactly while its stage
is CURING, with the due time of its record (R23, R24). -/
def CureSound (s : State) : Prop :=
  s.cure.Pairwise (fun a b => keyLe a.key b.key = true) ∧ (s.cure.map (·.id)).Nodup ∧
    ∀ c, c ∈ s.cure ↔ ∃ r ∈ s.anchors, r.id = c.id ∧ r.stage = .curing ∧ r.cureDue.getD 0 = c.due

/-- Every locked-off count is the number of the LOCKED_OFF anchors of its section and tier (R42). -/
def CountsExact (s : State) : Prop :=
  ∀ n tier, 1 ≤ n → n ≤ 64 → 1 ≤ tier → tier ≤ 8 →
    lockedCount s n tier =
      (s.anchors.filter fun r => r.id.sect = n && r.id.tier = tier && r.stage = .lockedOff).length

/-- A copy of the slot directory names no identity twice, and identities in their ranges alone (R181). -/
def DirDistinct (c : DirCopy) : Prop := (c.slots.map (·.val)).Nodup ∧ DirSound c

/-- Every section of a section table holds at most one record per source (R34). -/
def HoldsAll (l : List SectionData) : Prop := ∀ d ∈ l, HoldsRising d.holds

/-- What the store and the write in progress hold of the directory and the section table keeps to the same rules, so that
a recovery finds no identity twice and no second record of a source (R34, R181). -/
structure StoreAgrees (s : State) : Prop where
  first : ∀ c, s.store.dirFirst = some c → DirDistinct c
  second : ∀ c, s.store.dirSecond = some c → DirDistinct c
  dirJob : ∀ b c n, s.recorder.writer = .writing (.directory b c) n → DirDistinct c
  secs : ∀ l, s.store.sections = some l → HoldsAll l
  secJob : ∀ l n, s.recorder.writer = .writing (.sections l) n → HoldsAll l

/-- The tables agree: the anchor table, the cure list, the hold records and the locked-off counts (R2, R23, R34, R42). -/
structure TablesAgree (s : State) : Prop where
  ordered : AnchorsOrdered s.anchors
  cure : CureSound s
  counts : CountsExact s
  holds : ∀ r ∈ s.sections, HoldsRising r.data.holds

/-! ## The reading pool -/

/-- A reading list names entries of the pool alone (R158). -/
def ReadingsIn (r : AnchorRec) : Prop := ∀ i, ListPlace.entry i ∈ readingsOf r → i < 8192

/-- The hold readings of every frame of a session (R122). -/
def holdIndices (x : Session) : List Nat := x.stages.flatMap (·.holdReadings)

/-- The anchor of an open session is the one record in STRESSING that the session names; as many entries are RESERVED as
session and record say; the hold readings of its frames are distinct entries that are not RESERVED (R115, R117, R130). -/
structure SessionReserved (s : State) (x : Session) : Prop where
  rec_ : ∃ r ∈ s.anchors, r.id = x.anchor ∧ r.stage = .stressing ∧ r.result ≠ none ∧ r.reserved = x.reservation
  len : s.pool.reserved.length = x.reservation
  nodup : (holdIndices x).Nodup
  lt : ∀ i ∈ holdIndices x, i < 8192 ∧ i ∉ s.pool.reserved

/-- The reading pool is sound: each entry of 0..8191 is in one state, RESERVED, USED or FREE, the RESERVED and the USED
in rising order; reading lists name entries of the pool alone; entries are RESERVED for the open session alone, and no
other anchor is in STRESSING (R115, R117, R158, R160). -/
structure PoolSound (s : State) : Prop where
  ids : (s.anchors.map (·.id)).Nodup
  rsv : s.pool.reserved.Pairwise (· < ·)
  rsvIn : ∀ i ∈ s.pool.reserved, i < 8192 ∧ i ∉ s.pool.used.map (·.index)
  usd : (s.pool.used.map (·.index)).Pairwise (· < ·)
  usdIn : ∀ e ∈ s.pool.used, e.index < 8192
  lists : ∀ r ∈ s.anchors, ReadingsIn r
  others : ∀ r ∈ s.anchors, (∀ x, s.session = some x → r.id ≠ x.anchor) → r.reserved = 0 ∧ r.stage ≠ .stressing
  idle : s.session = none → s.pool.reserved = []
  open_ : ∀ x, s.session = some x → SessionReserved s x

/-- The stored images, and the image being written, name entries of the pool alone (R158, R188). -/
structure ImagesSound (s : State) : Prop where
  imgs : ∀ x ∈ s.store.images, ReadingsIn x.val
  job : ∀ n r m, s.recorder.writer = .writing (.image n (some r)) m → ReadingsIn r

/-! ## The load-stage stack -/

/-- The simulation of R109 after some steps of a path. -/
def simAlong (sch : ScheduleData) (steps : List Nat) : Sim := steps.foldl (fun m i => m.pass i (stepAt sch i)) Sim.start

/-- The frames of a session's stack, top frame first: the fraction of each, and whether it is the datum frame (R122). -/
def frameMarks (x : Session) : List (Nat × Bool) :=
  x.stages.map (fun g => (g.fraction, false)) ++ (x.datum.map fun d => (d.fraction, true)).toList

/-- The stack and the cycle count of a session are those of a simulation (R111, R122). -/
def StackMatches (m : Sim) (x : Session) : Prop :=
  m.stack.map (fun g => (g.fraction, g.isDatum)) = frameMarks x ∧ m.cycles = x.cycles

/-- The phase of a session suits the kind of the step it stands at (R120). -/
def PhaseSuits (s : State) (x : Session) : Prop :=
  match x.phase with
  | .holding _ => (stepAt s.schedule x.step).kind = .hold
  | .releaseWait => (stepAt s.schedule x.step).kind = .lockOff
  | .liftoff _ => (stepAt s.schedule x.step).kind = .liftOff
  | .opened => x.datum = none
  | .approach => True

/-- Every frame of a session has the target of its fraction (R145). -/
def TargetsFit (s : State) (x : Session) : Prop :=
  (∀ g ∈ x.stages, g.target = targetOf (testLoad s x.anchor) g.fraction) ∧
    ∀ d, x.datum = some d → d.target = targetOf (testLoad s x.anchor) d.fraction

/-- A session stands at a step of the path of its head, its stack what the steps before that one leave, and no two frames
of the path with equal targets for its anchor (R108, R113, R122). -/
structure OnPath (s : State) (x : Session) : Prop where
  place : ∃ path count before after, s.results.get x.cls = .valid path count ∧ path = before ++ x.step :: after ∧
    StackMatches (simAlong s.schedule before) x ∧ equalTargets s.schedule (testLoad s x.anchor) [] path = false ∧
    x.lockStep = lockStepOf s.schedule path
  phase : PhaseSuits s x
  targets : TargetsFit s x

/-- An open session stands on the path of its head. -/
def SessionOnPath (s : State) : Prop := ∀ x, s.session = some x → OnPath s x

/-- The load-stage stack is sound: at most 8 frames, none without the datum frame, their targets strictly rising from
bottom to top, at most 7 cycles (R111, R122). -/
structure LoadStagesSound (x : Session) : Prop where
  depth : (frameMarks x).length ≤ 8
  rising : (x.stages.map (·.target) ++ (x.datum.map (·.target)).toList).Pairwise (· > ·)
  based : x.datum = none → x.stages = []
  cycles : x.cycles ≤ 7

/-! ## Programmes (R110 to R112) -/

/-- What a walk along some steps of a schedule leaves: the fractions of the stacked frames, top first; the cycles begun;
the pool entries the steps can use. -/
structure ProgrammeWalk where
  stack : List Nat
  cycles : Nat
  entries : Nat

/-- One step walked: a load stacks a frame and begins a cycle on the datum frame alone, an unload takes off the frames above
its fraction; the entries are those of the table of R112. -/
def ProgrammeWalk.after (w : ProgrammeWalk) : StepRec → ProgrammeWalk
  | .datum f _ => { w with stack := f :: w.stack, entries := w.entries + 1 }
  | .loadTo f _ =>
    { stack := f :: w.stack, cycles := if w.stack.length = 1 then w.cycles + 1 else w.cycles, entries := w.entries + 1 }
  | .hold _ _ extendable _ => { w with entries := w.entries + if extendable then 9 else 5 }
  | .unloadTo f _ =>
    { w with stack := w.stack.dropWhile fun g => f < g,
             entries := w.entries + 1 + (w.stack.takeWhile fun g => f < g).length }
  | .lockOff _ => { w with entries := w.entries + 2 }
  | .liftOff _ => { w with entries := w.entries + 1 }
  | .endStep => w

/-- The walk along some steps, from an empty stack. -/
def programmeWalk (sch : ScheduleData) (steps : List Nat) : ProgrammeWalk :=
  steps.foldl (fun w i => w.after (stepAt sch i)) { stack := [], cycles := 0, entries := 0 }

/-! ## Frames -/

/-- The parts of the state. -/
inductive Part
  | anchors | cure | sections | config | schedule | results | meas | clock | time | supply | rig | grout | session
  | pool | watch | permits | store | recorder | ports | freeIdx | pending
  deriving DecidableEq, Repr

/-- A part of two states is the same. -/
def SamePart (s t : State) : Part → Prop
  | .anchors => t.anchors = s.anchors
  | .cure => t.cure = s.cure
  | .sections => t.sections = s.sections
  | .config => t.config = s.config
  | .schedule => t.schedule = s.schedule
  | .results => t.results = s.results
  | .meas => t.meas = s.meas
  | .clock => t.clock = s.clock
  | .time => t.time = s.time
  | .supply => t.supply = s.supply
  | .rig => t.rig = s.rig
  | .grout => t.grout = s.grout
  | .session => t.session = s.session
  | .pool => t.pool = s.pool
  | .watch => t.watch = s.watch
  | .permits => t.permits = s.permits
  | .store => t.store = s.store
  | .recorder => t.recorder = s.recorder
  | .ports => t.ports = s.ports
  | .freeIdx => t.freeIdx = s.freeIdx
  | .pending => t.pending = s.pending

/-- Every part but those listed is the same. -/
def OnlyChanges (parts : List Part) (s t : State) : Prop := ∀ x : Part, x ∉ parts → SamePart s t x

/-- The parts every end of an event can touch: the counts of idle watch channels, the lines, the write list, the ports. -/
abbrev endParts : List Part := [.watch, .permits, .recorder, .ports]

/-- The parts a stressing event can touch. -/
abbrev stressParts : List Part := [.session, .pool, .anchors, .cure, .sections]

/-- The parts a watch evaluation can touch. -/
abbrev watchParts : List Part := [.watch, .sections]

/-- The parts a sample set can touch. -/
abbrev sampleParts : List Part :=
  [.supply, .recorder, .meas, .rig, .grout, .watch, .session, .pool, .anchors, .cure, .sections, .clock, .time]

/-- Every anchor record but one is the same, and none is added or lost. -/
def OtherAnchorsSame (a : AnchorId) (s t : State) : Prop := ∀ b, b ≠ a → findAnchor t b = findAnchor s b

/-- Every section record but one is the same. -/
def OtherSectionsSame (n : Nat) (s t : State) : Prop := ∀ m, 1 ≤ m → m ≠ n → sectionRec t m = sectionRec s m

/-! ## A change of stage (R8, R15, R24, R38) -/

/-- The cure list through a change of stage: the anchor leaves it with CURING and joins it with CURING (R24). -/
def movedCure (old new : AnchorRec) (l : List CureEntry) : List CureEntry :=
  let left := if old.stage = .curing then l.filter fun c => c.id ≠ new.id else l
  if new.stage = .curing then joinCure { due := new.cureDue.getD 0, id := new.id } left else left

/-- The locked-off counts of the anchor's section through a change of stage (R42). -/
def movedCounts (old new : AnchorRec) (counts : List Nat) : List Nat :=
  let i := new.id.tier - 1
  let left := if old.stage = .lockedOff then counts.set i (counts.getD i 0 - 1) else counts
  if new.stage = .lockedOff then left.set i (left.getD i 0 + 1) else left

/-- The change of stage is the exit of a section's last SUSPECT anchor, and the section has a STORE hold (R38). -/
def storeHoldGoes (s : State) (old new : AnchorRec) : Bool :=
  old.stage = .suspect && new.stage ≠ .suspect && hasHold s new.id.sect .store &&
    !(s.anchors.any fun r => r.id ≠ new.id && r.id.sect = new.id.sect && r.stage = .suspect)

/-- The section record of the anchor through a change of stage (R38, R42). -/
def movedSection (s : State) (old new : AnchorRec) : SectionRec :=
  let r := sectionRec s new.id.sect
  { r with data := { r.data with
      counts := movedCounts old new r.data.counts
      holds := if storeHoldGoes s old new then r.data.holds.filter fun h => h.source ≠ .store else r.data.holds } }

/-- A change of stage carried through the tables: the record, the cure list, the section of the anchor; every other
record and section is the same. -/
structure StageMoved (old new : AnchorRec) (s t : State) : Prop where
  record : findAnchor t new.id = some new
  others : OtherAnchorsSame new.id s t
  cure : t.cure = movedCure old new s.cure
  section_ : sectionRec t new.id.sect = movedSection s old new
  sections : OtherSectionsSame new.id.sect s t

/-- The items a change of stage dirties: the image, and the section block where a count or a hold changes (R11, R29). -/
def stageItems (s : State) (old new : AnchorRec) : List Item :=
  .image new.imageSlot ::
    (if old.stage = .lockedOff ∨ new.stage = .lockedOff ∨ storeHoldGoes s old new = true then [.sections] else [])

/-- The flags, windows, staged thresholds and latches of the watch channels are the same. -/
def WatchFlagsSame (s t : State) : Prop :=
  ∀ w : WatchId, (t.watch.get w).enabled = (s.watch.get w).enabled ∧ (t.watch.get w).armed = (s.watch.get w).armed ∧
    (t.watch.get w).tripped = (s.watch.get w).tripped ∧ (t.watch.get w).staged = (s.watch.get w).staged ∧
    (t.watch.get w).window = (s.watch.get w).window ∧ (t.watch.get w).latch = (s.watch.get w).latch

/-- The flags, the staged threshold, the window and the latch of two watch states are the same. -/
def SameFlags (a b : WatchState) : Prop :=
  a.enabled = b.enabled ∧ a.armed = b.armed ∧ a.tripped = b.tripped ∧ a.staged = b.staged ∧ a.window = b.window ∧
    a.latch = b.latch

/-- A watch channel with a persistence count of 0 and an empty snapshot history (R168, R173, R174). -/
def Rested (x : WatchState) : Prop := x.count = 0 ∧ x.history = []

/-- The notices of a change of stage: HOLD_CHANGED where the STORE hold goes with the section's last SUSPECT anchor, and
STAGE_CHANGED (R10, R35, R38). -/
def stageNotices (s t : State) (old new : AnchorRec) : List Notice :=
  (if storeHoldGoes s old new = true then
    [.holdChanged new.id.sect .store none (effectiveLevel t new.id.sect)] else []) ++
    [.stageChanged new.id (some old.stage) new.stage]

/-- The chain is COMPLETE: its final member is TRIPPED (R167). -/
def chainComplete (s : State) : Bool :=
  match (chainMembers s.config.params.chainMode).getLast? with
  | none => false
  | some w => (s.watch.get w).tripped

/-- The configuration of a watch channel with its staged threshold swapped in, if it has one (R173, R174). -/
def swappedConfig (s : State) (w : WatchId) : WatchConfig :=
  match (s.watch.get w).staged with
  | none => s.config.watch.get w
  | some th => { s.config.watch.get w with threshold := th }

/-- The state in which a trigger hands its values to the watch unit, and the sources that have a new value; absent where
the trigger's event does not occur, and for the second of RISE_OVER (R164, R165). -/
def fedAt (t : Trigger) (s : State) : Option (State × (WatchSource → Bool)) :=
  match t with
  | .sample x => some ((monitoredEvent x s).st, fedBySample)
  | .flowRate => if s.time.flowDue = 0 then none else some (flowSecond s, fedByFlow)
  | .report p pl =>
    if canTake s p ReqKind.reportDeflection.code pl && ReqKind.reportDeflection.allowed p && pl.length == 5 &&
        inSections s (fieldNat pl 0 1) then
      let n := fieldNat pl 0 1
      let v := clampSigned (-50000) 50000 (fieldInt pl 1 4)
      some ((((Ev.of (reportedSection (takeFrame s p) n v)).dirtied .sections).compareLimit n v).st, fedByReport n)
    else none
  | .rise => none

/-! ## Measurement (R51, R54) -/

/-- A fault after one sample set: raised at once by its condition, cleared at the hundredth sample set without it (R54). -/
def faultAfter (f : FaultState) (condition : Prop) [Decidable condition] : FaultState :=
  if condition then { present := true, absent := 0 }
  else if f.present = true ∧ f.absent + 1 < 100 then { present := true, absent := f.absent + 1 }
  else { present := false, absent := 0 }

/-- The channel after one sample set, from its calibration and its raw reading (R51, R52, R54). -/
def sampledChannel (maximum : Nat) (cal : Calibration) (raw : RawWord) (old : ChannelState) : ChannelState :=
  let result := Int.tdiv (((raw.toNat : Int) - cal.zero) * cal.span) 65536
  let sample := (max 0 (min result maximum)).toNat
  let history := (if 8 ≤ old.history.length then old.history.drop 1 else old.history) ++ [sample]
  { history := history
    taken := old.taken + 1
    value := if history.length = 8 then history.sum / 8 else 0
    notReady := decide (history.length ≠ 8)
    overRange := faultAfter old.overRange ((maximum : Int) < result) }

/-! ## The write list (R182, R183) -/

/-- An item waits to be written: it is on the list, or noted in the write in progress. -/
def AwaitsWrite (t : State) (i : Item) : Prop :=
  i ∈ t.recorder.list ∨ ∃ j, t.recorder.writer = .writing j true ∧ j.item = i

/-- A writer is the same up to the note of a change. -/
def SameWrite : Writer → Writer → Prop
  | .writing j n, .writing k m => k = j ∧ (n = true → m = true)
  | a, b => b = a

/-- The items of an event wait to be written; the list keeps its order and gains nothing else; the rest of the record
store is the same (R182, R183). -/
def Dirties (items : List Item) (s t : State) : Prop :=
  (∀ i ∈ items, AwaitsWrite t i) ∧ s.recorder.list <+: t.recorder.list ∧
    (∀ i ∈ t.recorder.list, i ∈ s.recorder.list ∨ i ∈ items) ∧ SameWrite s.recorder.writer t.recorder.writer ∧
    t.recorder.warned = s.recorder.warned ∧ t.recorder.markOwed = s.recorder.markOwed ∧
    t.recorder.cause = s.recorder.cause ∧ t.recorder.causeDue = s.recorder.causeDue ∧
    t.recorder.causeOpen = s.recorder.causeOpen ∧
    t.recorder.draining = s.recorder.draining

/-! ## Notices (R177, R197 to R199) -/

/-- The PERMIT_CHANGED of an event: one for each line whose state it changed, with the line's new state and the down causes
that stand after it (R177). -/
def permitChanges (s t : State) : List Notice :=
  (allLines.filter fun l => t.permits.get l != s.permits.get l).map fun l =>
    .permitChanged l (t.permits.get l) (lineCauses t l)

/-- The notices of an event reach the ports: each port, standing as `base` says, is offered those routed to it and the
PERMIT_CHANGED of the event, in the order of R198, and then begins its next frame if it is free. -/
def Told (base : Port → PortState) (ns : List Notice) (s t : State) : Prop :=
  ∀ q, t.ports.get q = pump (offerAll q (sortNotices (ns ++ permitChanges s t)) (base q))

/-- An event raises some notices, among others. -/
def Tells (ns : List Notice) (s t : State) : Prop :=
  ∃ all, (∀ n ∈ ns, n ∈ all) ∧ Told (fun q => s.ports.get q) all s t

/-! ## Requests (R194, R196) -/

/-- A port takes this request next, the port may make it, and its payload has its length (R194). -/
def Asked (k : ReqKind) (p : Port) (pl : List Byte) (s : State) : Prop :=
  canTake s p k.code pl = true ∧ k.allowed p = true ∧ pl.length = k.length

/-- The frames of an answer stand in the slot, the first of them already being sent if the port was free (R196, R197). -/
def Answers (before after : PortState) (frames : List AnswerFrame) : Prop :=
  if before.sending = none then after.sending = frames.head?.map .answer ∧ after.slot = frames.drop 1
  else after.sending = before.sending ∧ after.slot = frames

/-- A port that took no request in the event: its link, inbound queue, request in hand and taking are the same. -/
def PortKeeps (before after : PortState) : Prop :=
  after.link = before.link ∧ after.inbound = before.inbound ∧ after.inHand = before.inHand ∧
    after.taking = before.taking

/-- The flags of a port but NOTICE_DROPPED are the same. -/
def FlagsKept (before after : PortState) : Prop :=
  after.flags = { before.flags with noticeDropped := after.flags.noticeDropped }

/-- A request was taken and answered: the frame is in hand, its answer stands in the slot, and no other port is
touched but for its notices. -/
def Taken (p : Port) (frames : List AnswerFrame) (s t : State) : Prop :=
  Answers (s.ports.get p) (t.ports.get p) frames ∧
    (t.ports.get p).inHand = (s.ports.get p).inbound.head? ∧
    (t.ports.get p).inbound = (s.ports.get p).inbound.drop 1 ∧
    (t.ports.get p).link = (s.ports.get p).link ∧ (t.ports.get p).taking = (s.ports.get p).taking ∧
    ∀ q, q ≠ p → PortKeeps (s.ports.get q) (t.ports.get q) ∧ FlagsKept (s.ports.get q) (t.ports.get q)

/-- The ports as the taking of a request leaves them before the notices of its event: the oldest frame in hand, the frames
of the answer in the slot (R194, R196). -/
def tookRequest (p : Port) (frames : List AnswerFrame) (s : State) (q : Port) : PortState :=
  if q = p then
    { s.ports.get p with
      inbound := (s.ports.get p).inbound.drop 1, inHand := (s.ports.get p).inbound.head?, slot := frames }
  else s.ports.get q

/-- The ports as a trigger's event leaves them before its notices: an accepted Report Deflection is taken. -/
def triggerBase (g : Trigger) (s : State) (q : Port) : PortState :=
  match g with
  | .report p _ => tookRequest p [.single ReqKind.reportDeflection.code .done .none] s q
  | .sample _ | .flowRate | .rise => s.ports.get q

/-- What every accepted request without read content does beside its own effect: it is taken and answered DONE with its
data, the port's flags stand, its items wait to be written, its notices reach their ports, every permit line is exact, and
no other part of the state is touched than those listed. -/
structure Accepted (k : ReqKind) (p : Port) (d : AnswerData) (items : List Item) (ns : List Notice) (parts : List Part)
    (s t : State) : Prop where
  taken : Taken p [.single k.code .done d] s t
  flags : FlagsKept (s.ports.get p) (t.ports.get p)
  told : Told (tookRequest p [.single k.code .done d] s) ns s t
  items : Dirties items s t
  lines : PermitsExact t
  frame : OnlyChanges (parts ++ [.watch, .permits, .recorder, .ports]) s t

/-- What every accepted read does: it is taken and answered DONE and n, followed by n continuation frames of the content,
and nothing is touched but the ports, the watch counts and the parts listed. -/
structure ReadOut (k : ReqKind) (p : Port) (content : ReadContent) (n : Nat) (parts : List Part) (s t : State) : Prop where
  taken : Taken p (answerFrames k.code (.read content n)) s t
  flags : FlagsKept (s.ports.get p) (t.ports.get p)
  told : Told (tookRequest p (answerFrames k.code (.read content n)) s) [] s t
  items : Dirties [] s t
  lines : PermitsExact t
  watches : WatchFlagsSame s t
  frame : OnlyChanges (parts ++ [.watch, .permits, .recorder, .ports]) s t

/-- The code of the first check of a list that fails; each check says whether it fails and its code (R196). -/
def firstFailing (checks : List (Bool × Code)) : Option Code := (checks.find? fun c => c.1).map fun c => c.2

/-- The command that is the taking of a request of a kind. -/
def requestOf (k : ReqKind) (p : Port) (pl : List Byte) : Instr :=
  match k with
  | .identify => .identify p pl
  | .readStatus => .readStatus p pl
  | .readAnchor => .readAnchor p pl
  | .readSection => .readSection p pl
  | .readSession => .readSession p pl
  | .clearPortFlags => .clearPortFlags p pl
  | .tendonStart => .tendonStart p pl
  | .tendonDone => .tendonDone p pl
  | .tendonWithdraw => .tendonWithdraw p pl
  | .injectStart => .injectStart p pl
  | .injectEnd => .injectEnd p pl
  | .stressOpen => .stressOpen p pl
  | .advance => .advance p pl
  | .release => .release p pl
  | .stressAbort => .stressAbort p pl
  | .defineAnchor => .defineAnchor p pl
  | .setAnchorGeometry => .setAnchorGeometry p pl
  | .deleteAnchor => .deleteAnchor p pl
  | .abandonAnchor => .abandonAnchor p pl
  | .retestAnchor => .retestAnchor p pl
  | .settleAnchor => .settleAnchor p pl
  | .setHold => .setHold p pl
  | .releaseHold => .releaseHold p pl
  | .openZone => .openZone p pl
  | .closeZone => .closeZone p pl
  | .reportDeflection => .reportDeflection p pl
  | .setSection => .setSection p pl
  | .setClock => .setClock p pl
  | .setParameter => .setParameter p pl
  | .setCalibration => .setCalibration p pl
  | .writeStep => .writeStep p pl
  | .setScheduleHead => .setScheduleHead p pl
  | .watchConfigure => .watchConfigure p pl
  | .watchThreshold => .watchThreshold p pl
  | .watchEnable => .watchEnable p pl
  | .watchDisable => .watchDisable p pl
  | .watchRearm => .watchRearm p pl
  | .stopSession => .stopSession p pl
  | .restart => .restart p pl

/-- A request was taken and refused by its owning block: one answer frame with the code, no port flag set, no notice of its
own, and nothing else touched (R196, R207). -/
structure Refused (k : Byte) (p : Port) (c : Code) (s t : State) : Prop where
  taken : Taken p [.single k c .none] s t
  flags : FlagsKept (s.ports.get p) (t.ports.get p)
  told : Told (tookRequest p [.single k c .none] s) [] s t
  items : Dirties [] s t
  lines : PermitsExact t
  watches : WatchFlagsSame s t
  frame : OnlyChanges [.watch, .permits, .recorder, .ports] s t

/-- A frame was taken and turned away by a check of the port unit: one answer frame with the code, the flag of the check set
on the port, and nothing else touched (R194, R200). -/
structure TurnedAway (k : Byte) (p : Port) (c : Code) (f : PortFlags → PortFlags) (s t : State) : Prop where
  taken : Taken p [.single k c .none] s t
  flags : (t.ports.get p).flags = { f (s.ports.get p).flags with noticeDropped := (t.ports.get p).flags.noticeDropped }
  told : Told (fun q =>
    if q = p then { tookRequest p [.single k c .none] s p with flags := f (s.ports.get p).flags }
    else s.ports.get q) [] s t
  items : Dirties [] s t
  lines : PermitsExact t
  watches : WatchFlagsSame s t
  frame : OnlyChanges [.watch, .permits, .recorder, .ports] s t

/-- What an event that is no request does beside its own effect. -/
structure Occurred (items : List Item) (ns : List Notice) (parts : List Part) (s t : State) : Prop where
  ports : ∀ q, PortKeeps (s.ports.get q) (t.ports.get q) ∧ FlagsKept (s.ports.get q) (t.ports.get q)
  told : Told (fun q => s.ports.get q) ns s t
  items : Dirties items s t
  lines : PermitsExact t
  frame : OnlyChanges (parts ++ [.watch, .permits, .recorder, .ports]) s t

end Sys2Proof.Machine
end

