-- ==== Sys2Proof/Certificates/Slice0/Obligations.lean ====
section
/-! DEFINITION. The statements about the part. -/

open Sys2Proof Sys2Proof.Machine

/-! ## The step -/

/-- One step is the meaning of the command at the front of the queue, on the state with the rest of the queue; on an
empty queue the block idles (the model's choice, log 24). -/
def Obligations.StepRunsFrontCommand : Prop :=
  (∀ (c : Instr) (s : State), step { s with pending := c :: s.pending } = exec c s) ∧
    ∀ s : State, s.pending = [] → step s = .next s

/-! ## What every step keeps -/

/-- From every state whose permit lines stand as their conditions give, every step leads to such a state: no line is
asserted while its work is idle, its section at STOP_ALL, a watch drop or limit latch set on it, its sensors faulted, its
port bus-off or POWER_WARNING present (R176, R177). -/
def Obligations.PermitLinesStayExact : Prop := ∀ s t : State, PermitsExact s → step s = .next t → PermitsExact t

/-- No step brings more than four requests into an inbound queue, more than eight notices into a notice queue, or a
second notice of a kind and key already queued (R192, R193, R198). -/
def Obligations.PortQueuesStayBounded : Prop :=
  ∀ s t : State, QueuesBounded s → NoticeKeysDistinct s → step s = .next t → QueuesBounded t ∧ NoticeKeysDistinct t

/-- The works clock, once set, never decreases and stays in its range, in every step that is not a reset (R63). -/
def Obligations.WorksClockNeverDecreases : Prop :=
  ∀ (c : Instr) (s t : State), ¬ IsReset c → ClockInRange s → exec c s = .next t →
    ClockInRange t ∧ ∀ now, s.clock.time = some now → ∃ later, t.clock.time = some later ∧ now ≤ later

/-- Every step keeps the channels sound: as many of the samples taken since a history was
emptied as it has room for, at most eight, all within the channel maximum, NOT_READY exactly while
fewer than eight, the value 0 meanwhile and never above the maximum (R51, R52). -/
def Obligations.ChannelsStaySound : Prop := ∀ s t : State, ChannelsSound s → step s = .next t → ChannelsSound t

/-- State.reset, which is the part after a POWER_ON reset that found a blank store and formatted it (the model's choice of
store, log 1), meets every property that a step keeps: each line is deasserted, as its conditions give, with
IDLE among its down causes (R179); each port is OFF_BUS with empty queues, no request in hand, every flag clear and taking
Yes (R192); the measurement unit is as the table of R67 gives (histories empty, no sample taken, values and EXTENSION 0,
NOT_READY on all
seven channels, no other fault, lengths, volumes and rates 0, the clock UNSET, no POWER_WARNING), the clock mark being 0
because the store was blank; the tables have their sizes and agree, the reading pool is sound and no session is open. -/
def Obligations.ResetMeetsTheInvariants : Prop :=
  PermitsExact State.reset ∧ (∀ l : PLine, State.reset.permits.get l = false ∧ .idle ∈ lineCauses State.reset l) ∧
    QueuesBounded State.reset ∧ NoticeKeysDistinct State.reset ∧ ClockInRange State.reset ∧ TablesSized State.reset ∧
    TablesAgree State.reset ∧ StoreAgrees State.reset ∧ PoolSound State.reset ∧ ImagesSound State.reset ∧
    SessionOnPath State.reset ∧ State.reset.session = none ∧
    PaidOutInRange State.reset ∧ FlowInRange State.reset ∧ ChannelsSound State.reset ∧
    (∀ p : Port, (State.reset.ports.get p).link = .offBus ∧ (State.reset.ports.get p).inbound = [] ∧
      (State.reset.ports.get p).notices = [] ∧ (State.reset.ports.get p).slot = [] ∧
      (State.reset.ports.get p).inHand = none ∧ (State.reset.ports.get p).flags = PortFlags.clear ∧
      (State.reset.ports.get p).taking = true) ∧
    (∀ c : Channel, (channelGet State.reset.meas.chans c).history = [] ∧
      (channelGet State.reset.meas.chans c).taken = 0 ∧ channelValue State.reset.meas c = 0 ∧
      faultPresent State.reset.meas (.notReady c) = true ∧
      (channelGet State.reset.meas.chans c).overRange = { present := false, absent := 0 }) ∧
    State.reset.meas.extension = 0 ∧ State.reset.meas.extDisagree = { present := false, absent := 0 } ∧
    State.reset.meas.loadDisagree = { present := false, absent := 0 } ∧ State.reset.meas.paidOut = 0 ∧
    (∀ l : GLine, (State.reset.meas.lines.get l).gated = 0 ∧ (State.reset.meas.lines.get l).bin = 0 ∧
      (State.reset.meas.lines.get l).bins = List.replicate 10 0 ∧ (State.reset.meas.lines.get l).rate = 0) ∧
    State.reset.clock.time = none ∧ State.reset.clock.mark = 0 ∧ State.reset.supply.warning = false

/-- Every step keeps the paid-out length within 0..80000 mm and the gated volumes and flow rates within 0..65535 (R60,
R61, R62). -/
def Obligations.PulseCountsStayInRange : Prop :=
  ∀ s t : State, PaidOutInRange s → FlowInRange s → step s = .next t → PaidOutInRange t ∧ FlowInRange t

/-! ## The ports -/

/-- Every taken frame is checked by its port first: a kind code that is no request kind is answered UNKNOWN_REQUEST, a kind
the port may not make WRONG_ROLE, and a payload of another length than its kind's MALFORMED, each setting the port flag of
its name and changing nothing else (R194). -/
def Obligations.PortChecksRefuseRequests : Prop :=
  (∀ (p : Port) (kind : Byte) (pl : List Byte) (s : State), canTake s p kind pl = true → isRequestCode kind = false →
    ∃ t, exec (.unknownRequestTaken p kind pl) s = .next t ∧
      TurnedAway kind p .unknownRequest (fun f => { f with unknownRequest := true }) s t) ∧
  ∀ (k : ReqKind) (p : Port) (pl : List Byte) (s : State), canTake s p k.code pl = true →
    (k.allowed p = false → ∃ t, exec (requestOf k p pl) s = .next t ∧
      TurnedAway k.code p .wrongRole (fun f => { f with wrongRole := true }) s t) ∧
    (k.allowed p = true → pl.length ≠ k.length →
      ∃ t, exec (requestOf k p pl) s = .next t ∧
        TurnedAway k.code p .malformed (fun f => { f with malformed := true }) s t)

/-- A frame that its port does not take next (another frame is older, a request is in hand, the port is off the bus or
drains) changes nothing: the model's choice for a command whose condition does not stand (log 5). -/
def Obligations.UntakenFrameChangesNothing : Prop :=
  (∀ (k : ReqKind) (p : Port) (pl : List Byte) (s : State), canTake s p k.code pl = false →
    exec (requestOf k p pl) s = .next s) ∧
    ∀ (p : Port) (kind : Byte) (pl : List Byte) (s : State), canTake s p kind pl = false →
      exec (.unknownRequestTaken p kind pl) s = .next s

/-- Identify may be made by every port, without fields, and is answered DONE with two continuation frames, whatever the
state and the configuration are: frame 0 carries the vendor, part and revision codes, frame 1 the capacities. An
answer frame carries the value of its answer code as the table of R196 gives it, the frame before continuation frames that
of DONE, a continuation frame none (R196, R205). -/
def Obligations.IdentifyAnswersFixedContent : Prop :=
  let table : List (Code × Byte) :=
      [(.done, 0), (.malformed, 1), (.unknownRequest, 2), (.wrongRole, 3), (.noSuchAnchor, 4), (.alreadyDefined, 5),
       (.registerFull, 6), (.wrongStage, 7), (.anchorActive, 8), (.geometryUnset, 9), (.badValue, 10), (.rigBusy, 11),
       (.lineBusy, 12), (.sessionBusy, 13), (.noSession, 14), (.clockUnset, 15), (.clockBackward, 16), (.zoneClosed, 17),
       (.sectionHeld, 18), (.deflectionStale, 19), (.stagger, 20), (.windowClosed, 21), (.passesFull, 22),
       (.scheduleInvalid, 23), (.scheduleInUse, 24), (.poolExhausted, 25), (.sensorFault, 26), (.holdRunning, 27),
       (.wrongPhase, 28), (.paused, 29), (.targetNotReached, 30), (.configLocked, 31), (.channelInUse, 32),
       (.activeWork, 33)]
  (∀ c, ∃ v, (c, v) ∈ table) ∧
    (∀ c v, (c, v) ∈ table → ∀ kind d, (AnswerFrame.single kind c d).codeValue = some v) ∧
    (∀ kind n, (AnswerFrame.first kind n).codeValue = some 0) ∧
    (∀ kind last i content, (AnswerFrame.cont kind last i content).codeValue = none) ∧
    (∀ p : Port, ReqKind.identify.allowed p = true) ∧ ReqKind.identify.length = 0 ∧
    ∀ (p : Port) (pl : List Byte) (s : State), Asked .identify p pl s →
      ∃ t, exec (.identify p pl) s = .next t ∧ ReadOut .identify p (.identify 0x5A4E 0x0420 2 512 64 8192 4) 2 [] s t ∧
        Answers (s.ports.get p) (t.ports.get p)
          [.first ReqKind.identify.code 2, .cont ReqKind.identify.code false 0 (.maker 0x5A4E 0x0420 2),
           .cont ReqKind.identify.code true 1 (.capacities 512 64 8192 4)]

/-- An accepted read is answered with its content as the state stands at the taking, over a number of continuation frames
within 1..32767 that the manual leaves open; a Read Session without a session has none. The content is spelled out field by
field, in the order of its rule: a record with its readings by position, a torn entry and a lost place without values; a
section; the open session with its stack bottom first; the eight parts of Read Status, or the one asked for. A read changes
nothing but the ports and the counter of free values. Read Anchor without a record is refused NO_SUCH_ANCHOR, Read Section
outside 1..64 and Read Status above 8 BAD_VALUE, with nothing changed (R28, R32, R68, R81, R101, R114, R143, R162, R179,
R183, R196, R204). The hold times in whole seconds are log 21; a chain whose flags fit no row or two rows of R167 is read by
log 39. -/
def Obligations.ReadsAnswerStateAsItStands : Prop :=
  ∀ (p : Port) (pl : List Byte) (s : State),
    (∀ r, Asked .readAnchor p pl s → findAnchor s (anchorField pl) = some r →
      let view : AnchorView :=
        { id := r.id, stage := r.stage, reason := r.reason, design := r.design, geometry := r.geometry,
          cureDue := r.cureDue, reserved := r.reserved, tendon := r.tendon, passes := r.passes
          result := r.result.map fun x =>
            { verdict := x.verdict, lapp := x.lapp, creep := x.creep, plock := x.plock, plift := x.plift, loss := x.loss,
              stamp := x.stamp }
          readings := ((r.result.map (·.readings)).getD []).zipIdx.map fun x =>
            { position := x.2 + 1
              body := match x.1 with | .entry i => (tableGet s.pool.used i).bind (·.body) | .lost => none } }
      ∃ t n, exec (.readAnchor p pl) s = .next t ∧ 1 ≤ n ∧ n ≤ 32767 ∧
        ReadOut .readAnchor p (.anchor view) n [.freeIdx] s t) ∧
    (Asked .readSection p pl s → 1 ≤ fieldNat pl 0 1 → fieldNat pl 0 1 ≤ 64 →
      let r := sectionRec s (fieldNat pl 0 1)
      let view : SectionView :=
        { number := fieldNat pl 0 1, inUse := decide (fieldNat pl 0 1 ≤ s.config.params.sectionCount)
          pressLimit := r.data.pressLimit, refusalPress := r.data.refusalPress, deflLimit := r.data.deflLimit
          lastDeflection := r.data.lastDeflection, age := r.age
          stale := decide (s.config.params.stalePeriod ≠ 0) && r.stale
          counts := r.data.counts, effective := effectiveLevel s (fieldNat pl 0 1), holds := r.data.holds }
      ∃ t n, exec (.readSection p pl) s = .next t ∧ 1 ≤ n ∧ n ≤ 32767 ∧
        ReadOut .readSection p (.sect view) n [.freeIdx] s t) ∧
    (∀ x, Asked .readSession p pl s → s.session = some x →
      let here := stepAt s.schedule x.step
      let target := match here with
        | .datum f _ | .loadTo f _ | .unloadTo f _ => some (testLoad s x.anchor * f / 1000)
        | .hold _ _ _ _ => x.stages.head?.map (·.target)
        | .lockOff _ => some (lockLoad s x.anchor)
        | .liftOff _ | .endStep => none
      let permille := match here with
        | .hold _ _ _ _ => x.captured.holdBand
        | .datum _ _ | .loadTo _ _ | .unloadTo _ _ | .lockOff _ | .liftOff _ | .endStep => x.captured.reachBand
      let result := (findAnchor s x.anchor).bind (·.result)
      let view : SessionView :=
        { anchor := x.anchor, cls := x.cls, head := x.head
          info :=
            { step := x.step, kind := here.kind, target := target
              band := target.map fun u => max (u * permille / 1000) 10
              phase := match x.phase with
                | .opened => .opened | .approach => .approach | .holding _ => .holding | .releaseWait => .releaseWait
                | .liftoff _ => .liftoff }
          paused := !s.permits.jack, relocks := x.relocks, reservation := x.reservation, area := x.area
          captured := x.captured
          datum := x.datum.map fun d => { target := d.target, load0 := d.load0, ext0 := d.ext0 }
          frames := x.stages.reverse.map fun g =>
            { target := g.target, cycle := g.cycle, critical := g.critical, creepExtended := g.creepExtended,
              holdDone := g.holdDone, rehold := g.rehold, holdReadings := g.holdReadings.length, ks := g.ks, ks2 := g.ks2 }
          hold := match x.phase with
            | .holding h => some
              { begun := h.begun, elapsed := h.elapsed / 100, offBand := h.offBand / 100, pause := h.pause / 100,
                nextPoint := h.nextPoint }
            | .opened | .approach | .releaseWait | .liftoff _ => none
          lift := match x.phase with
            | .liftoff l => some l
            | .opened | .approach | .releaseWait | .holding _ => none
          plock := result.bind (·.plock), plift := result.bind (·.plift) }
      ∃ t n, exec (.readSession p pl) s = .next t ∧ 1 ≤ n ∧ n ≤ 32767 ∧
        ReadOut .readSession p (.session view) n [.freeIdx] s t) ∧
    (Asked .readSession p pl s → s.session = none →
      ∃ t, exec (.readSession p pl) s = .next t ∧ ∀ content, ReadOut .readSession p content 0 [] s t) ∧
    (Asked .readStatus p pl s → fieldNat pl 0 1 ≤ 8 →
      let line (x : LineMeas) : LineView := { valve := x.valve, gated := x.gated, rate := x.rate }
      let measurement : StatusPart :=
        .measurement (channelTabulate fun c => (channelGet s.meas.chans c).value) s.meas.extension
          (allFaults.filter (faultPresent s.meas)) s.meas.paidOut
          { a := line s.meas.lines.a, b := line s.meas.lines.b }
          s.clock.time s.clock.mark s.supply.warning
      let run (c : TendonCtx) : RunView :=
        { anchor := c.anchor, start := c.start, designLength := c.designLength, tolerance := c.tolerance,
          tensionLimit := c.tensionLimit, releaseLevel := c.releaseLevel, peak := c.peak, latch := c.latch,
          limitEvents := c.limitEvents }
      let pass (c : LineCtx) : PassView :=
        { anchor := c.anchor, kind := c.kind, position := c.position
          start := ((findAnchor s c.anchor).bind fun r => r.passes[c.position - 1]?).map (·.start)
          pressLimit := c.pressLimit, releaseLevel := c.releaseLevel, refusalPress := c.refusalPress, peak := c.peak,
          latch := c.latch, limitEvents := c.limitEvents, refusalCount := c.refusalCount,
          refusalReached := c.refusalReached }
      let head (c : TestClass) : HeadInfo :=
        { head := s.schedule.heads.get c
          result := match s.results.get c with | .valid _ _ => .valid | .invalid f i => .invalid f i
          walkCount := match s.results.get c with | .valid _ n => some n | .invalid _ _ => none
          pathSteps := match s.results.get c with | .valid path _ => some path.length | .invalid _ _ => none
          walked := decide ((s.session.map (·.cls)) = some c) }
      let worst (c : TestClass) : Option Nat :=
        match s.results.get c with
        | .valid _ n => some (n + 3 * s.config.params.relockMax)
        | .invalid _ _ => none
      let chain := chainMembers s.config.params.chainMode
      let condition : ChainCondition :=
        if chain = [] then .none
        else if chainComplete s then .complete
        else if (chain.head?.map fun w => (s.watch.get w).armed) = some true then .waiting
        else if chain.any fun w => (s.watch.get w).tripped then .advanced
        else .waiting
      let channel (w : WatchId) : WatchView :=
        let x := s.watch.get w
        { config := s.config.watch.get w, enabled := x.enabled, armed := x.armed, tripped := x.tripped,
          swapPending := x.staged.isSome, staged := x.staged, count := x.count, window := x.window,
          evaluating := evaluating s w, latch := x.latch }
      let writer : WriterName × Option WrittenItem := match s.recorder.writer with
        | .idle => (.idle, none)
        | .writing j _ => (.writing, some (.item j.item))
        | .marking => (.writing, some .warningMark)
        | .held => (.held, none)
      let port (q : Port) : PortView :=
        { link := (s.ports.get q).link, flags := (s.ports.get q).flags
          inbound := (s.ports.get q).inbound.length - (if q = p then 1 else 0)
          notices := (s.ports.get q).notices.length }
      let parts : List StatusPart :=
        [measurement, .rig (s.rig.map run) s.permits.rig,
         .grout (s.grout.a.map pass) (s.grout.b.map pass) s.permits.groutA s.permits.groutB,
         .schedule (PerClass.tabulate head),
         .pool (8192 - (s.pool.reserved.length + s.pool.used.length)) s.pool.reserved.length s.pool.used.length
           (PerClass.tabulate worst),
         .watch s.config.params.chainMode condition (s.watch.map fun w _ => channel w)
           (PerPermit.tabulate fun l => { asserted := s.permits.get l, causes := lineCauses s l }),
         .store writer.1 writer.2 s.recorder.list.length s.recorder.cause,
         .ports (s.ports.map fun q _ => port q) s.config.zones s.config.params.sectionCount]
      ∃ t n, exec (.readStatus p pl) s = .next t ∧ 1 ≤ n ∧ n ≤ 32767 ∧
        ReadOut .readStatus p
          (.status (if fieldNat pl 0 1 = 0 then parts else (parts[fieldNat pl 0 1 - 1]?).toList)) n [.freeIdx] s t) ∧
    (Asked .readAnchor p pl s → findAnchor s (anchorField pl) = none →
      ∃ t, exec (.readAnchor p pl) s = .next t ∧ Refused ReqKind.readAnchor.code p .noSuchAnchor s t) ∧
    (Asked .readSection p pl s → (fieldNat pl 0 1 = 0 ∨ 64 < fieldNat pl 0 1) →
      ∃ t, exec (.readSection p pl) s = .next t ∧ Refused ReqKind.readSection.code p .badValue s t) ∧
    (Asked .readStatus p pl s → 8 < fieldNat pl 0 1 →
      ∃ t, exec (.readStatus p pl) s = .next t ∧ Refused ReqKind.readStatus.code p .badValue s t)

/-- From a state whose permit lines are exact, so that no notice is raised in the event, Clear Port Flags clears all seven
flags of the port it names (0: its own) and answers with them as they stood; nothing else changes but that free ports begin
a frame. A number above 4 is refused BAD_VALUE, and P1, P2 and P3 naming another port WRONG_ROLE, which sets their WRONG_ROLE
flag (R201). In an event that drops a notice the model leaves NOTICE_DROPPED set (log 31); the premise leaves that event
out. -/
def Obligations.ClearPortFlagsClearsOnePort : Prop :=
  ∀ (p : Port) (pl : List Byte) (s : State), Asked .clearPortFlags p pl s → PermitsExact s →
    (∀ q, namedPort p pl = some q → (p = .p4 ∨ q = p) →
      ∃ t, exec (.clearPortFlags p pl) s = .next t ∧
        Answers (s.ports.get p) (t.ports.get p)
          [.single ReqKind.clearPortFlags.code .done (.flags (s.ports.get q).flags)] ∧
        (t.ports.get q).flags = PortFlags.clear ∧ (∀ r, r ≠ q → (t.ports.get r).flags = (s.ports.get r).flags) ∧
        (t.ports.get p).inHand = (s.ports.get p).inbound.head? ∧
        (t.ports.get p).inbound = (s.ports.get p).inbound.drop 1 ∧
        (t.ports.get p).notices = (s.ports.get p).notices ∧
        (t.ports.get p).link = (s.ports.get p).link ∧ (t.ports.get p).taking = (s.ports.get p).taking ∧
        (∀ r, r ≠ p → PortKeeps (s.ports.get r) (t.ports.get r)) ∧
        (∀ r, r ≠ p → r ≠ q → t.ports.get r = pump (s.ports.get r)) ∧ t.permits = s.permits ∧
        Dirties [] s t ∧ PermitsExact t ∧ WatchFlagsSame s t ∧
        OnlyChanges [.watch, .permits, .recorder, .ports] s t) ∧
    (4 < fieldNat pl 0 1 →
      ∃ t, exec (.clearPortFlags p pl) s = .next t ∧ Refused ReqKind.clearPortFlags.code p .badValue s t) ∧
    (∀ q, namedPort p pl = some q → p ≠ .p4 → q ≠ p →
      ∃ t, exec (.clearPortFlags p pl) s = .next t ∧
        TurnedAway ReqKind.clearPortFlags.code p .wrongRole (fun f => { f with wrongRole := true }) s t)

/-- A frame received on a port ON_BUS is sorted by its class: a request joins the tail of a queue with room, or is dropped
with OVERRUN; class 2, 3 or 4 is dropped with UNSOLICITED; an undefined class, a 29-bit identifier or a remote frame is
dropped with MALFORMED. Nothing is answered and nothing else changes; a port off the bus receives nothing (R193, R192). -/
def Obligations.ReceivedFramesAreSorted : Prop :=
  ∀ (p : Port) (f : RxFrame) (s : State),
    ((s.ports.get p).link = .onBus →
      (f.extended = false → f.remote = false → f.cls = 1 → (s.ports.get p).inbound.length < 4 →
        exec (.frameReceived p f) s =
          .next { s with ports := s.ports.set p { s.ports.get p with
            inbound := (s.ports.get p).inbound ++ [{ kind := f.kind, payload := f.payload }] } }) ∧
      (f.extended = false → f.remote = false → f.cls = 1 → 4 ≤ (s.ports.get p).inbound.length →
        exec (.frameReceived p f) s =
          .next { s with ports := s.ports.set p { s.ports.get p with
            flags := { (s.ports.get p).flags with overrun := true } } }) ∧
      (f.extended = false → f.remote = false → (f.cls = 2 ∨ f.cls = 3 ∨ f.cls = 4) →
        exec (.frameReceived p f) s =
          .next { s with ports := s.ports.set p { s.ports.get p with
            flags := { (s.ports.get p).flags with unsolicited := true } } }) ∧
      ((f.extended = true ∨ f.remote = true ∨ f.cls = 0 ∨ f.cls = 5 ∨ f.cls = 6 ∨ f.cls = 7) →
        exec (.frameReceived p f) s =
          .next { s with ports := s.ports.set p { s.ports.get p with
            flags := { (s.ports.get p).flags with malformed := true } } })) ∧
    ((s.ports.get p).link ≠ .onBus → exec (.frameReceived p f) s = .next s)

/-- A frame's sending completes: the next frame of the answer slot begins if it holds one, otherwise the oldest notice
leaves the queue and begins; with the last frame of an answer the request in hand is no longer in hand. Nothing else
changes (R195, R197). That the next frame begins in this very event is the model's choice: R197 says which frame is next, the
bus when (log 14). -/
def Obligations.SentFrameMakesRoom : Prop :=
  ∀ (p : Port) (s : State) (x : Sending), (s.ports.get p).link = .onBus → (s.ports.get p).sending = some x →
    let q := s.ports.get p
    let hand := match x with
      | .answer _ => if q.slot = [] then none else q.inHand
      | .notice _ => q.inHand
    (∀ f rest, q.slot = f :: rest → exec (.frameSent p) s =
      .next { s with ports := s.ports.set p { q with sending := some (.answer f), slot := rest, inHand := hand } }) ∧
    (∀ n rest, q.slot = [] → q.notices = n :: rest → exec (.frameSent p) s =
      .next { s with ports := s.ports.set p { q with sending := some (.notice n), notices := rest, inHand := hand } }) ∧
    (q.slot = [] → q.notices = [] → exec (.frameSent p) s =
      .next { s with ports := s.ports.set p { q with sending := none, inHand := hand } })

/-- Entering bus-off empties the port, sets LINK_LOST and deasserts the port's lines; completing recovery puts it back on
the bus with LINK_LOST still set and its lines evaluated. No other part is touched (R203). -/
def Obligations.BusOffEmptiesPort : Prop :=
  ∀ (p : Port) (s : State),
    ((s.ports.get p).link = .onBus →
      ∃ t, exec (.busOffEntered p) s = .next t ∧
        t.ports.get p = { s.ports.get p with
          link := .busOff, inbound := [], inHand := none, slot := [], notices := [], sending := none,
          flags := { (s.ports.get p).flags with linkLost := true } } ∧
        (∀ l, linePort l = p → t.permits.get l = false) ∧
        Told (fun q => if q = p then t.ports.get p else s.ports.get q) [] s t ∧
        (∀ r, r ≠ p → PortKeeps (s.ports.get r) (t.ports.get r) ∧ FlagsKept (s.ports.get r) (t.ports.get r)) ∧
        Dirties [] s t ∧ PermitsExact t ∧ WatchFlagsSame s t ∧
        OnlyChanges [.watch, .permits, .recorder, .ports] s t) ∧
    ((s.ports.get p).link = .busOff →
      ∃ t, exec (.busOffRecovered p) s = .next t ∧ (t.ports.get p).link = .onBus ∧
        (t.ports.get p).inbound = (s.ports.get p).inbound ∧ (t.ports.get p).inHand = (s.ports.get p).inHand ∧
        (t.ports.get p).taking = (s.ports.get p).taking ∧ FlagsKept (s.ports.get p) (t.ports.get p) ∧
        Told (fun q => if q = p then { s.ports.get p with link := .onBus } else s.ports.get q) [] s t ∧
        (∀ r, r ≠ p → PortKeeps (s.ports.get r) (t.ports.get r) ∧ FlagsKept (s.ports.get r) (t.ports.get r)) ∧
        Dirties [] s t ∧ PermitsExact t ∧ WatchFlagsSame s t ∧
        OnlyChanges [.watch, .permits, .recorder, .ports] s t)

/-- A notice raised for a port ON_BUS joins the tail of its queue: in the place of one of its kind and key, which a
STAGE_CHANGED takes the previous stage of; otherwise, from a full queue, after the oldest is discarded with NOTICE_DROPPED
set. A notice that replaces another is sent as raised, but for that previous stage. A notice for a port off the bus is lost
and no flag records it. The notices of one event stand in the order of their kind codes and keys, those of one key in the
order in which they were raised, and reach a queue in that order. Every notice goes to P4; a HOLD_CHANGED to all four ports, a PERMIT_CHANGED also to the port of
its line, a STAGE_CHANGED also to the ports whose work the new stage concerns, a SENSOR_FAULT also to the port whose work
depends on its subject, the session's notices also to P3, a LIMIT_EXCEEDED and a REFUSAL_REACHED also to the port of the rig
or of the lines, a WATCH_TRIPPED to P4 alone (R10, R55, R198, R199; the key of a SENSOR_FAULT is the model's choice,
log 19). -/
def Obligations.NoticesJoinTheTail : Prop :=
  ∀ (q : PortState) (n : Notice),
    (q.link = .onBus → (q.notices.map Notice.key).Nodup →
      (∀ pre old post, q.notices = pre ++ old :: post → old.key = n.key →
        offerNotice q n = { q with notices := pre ++ post ++ [n.replacing old] }) ∧
      (n.key ∉ q.notices.map Notice.key → q.notices.length < 8 →
        offerNotice q n = { q with notices := q.notices ++ [n] }) ∧
      (n.key ∉ q.notices.map Notice.key → 8 ≤ q.notices.length →
        offerNotice q n =
          { q with notices := q.notices.drop 1 ++ [n], flags := { q.flags with noticeDropped := true } })) ∧
    (q.link ≠ .onBus → offerNotice q n = q) ∧
    (∀ a b first st last, (Notice.stageChanged a b last).replacing (.stageChanged a first st) =
      .stageChanged a first last) ∧
    (∀ old, (∀ a previous new, n ≠ .stageChanged a previous new) → n.replacing old = n) ∧
    (∀ ns : List Notice, (sortNotices ns).Perm ns ∧
      ((sortNotices ns).map Notice.key).Pairwise (fun a b => keyLe a b = true) ∧
      ∀ k, ((sortNotices ns).filter fun m => m.key = k) = ns.filter fun m => m.key = k) ∧
    (∀ (p : Port) (m : Notice) (ns : List Notice),
      offerAll p (m :: ns) q = offerAll p ns (if m.goesTo p then offerNotice q m else q)) ∧
    n.goesTo .p4 = true ∧ (∀ p m src lv eff, (Notice.holdChanged m src lv eff).goesTo p = true) ∧
    (∀ p l up causes, (Notice.permitChanged l up causes).goesTo p = true ↔ p = linePort l ∨ p = .p4) ∧
    (∀ p a old new, (Notice.stageChanged a old new).goesTo p = true ↔ p = .p4 ∨
      (p = .p1 ∧ new ∈ ([.planned, .tendonRunning, .tendonRejected, .tendonPlaced, .abandoned] : List Stage)) ∨
      (p = .p2 ∧ new ∈
        ([.tendonPlaced, .grouting, .groutShort, .groutInterrupted, .curing, .abandoned] : List Stage)) ∨
      (p = .p3 ∧ new ∈
        ([.stressable, .stressing, .stressInterrupted, .failed, .lockedOff, .abandoned] : List Stage))) ∧
    (∀ p f up, (Notice.sensorFault f up).goesTo p = true ↔ p = .p4 ∨
      p = (match f with
        | .notReady .groutPressA | .overRange .groutPressA | .notReady .groutPressB | .overRange .groutPressB => .p2
        | .notReady .winchTension | .overRange .winchTension => .p1
        | _ => .p3)) ∧
    (∀ m : Notice, ((∃ a i, m = .nextStep a i) ∨ (∃ a u i n v e, m = .holdReading a u i n v e) ∨
        (∃ a u i k k2 n, m = .holdComplete a u i k k2 n) ∨ (∃ a u c n, m = .holdVoid a u c n) ∨
        (∃ a v u n, m = .liftoffCaptured a v u n) ∨ (∃ a how, m = .sessionEnded a how)) →
      ∀ p, m.goesTo p = true ↔ p = .p3 ∨ p = .p4) ∧
    (∀ p u a v lim e, (Notice.limitExceeded u a v lim e).goesTo p = true ↔
      p = (if u = .rig then .p1 else .p2) ∨ p = .p4) ∧
    (∀ p l a v r g, (Notice.refusalReached l a v r g).goesTo p = true ↔ p = .p2 ∨ p = .p4) ∧
    ∀ p w act src v sec lv d, (Notice.watchTripped w act src v sec lv d).goesTo p = true ↔ p = .p4

/-! ## The anchor table -/

/-- The section table keeps 64 records of 8 counts, the zone permit set 16 zones and the schedule table 64 steps, in the
part, in its store and in a write in progress; the section count stays in 2..64, every anchor identity in its ranges, and
each head's result is that of its validation (R1, R29, R30, R40, R103, R105). Every step keeps the tables in agreement:
anchors in identity order, the cure list ordered and holding the CURING anchors alone, each once, at most one hold
record per source, every locked-off count the number of LOCKED_OFF anchors of its section and tier (R2, R23, R34, R42).
Every step keeps the reading pool sound: RESERVED, USED and FREE entries sum to 8192, none in two states, as many
RESERVED as the open session has left and none without a session, every reading list within the pool (R115, R117, R158,
R160). And every step keeps the open session on the path of its head, so that its load-stage stack holds at most 8
frames with targets strictly rising from the datum frame, in at most 7 cycles (R108, R111, R113, R122). -/
def Obligations.TablesKeepTheirSizes : Prop :=
  (∀ s t : State, TablesSized s → step s = .next t → TablesSized t) ∧
    (∀ s t : State, TablesSized s → TablesAgree s → StoreAgrees s → step s = .next t → TablesAgree t ∧ StoreAgrees t) ∧
    (∀ s t : State, TablesSized s → TablesAgree s → StoreAgrees s → PoolSound s → ImagesSound s → step s = .next t →
      PoolSound t ∧ ImagesSound t ∧
        t.pool.freeCount + t.pool.reservedCount + t.pool.usedCount = Config.poolSize) ∧
    ∀ s t : State, TablesSized s → TablesAgree s → StoreAgrees s → PoolSound s → ImagesSound s → SessionOnPath s →
      step s = .next t → SessionOnPath t ∧ ∀ x, t.session = some x → LoadStagesSound x

/-- Define Anchor: valid design data for an identity without a record create a PLANNED record in the lowest free image
slot, with the image and the slot directory on the write list and STAGE_CHANGED without a previous stage; on a SUSPECT
record the design data alone are replaced. Bad
data, a held identity and a full table are refused in that order (R3, R4, R5, R181). -/
def Obligations.DefineAnchorPlansRecord : Prop :=
  ∀ (p : Port) (pl : List Byte) (s : State), Asked .defineAnchor p pl s →
    (∀ d, designOfPayload s pl = some d → findAnchor s (anchorField pl) = none → s.anchors.length < 512 →
      ∃ t slot, exec (.defineAnchor p pl) s = .next t ∧
        Accepted .defineAnchor p .none [.image slot, .directory] [.stageChanged (anchorField pl) none .planned] [.anchors]
          s t ∧
        slot < 512 ∧ (∀ r ∈ s.anchors, r.imageSlot ≠ slot) ∧
        (∀ n, n < slot → ∃ r ∈ s.anchors, r.imageSlot = n) ∧
        findAnchor t (anchorField pl) = some
          { id := anchorField pl, imageSlot := slot, design := some d, geometry := none, stage := .planned,
            tendon := none, passes := [], cureDue := none, result := none, reserved := 0, reason := 0,
            testNumber := 0 } ∧
        OtherAnchorsSame (anchorField pl) s t ∧ t.anchors.length = s.anchors.length + 1 ∧ WatchFlagsSame s t) ∧
    (∀ d r, designOfPayload s pl = some d → findAnchor s (anchorField pl) = some r → r.stage = .suspect →
      ∃ t, exec (.defineAnchor p pl) s = .next t ∧
        Accepted .defineAnchor p .none [.image r.imageSlot] [] [.anchors] s t ∧
        findAnchor t (anchorField pl) = some { r with design := some d } ∧
        OtherAnchorsSame (anchorField pl) s t ∧ WatchFlagsSame s t) ∧
    (designOfPayload s pl = none →
      ∃ t, exec (.defineAnchor p pl) s = .next t ∧ Refused ReqKind.defineAnchor.code p .badValue s t) ∧
    (∀ d r, designOfPayload s pl = some d → findAnchor s (anchorField pl) = some r → r.stage ≠ .suspect →
      ∃ t, exec (.defineAnchor p pl) s = .next t ∧ Refused ReqKind.defineAnchor.code p .alreadyDefined s t) ∧
    (∀ d, designOfPayload s pl = some d → findAnchor s (anchorField pl) = none → 512 ≤ s.anchors.length →
      ∃ t, exec (.defineAnchor p pl) s = .next t ∧ Refused ReqKind.defineAnchor.code p .registerFull s t)

/-- Set Anchor Geometry stores valid geometry on a PLANNED or SUSPECT record and dirties its image; an identity without a
record is refused NO_SUCH_ANCHOR, another stage WRONG_STAGE, and then a bad value BAD_VALUE (R6; payload places log 9). -/
def Obligations.SetAnchorGeometryStores : Prop :=
  ∀ (p : Port) (pl : List Byte) (s : State), Asked .setAnchorGeometry p pl s →
    (findAnchor s (anchorField pl) = none →
      ∃ t, exec (.setAnchorGeometry p pl) s = .next t ∧ Refused ReqKind.setAnchorGeometry.code p .noSuchAnchor s t) ∧
    ∀ r, findAnchor s (anchorField pl) = some r →
      (∀ g, (r.stage = .planned ∨ r.stage = .suspect) → geometryOfPayload pl = some g →
        ∃ t, exec (.setAnchorGeometry p pl) s = .next t ∧
          Accepted .setAnchorGeometry p .none [.image r.imageSlot] [] [.anchors] s t ∧
          findAnchor t r.id = some { r with geometry := some g } ∧ OtherAnchorsSame r.id s t ∧ WatchFlagsSame s t) ∧
      (r.stage ≠ .planned → r.stage ≠ .suspect →
        ∃ t, exec (.setAnchorGeometry p pl) s = .next t ∧ Refused ReqKind.setAnchorGeometry.code p .wrongStage s t) ∧
      ((r.stage = .planned ∨ r.stage = .suspect) → geometryOfPayload pl = none →
        ∃ t, exec (.setAnchorGeometry p pl) s = .next t ∧ Refused ReqKind.setAnchorGeometry.code p .badValue s t)

/-- Delete Anchor removes a PLANNED or ABANDONED record and dirties the slot directory alone; an identity without a record
is refused NO_SUCH_ANCHOR and another stage WRONG_STAGE (R7). -/
def Obligations.DeleteAnchorRemovesRecord : Prop :=
  ∀ (p : Port) (pl : List Byte) (s : State), Asked .deleteAnchor p pl s →
    (findAnchor s (anchorField pl) = none →
      ∃ t, exec (.deleteAnchor p pl) s = .next t ∧ Refused ReqKind.deleteAnchor.code p .noSuchAnchor s t) ∧
    ∀ r, findAnchor s (anchorField pl) = some r →
      ((r.stage = .planned ∨ r.stage = .abandoned) →
        ∃ t, exec (.deleteAnchor p pl) s = .next t ∧ Accepted .deleteAnchor p .none [.directory] [] [.anchors] s t ∧
          findAnchor t r.id = none ∧ OtherAnchorsSame r.id s t ∧ WatchFlagsSame s t) ∧
      (r.stage ≠ .planned → r.stage ≠ .abandoned →
        ∃ t, exec (.deleteAnchor p pl) s = .next t ∧ Refused ReqKind.deleteAnchor.code p .wrongStage s t)

/-- Abandon Anchor takes a record in any stage but the active ones and ABANDONED to ABANDONED with its reason, off the cure
list, releases its readings to the pool and tells the change of stage; an identity without a record is refused
NO_SUCH_ANCHOR, an active stage ANCHOR_ACTIVE and ABANDONED WRONG_STAGE (R16; the place of the reason code log 9). -/
def Obligations.AbandonAnchorReleasesReadings : Prop :=
  ∀ (p : Port) (pl : List Byte) (s : State), Asked .abandonAnchor p pl s →
    (findAnchor s (anchorField pl) = none →
      ∃ t, exec (.abandonAnchor p pl) s = .next t ∧ Refused ReqKind.abandonAnchor.code p .noSuchAnchor s t) ∧
    ∀ r, findAnchor s (anchorField pl) = some r →
      (TablesSized s → r.stage ≠ .tendonRunning → r.stage ≠ .grouting → r.stage ≠ .stressing → r.stage ≠ .abandoned →
        let new := { r with
          stage := .abandoned, reason := fieldNat pl 2 1, cureDue := none,
          result := r.result.map fun x => { x with readings := [] } }
        ∃ t, exec (.abandonAnchor p pl) s = .next t ∧
          Accepted .abandonAnchor p .none (stageItems s r new) (stageNotices s t r new)
            [.pool, .anchors, .cure, .sections] s t ∧
          StageMoved r new s t ∧ t.pool.reserved = s.pool.reserved ∧
          t.pool.used = (s.pool.used.filter fun e => !(readingsOf r).contains (.entry e.index)) ∧ WatchFlagsSame s t) ∧
      ((r.stage = .tendonRunning ∨ r.stage = .grouting ∨ r.stage = .stressing) →
        ∃ t, exec (.abandonAnchor p pl) s = .next t ∧ Refused ReqKind.abandonAnchor.code p .anchorActive s t) ∧
      (r.stage = .abandoned →
        ∃ t, exec (.abandonAnchor p pl) s = .next t ∧ Refused ReqKind.abandonAnchor.code p .wrongStage s t)

/-- Retest Anchor takes a FAILED or LOCKED_OFF record back to STRESSABLE without its test result, releases its readings and
tells the change of stage; a LOCKED_OFF one leaves its section's locked-off count. An identity without a record is refused
NO_SUCH_ANCHOR and another stage WRONG_STAGE (R17, R42). -/
def Obligations.RetestAnchorReturnsToStressable : Prop :=
  ∀ (p : Port) (pl : List Byte) (s : State), Asked .retestAnchor p pl s →
    (findAnchor s (anchorField pl) = none →
      ∃ t, exec (.retestAnchor p pl) s = .next t ∧ Refused ReqKind.retestAnchor.code p .noSuchAnchor s t) ∧
    ∀ r, findAnchor s (anchorField pl) = some r →
      (TablesSized s → (r.stage = .failed ∨ r.stage = .lockedOff) →
        let new := { r with stage := .stressable, result := none }
        ∃ t, exec (.retestAnchor p pl) s = .next t ∧
          Accepted .retestAnchor p .none (stageItems s r new) [.stageChanged r.id (some r.stage) .stressable]
            [.pool, .anchors, .cure, .sections] s t ∧
          StageMoved r new s t ∧ t.pool.reserved = s.pool.reserved ∧
          t.pool.used = (s.pool.used.filter fun e => !(readingsOf r).contains (.entry e.index)) ∧ WatchFlagsSame s t) ∧
      (r.stage ≠ .failed → r.stage ≠ .lockedOff →
        ∃ t, exec (.retestAnchor p pl) s = .next t ∧ Refused ReqKind.retestAnchor.code p .wrongStage s t)

/-- Settle Anchor's checks, in the order of R18: no record, no settleable stage, an undefined or disallowed decision, a
SUSPECT record
without design data or geometry, a cure due time to be formed while the clock is UNSET; the first that fails gives the
answer and nothing changes. Otherwise it carries out the decision: the stage and the reason, the tendon record and the test
result as the decision gives them, the cure due time from the request (SUSPECT) or from the present time and the cure
period. The last SUSPECT anchor of a section takes the STORE hold with it, and both changes are told (R10, R12, R18 to
R21, R38). A due time past the clock's range is open (log 13); payload places and the codes of the decision are logs 9
and 8. -/
def Obligations.SettleAnchorCarriesOutDecision : Prop :=
  ∀ (p : Port) (pl : List Byte) (s : State), Asked .settleAnchor p pl s →
    (findAnchor s (anchorField pl) = none →
      ∃ t, exec (.settleAnchor p pl) s = .next t ∧ Refused ReqKind.settleAnchor.code p .noSuchAnchor s t) ∧
    ∀ r, findAnchor s (anchorField pl) = some r →
      (r.stage.isSettleable = false →
        ∃ t, exec (.settleAnchor p pl) s = .next t ∧ Refused ReqKind.settleAnchor.code p .wrongStage s t) ∧
      (r.stage.isSettleable = true → stageOfCode (fieldNat pl 2 1) = none →
        ∃ t, exec (.settleAnchor p pl) s = .next t ∧ Refused ReqKind.settleAnchor.code p .badValue s t) ∧
      ∀ dest, stageOfCode (fieldNat pl 2 1) = some dest → r.stage.isSettleable = true →
        let failing := firstFailing
          [(!settleAllowed r.stage dest, .badValue),
           (decide (r.stage = .suspect) && (r.design.isNone || r.geometry.isNone), .geometryUnset),
           (settleNeedsClock r.stage dest && s.clock.time.isNone, .clockUnset)]
        (∀ c, failing = some c →
          ∃ t, exec (.settleAnchor p pl) s = .next t ∧ Refused ReqKind.settleAnchor.code p c s t) ∧
        (failing = none → TablesSized s →
          ∃ t new, exec (.settleAnchor p pl) s = .next t ∧
            new = { r with stage := dest, reason := fieldNat pl 3 1, tendon := new.tendon, cureDue := new.cureDue,
                           result := new.result } ∧
            Accepted .settleAnchor p .none (stageItems s r new) (stageNotices s t r new)
              [.pool, .freeIdx, .anchors, .cure, .sections] s t ∧
            StageMoved r new s t ∧ WatchFlagsSame s t ∧
            (dest = .planned → new.tendon = none) ∧
            (dest ≠ .planned → (r.stage = .tendonRejected ∨ r.stage = .suspect) → new.tendon = declaredTendon s r) ∧
            (r.stage ≠ .tendonRejected → r.stage ≠ .suspect → new.tendon = r.tendon) ∧
            (dest ≠ .curing → new.cureDue = r.cureDue) ∧
            (dest = .curing → r.stage = .suspect → new.cureDue = some (fieldNat pl 4 4)) ∧
            (∀ now, dest = .curing → r.stage ≠ .suspect → s.clock.time = some now →
              ∃ due, new.cureDue = some due ∧ due ≤ 4294967295 ∧
                (now + s.config.params.curePeriod * 60 ≤ 4294967295 → due = now + s.config.params.curePeriod * 60)) ∧
            (r.stage = .stressInterrupted → dest = .stressable → new.result = none ∧
              t.pool.used = (s.pool.used.filter fun e => !(readingsOf r).contains (.entry e.index))) ∧
            (r.stage = .stressInterrupted → dest = .failed → new.result =
              r.result.map fun x => { x with verdict := some .failNotEvaluable }) ∧
            (¬ (r.stage = .stressInterrupted ∧ dest = .stressable) → t.pool = s.pool) ∧
            (r.stage ≠ .stressInterrupted → new.result = r.result))

/-- At the due time of the head of the cure list its anchor becomes STRESSABLE without a due time and leaves the list,
and the change is told; before it, with the clock UNSET and with an empty list nothing happens (R10, R23, R25; a due time
clamped to the end of the range is log 35). -/
def Obligations.CureExpiryMakesStressable : Prop :=
  (∀ s : State, s.clock.time = none ∨ s.cure = [] → exec .cureExpiry s = .next s) ∧
  ∀ (s : State) (now : Nat) (c : CureEntry) (rest : List CureEntry), s.clock.time = some now → s.cure = c :: rest →
    (∀ r, c.due ≤ now → findAnchor s c.id = some r → r.stage = .curing → 1 ≤ c.id.sect →
      c.id.sect ≤ s.sections.length →
      let new := { r with stage := .stressable, cureDue := none }
      ∃ t, exec .cureExpiry s = .next t ∧ Occurred [.image r.imageSlot] [.stageChanged c.id (some .curing) .stressable]
          [.anchors, .cure, .sections] s t ∧
        StageMoved r new s t ∧ t.cure = (s.cure.filter fun x => x.id ≠ c.id) ∧ WatchFlagsSame s t) ∧
    (now < c.due → exec .cureExpiry s = .next s)

/-! ## The rig monitor -/

/-- Tendon Start is refused by the first check that fails, in the order of R71, with nothing changed. Accepted, it opens
the run with the captured parameters, sets the paid-out length to 0 and takes the anchor to TENDON_RUNNING (R69, R71,
R72). -/
def Obligations.TendonStartOpensRun : Prop :=
  ∀ (p : Port) (pl : List Byte) (s : State), Asked .tendonStart p pl s →
    (findAnchor s (anchorField pl) = none →
      ∃ t, exec (.tendonStart p pl) s = .next t ∧ Refused ReqKind.tendonStart.code p .noSuchAnchor s t) ∧
    ∀ r, findAnchor s (anchorField pl) = some r →
      let failing := firstFailing
        [(s.rig.isSome, .rigBusy), (s.clock.time.isNone, .clockUnset), (decide (r.stage ≠ .planned), .wrongStage),
         (r.geometry.isNone, .geometryUnset), (anchorZoneClosed s r, .zoneClosed),
         (sectionHeld s r.id.sect, .sectionHeld), (rigFaulted s.meas, .sensorFault)]
      (∀ c, failing = some c →
        ∃ t, exec (.tendonStart p pl) s = .next t ∧ Refused ReqKind.tendonStart.code p c s t) ∧
      ∀ g now, failing = none → TablesSized s → s.clock.time = some now → r.geometry = some g →
        ∃ t, exec (.tendonStart p pl) s = .next t ∧
          Accepted .tendonStart p .none [.image r.imageSlot] [.stageChanged r.id (some .planned) .tendonRunning]
            [.rig, .meas, .anchors, .cure, .sections] s t ∧
          StageMoved r { r with stage := .tendonRunning } s t ∧ t.meas = { s.meas with paidOut := 0 } ∧
          WatchFlagsSame s t ∧
          t.rig = some
            { anchor := r.id, start := now, designLength := 10 * (g.lfree + g.lbond + s.config.params.jacking),
              tolerance := s.config.params.tendonTol, tensionLimit := s.config.params.winchLimit,
              releaseLevel := s.config.params.winchLimit * 9 / 10, peak := 0, overCount := 0, latch := false,
              limitEvents := 0 }

/-- Tendon Done closes the run with a tendon record and decides by the difference between the placed and the design
length, at or within the tolerance TENDON_PLACED; Tendon Withdraw closes it back to PLANNED without a record. Both leave
RIG deasserted; without a record both are refused NO_SUCH_ANCHOR, on an anchor that is not running WRONG_STAGE
(R76 to R78). -/
def Obligations.TendonRunIsClosed : Prop :=
  ∀ (p : Port) (pl : List Byte) (s : State),
    (∀ k, (k = .tendonDone ∨ k = .tendonWithdraw) → Asked k p pl s → findAnchor s (anchorField pl) = none →
      ∃ t, exec (requestOf k p pl) s = .next t ∧ Refused k.code p .noSuchAnchor s t) ∧
    ∀ r, findAnchor s (anchorField pl) = some r →
      (∀ c, TablesSized s → s.rig = some c → r.stage = .tendonRunning →
        (Asked .tendonDone p pl s →
          let d := (s.meas.paidOut - c.designLength) + (c.designLength - s.meas.paidOut)
          let decided := if d ≤ c.tolerance then Stage.tendonPlaced else .tendonRejected
          let record : TendonRecord :=
            { length := s.meas.paidOut, peak := c.peak, limitEvents := c.limitEvents, time := stampTime s }
          let new := { r with stage := decided, tendon := some record }
          ∃ t, exec (.tendonDone p pl) s = .next t ∧
            Accepted .tendonDone p (.tendonDone decided s.meas.paidOut d) [.image r.imageSlot]
              [.stageChanged r.id (some .tendonRunning) decided]
              [.rig, .anchors, .cure, .sections] s t ∧
            StageMoved r new s t ∧ t.rig = none ∧ t.permits.rig = false ∧ WatchFlagsSame s t) ∧
        (Asked .tendonWithdraw p pl s →
          let new := { r with stage := .planned }
          ∃ t, exec (.tendonWithdraw p pl) s = .next t ∧
            Accepted .tendonWithdraw p .none [.image r.imageSlot] [.stageChanged r.id (some .tendonRunning) .planned]
              [.rig, .anchors, .cure, .sections] s t ∧
            StageMoved r new s t ∧ t.rig = none ∧ t.permits.rig = false ∧ WatchFlagsSame s t)) ∧
      (r.stage ≠ .tendonRunning →
        (Asked .tendonDone p pl s →
          ∃ t, exec (.tendonDone p pl) s = .next t ∧ Refused ReqKind.tendonDone.code p .wrongStage s t) ∧
        (Asked .tendonWithdraw p pl s →
          ∃ t, exec (.tendonWithdraw p pl) s = .next t ∧ Refused ReqKind.tendonWithdraw.code p .wrongStage s t))

/-! ## The measurement unit -/

/-- At every sample set each channel's raw reading becomes a calibrated sample with the calibration as it stands: (raw −
zero) × span ÷ 65536 truncated toward zero, brought within 0 and the channel maximum, the OVER_RANGE condition present
exactly above it. The sample joins the history of eight, the value is the truncated mean of eight or 0, NOT_READY stands
while there are fewer, EXTENSION is the truncated mean of its two values, and the two disagreements are judged. Every fault
that this raises or clears is told (R49, R51, R52, R54 to R57). -/
def Obligations.SampleSetConvertsChannels : Prop :=
  ∀ (x : SampleIn) (s : State), ∃ t, exec (.sampleSet x) s = .next t ∧
    (∀ c, channelGet t.meas.chans c =
      sampledChannel (channelMax c) (channelGet s.config.cals c) (channelGet x.raw c) (channelGet s.meas.chans c)) ∧
    t.meas.extension = (channelValue t.meas .extA + channelValue t.meas .extB) / 2 ∧
    t.meas.extDisagree = faultAfter s.meas.extDisagree
      (faultPresent t.meas (.notReady .extA) = false ∧ faultPresent t.meas (.notReady .extB) = false ∧
        s.config.params.extDisagree <
          (channelValue t.meas .extA - channelValue t.meas .extB) +
            (channelValue t.meas .extB - channelValue t.meas .extA)) ∧
    (s.session = none → t.meas.loadDisagree = faultAfter s.meas.loadDisagree False) ∧
    (∀ y, s.session = some y → t.meas.loadDisagree = faultAfter s.meas.loadDisagree
      (faultPresent t.meas (.notReady .load) = false ∧ faultPresent t.meas (.notReady .jackPress) = false ∧
        500 ≤ channelValue t.meas .load ∧
        s.config.params.loadTol * channelValue t.meas .load <
          ((channelValue t.meas .load - channelValue t.meas .jackPress * y.area / 10000) +
            (channelValue t.meas .jackPress * y.area / 10000 - channelValue t.meas .load)) * 1000)) ∧
    (∀ f, faultPresent t.meas f ≠ faultPresent s.meas f → Tells [.sensorFault f (faultPresent t.meas f)] s t) ∧
    t.meas.paidOut = s.meas.paidOut ∧ t.meas.lines = s.meas.lines ∧ t.clock.time = s.clock.time ∧
    t.clock.mark = s.clock.mark ∧ PermitsExact t ∧ OnlyChanges (sampleParts ++ endParts) s t

/-- The eighth sample of a history clears NOT_READY and forms the value, and the hundredth sample set in a row without a
fault's condition clears the fault: OVER_RANGE of a channel, EXT_DISAGREE and LOAD_DISAGREE. Each clearing is told. The two
rows are the sample set in which that comes about (R52, R54 to R57; log 4). -/
def Obligations.FaultsClearAtSampleSet : Prop :=
  ∀ (x : SampleIn) (s : State),
    (∀ c : Channel,
      ((channelGet s.meas.chans c).history.length = 7 → (channelGet s.meas.chans c).notReady = true →
        ∃ t, exec (.notReadyCleared c x) s = .next t ∧ exec (.sampleSet x) s = .next t ∧
          Tells [.sensorFault (.notReady c) false] s t ∧ faultPresent t.meas (.notReady c) = false ∧
          (channelGet t.meas.chans c).history.length = 8 ∧
          channelValue t.meas c = (channelGet t.meas.chans c).history.sum / 8) ∧
      ((channelGet s.meas.chans c).overRange = { present := true, absent := 99 } →
        Int.tdiv
          ((((channelGet x.raw c).toNat : Int) - (channelGet s.config.cals c).zero) * (channelGet s.config.cals c).span)
          65536 ≤ (channelMax c : Int) →
        ∃ t, exec (.faultCleared (.overRange c) x) s = .next t ∧ exec (.sampleSet x) s = .next t ∧
          Tells [.sensorFault (.overRange c) false] s t ∧
          (channelGet t.meas.chans c).overRange = { present := false, absent := 0 })) ∧
    (s.meas.extDisagree = { present := true, absent := 99 } →
      ∃ t, exec (.sampleSet x) s = .next t ∧
        ((faultPresent t.meas (.notReady .extA) = true ∨ faultPresent t.meas (.notReady .extB) = true ∨
            (channelValue t.meas .extA - channelValue t.meas .extB) +
              (channelValue t.meas .extB - channelValue t.meas .extA) ≤ s.config.params.extDisagree) →
          exec (.faultCleared .extDisagree x) s = .next t ∧ Tells [.sensorFault .extDisagree false] s t ∧
            t.meas.extDisagree = { present := false, absent := 0 })) ∧
    (s.meas.loadDisagree = { present := true, absent := 99 } →
      ∃ t, exec (.sampleSet x) s = .next t ∧
        ((∀ y, s.session = some y →
            faultPresent t.meas (.notReady .load) = true ∨ faultPresent t.meas (.notReady .jackPress) = true ∨
              channelValue t.meas .load < 500 ∨
              ((channelValue t.meas .load - channelValue t.meas .jackPress * y.area / 10000) +
                (channelValue t.meas .jackPress * y.area / 10000 - channelValue t.meas .load)) * 1000 ≤
                s.config.params.loadTol * channelValue t.meas .load) →
          exec (.faultCleared .loadDisagree x) s = .next t ∧ Tells [.sensorFault .loadDisagree false] s t ∧
            t.meas.loadDisagree = { present := false, absent := 0 }))

/-- Set Calibration on a channel that no active work uses stores the clamped zero and span, empties the history, sets the
value to 0, clears OVER_RANGE, raises NOT_READY, answers with what it stored and tells both changes; no
other channel is touched. An undefined
channel is refused BAD_VALUE and one in use CHANNEL_IN_USE (R55, R58;
the places of the payload logs 9 and 41). -/
def Obligations.SetCalibrationEmptiesHistory : Prop :=
  ∀ (p : Port) (pl : List Byte) (s : State), Asked .setCalibration p pl s →
    (∀ c, channelOfCode (fieldNat pl 0 1) = some c → channelInUse s c = false →
      let cal : Calibration :=
        { zero := max 0 (min 65535 (fieldNat pl 1 2)), span := max 1 (min 200000 (fieldNat pl 3 4)) }
      ∃ t, exec (.setCalibration p pl) s = .next t ∧
        Accepted .setCalibration p (.calibration cal.zero cal.span) [.config]
          ((if (channelGet s.meas.chans c).overRange.present then [.sensorFault (.overRange c) false] else []) ++
            if (channelGet s.meas.chans c).notReady then [] else [.sensorFault (.notReady c) true])
          [.meas, .config] s t ∧
        channelGet t.config.cals c = cal ∧
        channelGet t.meas.chans c =
          { history := [], taken := 0, value := 0, notReady := true, overRange := { present := false, absent := 0 } } ∧
        (∀ d, d ≠ c → channelGet t.config.cals d = channelGet s.config.cals d ∧
          channelGet t.meas.chans d = channelGet s.meas.chans d) ∧
        t.config = { s.config with cals := t.config.cals } ∧ t.meas = { s.meas with chans := t.meas.chans } ∧
        WatchFlagsSame s t) ∧
    (channelOfCode (fieldNat pl 0 1) = none →
      ∃ t, exec (.setCalibration p pl) s = .next t ∧ Refused ReqKind.setCalibration.code p .badValue s t) ∧
    (∀ c, channelOfCode (fieldNat pl 0 1) = some c → channelInUse s c = true →
      ∃ t, exec (.setCalibration p pl) s = .next t ∧ Refused ReqKind.setCalibration.code p .channelInUse s t)

/-- Set Clock at or above its bound (the clock while SET, otherwise the mark read) sets the clock, starts the count of its
next second afresh and puts the clock mark on the write list; below the bound it is refused CLOCK_BACKWARD, and from
another port than P4 WRONG_ROLE (R64, R65). -/
def Obligations.SetClockMovesForwardOnly : Prop :=
  (∀ (p : Port) (pl : List Byte) (s : State), canTake s p ReqKind.setClock.code pl = true → p ≠ .p4 →
    ∃ t, exec (.setClock p pl) s = .next t ∧
      TurnedAway ReqKind.setClock.code p .wrongRole (fun f => { f with wrongRole := true }) s t) ∧
  ∀ (p : Port) (pl : List Byte) (s : State), Asked .setClock p pl s →
    let bound := match s.clock.time with | none => s.clock.mark | some now => now
    (bound ≤ fieldNat pl 0 4 →
      ∃ t, exec (.setClock p pl) s = .next t ∧ Accepted .setClock p .none [.mark] [] [.clock] s t ∧
        t.clock = { time := some (fieldNat pl 0 4), mark := s.clock.mark, ticks := 0, markSeconds := 0 } ∧
        WatchFlagsSame s t) ∧
    (fieldNat pl 0 4 < bound →
      ∃ t, exec (.setClock p pl) s = .next t ∧ Refused ReqKind.setClock.code p .clockBackward s t)

/-- A step of the winch encoder moves the paid-out length by one, clamped to 0..80000, whether or not a run is active, and
touches nothing else; every reset and every accepted Tendon Start set it to 0, and Read Status returns it. The encoder
raises no fault (R60). -/
def Obligations.WinchEncoderCountsTendon : Prop :=
  (∀ s : State, exec (.winchEncStep .payOut) s =
    .next { s with meas := { s.meas with
      paidOut := if s.meas.paidOut < 80000 then s.meas.paidOut + 1 else 80000 } }) ∧
    (∀ s : State, exec (.winchEncStep .haulIn) s =
      .next { s with meas := { s.meas with paidOut := if s.meas.paidOut = 0 then 0 else s.meas.paidOut - 1 } }) ∧
    (∀ s t : State, (exec .powerOnReset s = .next t ∨ exec .resetLineReset s = .next t ∨
        (exec .restartReset s = .next t ∧ s.recorder.draining = true ∧ t.recorder.draining = false)) →
      t.meas.paidOut = 0) ∧
    (∀ s : State, ∃ values ext faults lines clock mark warning,
      statusPart s 1 = some (.measurement values ext faults s.meas.paidOut lines clock mark warning)) ∧
    ∀ (p : Port)(pl : List Byte) (s t : State), Asked .tendonStart p pl s → exec (.tendonStart p pl) s = .next t →
      s.rig = none → t.rig ≠ none → t.meas.paidOut = 0

/-- A pulse on a flow meter adds one to its line's gated volume (saturating at 65535) and to the bin being filled when the
valve is asserted and a pass is running on the line; otherwise it is counted nowhere. A change of a valve input is taken as
it stands. Nothing else changes (R61, R62). -/
def Obligations.FlowPulsesAreGated : Prop :=
  ∀ (l : GLine) (s : State),
    let line := s.meas.lines.get l
    let counted := { line with gated := if line.gated < 65535 then line.gated + 1 else 65535, bin := line.bin + 1 }
    (line.valve = true → s.grout.get l ≠ none →
      exec (.flowPulse l) s = .next { s with meas := { s.meas with lines := s.meas.lines.set l counted } }) ∧
    (line.valve = false ∨ s.grout.get l = none → exec (.flowPulse l) s = .next s) ∧
    ∀ asserted, exec (.valveChanged l asserted) s =
      .next { s with meas := { s.meas with lines := s.meas.lines.set l { line with valve := asserted } } }

/-- At a second of the time base the bin just filled joins a line's ten and the oldest leaves; the flow rate becomes six
times their sum, saturating at 65535, on both lines (R62). That the row takes a second which the time base owes, and
uses it up, is the
model's choice (log 6). -/
def Obligations.FlowRateSumsTenBins : Prop :=
  ∀ s : State, s.time.flowDue ≠ 0 →
    ∃ t, exec .flowRateUpdate s = .next t ∧
      (∀ l, t.meas.lines.get l =
        { s.meas.lines.get l with
          bin := 0, bins := (s.meas.lines.get l).bins.drop 1 ++ [(s.meas.lines.get l).bin],
          rate := min ((((s.meas.lines.get l).bins.drop 1 ++ [(s.meas.lines.get l).bin]).sum) * 6) 65535 }) ∧
      t.meas = { s.meas with lines := t.meas.lines } ∧ t.time = { s.time with flowDue := s.time.flowDue - 1 } ∧
      PermitsExact t ∧ OnlyChanges ([.meas, .time, .watch, .sections] ++ endParts) s t

/-- A SET works clock steps by one second once a hundred sample periods have run, staying at 4294967295; at the 600th
second since the last Set Clock the clock mark goes on the write list. Nothing else changes (R63, R65). The counts of
sample periods and of seconds that make a row due, their use by it, and the row that changes nothing before, are the model's
choice (log 6). -/
def Obligations.WorksClockSteps : Prop :=
  (∀ (s : State) (now : Nat), s.clock.time = some now → 100 ≤ s.clock.ticks →
    exec .worksClockSecond s = .next { s with clock := { s.clock with
      time := some (if now < 4294967295 then now + 1 else 4294967295), ticks := s.clock.ticks - 100,
      markSeconds := s.clock.markSeconds + 1 } }) ∧
    (∀ s : State, s.clock.time = none ∨ s.clock.ticks < 100 → exec .worksClockSecond s = .next s) ∧
    ∀ (s : State) (now : Nat), s.clock.time = some now → 600 ≤ s.clock.markSeconds →
      ∃ t, exec .clockMarkDue s = .next t ∧ Occurred [.mark] [] [.clock] s t ∧ WatchFlagsSame s t ∧
        t.clock = { s.clock with markSeconds := s.clock.markSeconds - 600 }

/-- A supply below 19.0 V raises POWER_WARNING at once, by the row or by a sample set, deasserts all four lines and keeps the
writer from a new write: at the run's first warning a write in progress runs to its completion and then owes the mark, and
an IDLE writer writes the mark; at a later one it becomes HELD. Before the reset-cause record is written it is HELD without
a mark, and whether that record's write is in progress, and so runs to its completion, is left open (log 12). At 19.0 V or
above no warning is raised. The sample set at which the supply has stood above 20.0 V for 100 sample periods clears it and
lets a HELD writer go on; a sample set at 20.0 V or below sets that count back to 0 (R66, R176, R184). Counting that second in
sample sets is log 25, the clearing being the sample set in which it comes about log 4. -/
def Obligations.PowerWarningRaisedAndCleared : Prop :=
  (∀ (v : Nat) (s : State), v < 190 → s.supply.warning = false →
    ∃ t, exec (.powerWarningRaised v) s = .next t ∧ t.supply = { warning := true, above := 0 } ∧
      (∀ l, t.permits.get l = false) ∧ t.recorder.warned = true ∧ t.recorder.writer ≠ .idle ∧
      t.recorder.list = s.recorder.list ∧ Told (fun q => s.ports.get q) [] s t ∧ WatchFlagsSame s t ∧ PermitsExact t ∧
      OnlyChanges ([.supply, .recorder] ++ endParts) s t ∧
      (s.recorder.causeDue = false →
        (∀ j n, s.recorder.writer = .writing j n → t.recorder =
          { s.recorder with warned := true, markOwed := s.recorder.markOwed || !s.recorder.warned }) ∧
        (s.recorder.writer = .idle → t.recorder =
          { s.recorder with writer := if s.recorder.warned then .held else .marking, warned := true }) ∧
        ((s.recorder.writer = .marking ∨ s.recorder.writer = .held) →
          t.recorder = { s.recorder with warned := true })) ∧
      (s.recorder.causeDue = true →
        t.recorder = { s.recorder with writer := .held, warned := true, causeOpen := t.recorder.causeOpen } ∧
        (s.recorder.causeOpen = true → t.recorder.causeOpen = true))) ∧
    (∀ (v : Nat) (s : State), 190 ≤ v ∨ s.supply.warning = true → exec (.powerWarningRaised v) s = .next s) ∧
    (∀ (x : SampleIn) (s : State), ∃ t, exec (.sampleSet x) s = .next t ∧
      (s.supply.warning = false → x.supply < 190 →
        t.supply = { warning := true, above := 0 } ∧ t.recorder.warned = true ∧ t.recorder.writer ≠ .idle ∧
          ∀ l, t.permits.get l = false) ∧
      (s.supply.warning = false → 190 ≤ x.supply → t.supply = s.supply) ∧
      (s.supply.warning = true → x.supply ≤ 200 → t.supply = { warning := true, above := 0 }) ∧
      (s.supply.warning = true → 200 < x.supply → s.supply.above < 99 →
        t.supply = { warning := true, above := s.supply.above + 1 })) ∧
    (∀ (x : SampleIn) (s : State), s.supply.warning = false ∨ x.supply ≤ 200 ∨ s.supply.above < 99 →
      exec (.powerWarningCleared x) s = .next s) ∧
    ∀ (x : SampleIn) (s : State), s.supply.warning = true → s.supply.above = 99 → 200 < x.supply →
      ∃ t, exec (.powerWarningCleared x) s = .next t ∧ exec (.sampleSet x) s = .next t ∧
        t.supply = { warning := false, above := 0 } ∧ (s.recorder.writer = .held → t.recorder.writer = .idle)

/-! ## The sample set: rig and grout lines -/

/-- At every sample set of a run the WINCH_TENSION value is judged: the peak rises to it, the over count counts values above
the limit while the latch is clear, the third in a row sets the latch, counts a limit event, is told and deasserts RIG,
and a value
at or below the release level clears a set latch. The row of the latch is the sample set in which it is set (R73, R74;
log 4). -/
def Obligations.RigJudgesEverySampleSet : Prop :=
  ∀ (x : SampleIn) (s : State) (c : TendonCtx), s.rig = some c →
    let v := (sampledChannel 1000 s.config.cals.winchTension x.raw.winchTension s.meas.chans.winchTension).value
    let above := if c.latch = true ∨ v ≤ c.tensionLimit then 0 else c.overCount + 1
    ∃ t, exec (.sampleSet x) s = .next t ∧ PermitsExact t ∧ OnlyChanges (sampleParts ++ endParts) s t ∧
      t.rig = some
        { c with
          peak := max c.peak v, overCount := if above = 3 then 0 else above,
          latch := if c.latch = true then decide (c.releaseLevel < v) else decide (above = 3),
          limitEvents := if above = 3 then min (c.limitEvents + 1) 255 else c.limitEvents } ∧
      (above = 3 → exec (.rigLimitLatchSet x) s = .next t ∧ t.permits.rig = false ∧
        Tells [.limitExceeded .rig c.anchor v c.tensionLimit (min (c.limitEvents + 1) 255)] s t)

/-- At every sample set of a pass the line's pressure is judged: peak and limit latch as on the rig, and 6000 consecutive
values at or above the refusal pressure reach refusal once. A latch set and refusal reached are told and written into the
open pass entry. The two rows are the sample set in which that comes about (R88, R89, R90; log 4). -/
def Obligations.LinesJudgeEverySampleSet : Prop :=
  ∀ (l : GLine) (x : SampleIn) (s : State) (c : LineCtx), s.grout.get l = some c →
    let ch := lineChannel l
    let v := (sampledChannel 5000 (channelGet s.config.cals ch) (channelGet x.raw ch) (channelGet s.meas.chans ch)).value
    let above := if c.latch = true ∨ v ≤ c.pressLimit then 0 else c.overCount + 1
    let events := if above = 3 then min (c.limitEvents + 1) 255 else c.limitEvents
    let count :=
      if c.refusalReached = true then c.refusalCount else if v < c.refusalPress then 0 else min (c.refusalCount + 1) 6000
    ∃ t, exec (.sampleSet x) s = .next t ∧ PermitsExact t ∧ OnlyChanges (sampleParts ++ endParts) s t ∧
      t.grout.get l = some
        { c with
          peak := max c.peak v, overCount := if above = 3 then 0 else above,
          latch := if c.latch = true then decide (c.releaseLevel < v) else decide (above = 3),
          limitEvents := events, refusalCount := count,
          refusalReached := c.refusalReached || decide (count = 6000) } ∧
      (above = 3 → exec (.groutLimitLatchSet l x) s = .next t ∧ t.permits.get (linePermit l) = false ∧
        Tells [.limitExceeded (limitSubject l) c.anchor v c.pressLimit events] s t) ∧
      (c.refusalReached = false → count = 6000 → exec (.refusalReached l x) s = .next t ∧
        Tells [.refusalReached l c.anchor v c.refusalPress (s.meas.lines.get l).gated] s t) ∧
      ∀ r, findAnchor s c.anchor = some r → (∀ m d, m ≠ l → s.grout.get m = some d → d.anchor ≠ c.anchor) →
        ∃ r', findAnchor t c.anchor = some r' ∧
          r'.passes = r.passes.modify (c.position - 1) fun e =>
            { e with
              limitEvents := if above = 3 then events else e.limitEvents,
              refusal := if c.refusalReached = false ∧ count = 6000 then true else e.refusal }

/-! ## The grout monitor -/

/-- Inject Start is refused by the first check that fails, in the order of R85, with nothing changed. Accepted, it opens the
line with the captured pressures, sets its gated volume to 0, appends an open pass entry and takes the anchor to GROUTING,
off the cure list and without a due time, and tells it. The window of a POST pass is measured from the end of the last
pass entry, both
bounds included, and is closed to an anchor without a pass entry (R10, R83, R85, R86, R87). That the seconds owed to the line are set to 0 is the model's choice (log 6);
the places of the payload and the codes of line and kind are logs 9 and 8. -/
def Obligations.InjectStartOpensPass : Prop :=
  (∀ (s : State) (r : AnchorRec) (now : Nat),
    (∀ pre e stop, r.passes = pre ++ [e] → e.stop = some stop →
      (windowAdmits s r now = true ↔
        stop + s.config.params.windowMin * 60 ≤ now ∧ now ≤ stop + s.config.params.windowMax * 60)) ∧
    (∀ pre e, r.passes = pre ++ [e] → e.stop = none → windowAdmits s r now = false) ∧
    (r.passes = [] → windowAdmits s r now = false)) ∧
  ∀ (p : Port) (pl : List Byte) (s : State), Asked .injectStart p pl s →
    ((lineOfCode (fieldNat pl 2 1) = none ∨ passKindOfCode (fieldNat pl 3 1) = none) →
      ∃ t, exec (.injectStart p pl) s = .next t ∧ Refused ReqKind.injectStart.code p .badValue s t) ∧
    ∀ l k, lineOfCode (fieldNat pl 2 1) = some l → passKindOfCode (fieldNat pl 3 1) = some k →
      (findAnchor s (anchorField pl) = none →
        ∃ t, exec (.injectStart p pl) s = .next t ∧ Refused ReqKind.injectStart.code p .noSuchAnchor s t) ∧
      ∀ r, findAnchor s (anchorField pl) = some r →
        let failing := firstFailing
          [((s.grout.get l).isSome, .lineBusy), (s.clock.time.isNone, .clockUnset), (!stageSuits k r.stage, .wrongStage),
           (decide (k = .post) && !windowAdmits s r (stampTime s), .windowClosed),
           (decide (4 ≤ r.passes.length), .passesFull), (anchorZoneClosed s r, .zoneClosed),
           (sectionHeld s r.id.sect, .sectionHeld), (sectionIsStale s r.id.sect, .deflectionStale),
           (lineFaulted s.meas l, .sensorFault)]
        (∀ c, failing = some c →
          ∃ t, exec (.injectStart p pl) s = .next t ∧ Refused ReqKind.injectStart.code p c s t) ∧
        ∀ now, failing = none → TablesSized s → s.clock.time = some now →
          let entry : PassEntry :=
            { kind := k, line := l, start := now, stop := none, volume := 0, peak := 0, limitEvents := 0, refusal := false }
          let limits := (sectionRec s r.id.sect).data
          let ctx : LineCtx :=
            { anchor := r.id, kind := k, position := r.passes.length + 1, pressLimit := limits.pressLimit,
              releaseLevel := limits.pressLimit * 9 / 10, refusalPress := limits.refusalPress, peak := 0, overCount := 0,
              latch := false, limitEvents := 0, refusalCount := 0, refusalReached := false }
          ∃ t, exec (.injectStart p pl) s = .next t ∧
            Accepted .injectStart p .none [.image r.imageSlot] [.stageChanged r.id (some r.stage) .grouting]
              [.grout, .meas, .time, .anchors, .cure, .sections] s t ∧
            StageMoved r { r with stage := .grouting, cureDue := none, passes := r.passes ++ [entry] } s t ∧
            t.grout = s.grout.set l (some ctx) ∧
            t.meas = { s.meas with lines := s.meas.lines.set l { s.meas.lines.get l with gated := 0 } } ∧
            t.time = { s.time with refreshDue := s.time.refreshDue.set l 0 } ∧ WatchFlagsSame s t

/-- Inject End closes the line and its pass entry with the context and the gated volume as they stand. A POST pass, or a
cumulative volume at or above the minimum, leads to CURING with a due time of the present time plus the cure period,
clamped to the clock's range; otherwise to GROUT_SHORT; the change is told. An undefined line is refused BAD_VALUE, an
identity without a record NO_SUCH_ANCHOR, an anchor that is not in GROUTING on that line WRONG_STAGE (R10, R94 to R97; the
places of the payload log 9, the line codes log 8). -/
def Obligations.InjectEndClosesPass : Prop :=
  ∀ (p : Port) (pl : List Byte) (s : State), Asked .injectEnd p pl s →
    (lineOfCode (fieldNat pl 2 1) = none →
      ∃ t, exec (.injectEnd p pl) s = .next t ∧ Refused ReqKind.injectEnd.code p .badValue s t) ∧
    ∀ l, lineOfCode (fieldNat pl 2 1) = some l →
      (findAnchor s (anchorField pl) = none →
        ∃ t, exec (.injectEnd p pl) s = .next t ∧ Refused ReqKind.injectEnd.code p .noSuchAnchor s t) ∧
      ∀ r, findAnchor s (anchorField pl) = some r →
        (∀ c, TablesSized s → s.grout.get l = some c → c.anchor = r.id → r.stage = .grouting →
          let line := s.meas.lines.get l
          let passes := r.passes.modify (c.position - 1) fun e =>
            { e with stop := some (stampTime s), volume := line.gated, peak := c.peak, limitEvents := c.limitEvents,
                     refusal := c.refusalReached }
          let total := ((passes.filter fun e => e.kind ≠ .post).map (·.volume)).sum
          let due := min (stampTime s + s.config.params.curePeriod * 60) 4294967295
          let cured := decide (c.kind = .post) || decide (minimumVolume r ≤ total)
          let new :=
            if cured then { r with passes := passes, stage := .curing, cureDue := some due }
            else { r with passes := passes, stage := .groutShort }
          ∃ t, exec (.injectEnd p pl) s = .next t ∧
            Accepted .injectEnd p
              (.injectEnd new.stage line.gated (if c.kind = .post then none else some total) new.cureDue)
              [.image r.imageSlot] [.stageChanged r.id (some .grouting) new.stage] [.grout, .anchors, .cure, .sections]
              s t ∧
            StageMoved r new s t ∧ t.grout = s.grout.set l none ∧ t.permits.get (linePermit l) = false ∧
            WatchFlagsSame s t) ∧
        ((r.stage ≠ .grouting ∨ s.grout.get l = none ∨ (∃ c, s.grout.get l = some c ∧ c.anchor ≠ r.id)) →
          ∃ t, exec (.injectEnd p pl) s = .next t ∧ Refused ReqKind.injectEnd.code p .wrongStage s t)

/-- At a second of a running line the open pass entry takes the gated volume and the peak; the image goes on the write list
only where one of them differed from the entry. That the row takes a second owed to the line, uses it up, and changes
nothing while
none is owed, is the model's choice (R91; log 6). -/
def Obligations.PassEntryFollowsLine : Prop :=
  ∀ (l : GLine) (s : State) (c : LineCtx) (r : AnchorRec) (e : PassEntry), s.grout.get l = some c →
    findAnchor s c.anchor = some r → r.passes[c.position - 1]? = some e →
    (s.time.refreshDue.get l ≠ 0 →
      ∃ t, exec (.passEntryRefresh l) s = .next t ∧
        Occurred
          (if e.volume = (s.meas.lines.get l).gated ∧ e.peak = c.peak then [] else [.image r.imageSlot])
          [] [.time, .anchors] s t ∧
        findAnchor t c.anchor = some
          { r with passes := r.passes.modify (c.position - 1) fun y =>
              { y with volume := (s.meas.lines.get l).gated, peak := c.peak } } ∧
        OtherAnchorsSame c.anchor s t ∧ WatchFlagsSame s t ∧
        t.time = { s.time with refreshDue := s.time.refreshDue.set l (s.time.refreshDue.get l - 1) }) ∧
    (s.time.refreshDue.get l = 0 → exec (.passEntryRefresh l) s = .next s)

/-! ## Sections and zones -/

/-- Set Hold writes a SURVEY record with the level, the reason and the present time on a section in use, in its place in the
order of the sources, leaves every other source's record and tells the change; Release Hold removes the record of its
source, and a section
without one is left as it is. A section's effective level is NONE without a record and otherwise the highest among its
records. A section outside 1..N, a level or source with no meaning, and STORE are refused BAD_VALUE (R33, R34, R35,
R36, R37; the places of the payloads log 9, the codes log 8). -/
def Obligations.HoldsAreSetAndReleased : Prop :=
  (∀ (s : State) (n : Nat),
    let rank : HoldLevel → Nat := fun lv => match lv with | .advisory => 1 | .stopNew => 2 | .stopAll => 3
    (effectiveLevel s n = none ↔ (sectionRec s n).data.holds = []) ∧
      ∀ lv, effectiveLevel s n = some lv → (∃ h ∈ (sectionRec s n).data.holds, h.level = lv) ∧
        ∀ h ∈ (sectionRec s n).data.holds, rank h.level ≤ rank lv) ∧
  ∀ (p : Port) (pl : List Byte) (s : State), TablesSized s →
    let n := fieldNat pl 0 1
    let old := sectionRec s n
    (Asked .setHold p pl s →
      (∀ lv, inSections s n = true → levelOfCode (fieldNat pl 1 1) = some lv →
        ∃ t holds, exec (.setHold p pl) s = .next t ∧ Accepted .setHold p .none [.sections]
            [.holdChanged n .survey (some lv) (effectiveLevel t n)] [.sections] s t ∧
          sectionRec t n = { old with data := { old.data with holds := holds } } ∧ OtherSectionsSame n s t ∧
          (holds.filter fun h => h.source = .survey) =
            [{ source := .survey, level := lv, time := stampTime s, reason := some (fieldNat pl 2 1) }] ∧
          (holds.filter fun h => h.source ≠ .survey) = (old.data.holds.filter fun h => h.source ≠ .survey) ∧
          ((old.data.holds.map fun h => sourceRank h.source).Pairwise (· < ·) →
            (holds.map fun h => sourceRank h.source).Pairwise (· < ·)) ∧ WatchFlagsSame s t) ∧
      ((inSections s n = false ∨ levelOfCode (fieldNat pl 1 1) = none) →
        ∃ t, exec (.setHold p pl) s = .next t ∧ Refused ReqKind.setHold.code p .badValue s t)) ∧
    (Asked .releaseHold p pl s →
      (∀ src, inSections s n = true → sourceOfCode (fieldNat pl 1 1) = some src → src ≠ .store →
        ∃ t, exec (.releaseHold p pl) s = .next t ∧
          Accepted .releaseHold p .none (if hasHold s n src then [.sections] else [])
            (if hasHold s n src then [.holdChanged n src none (effectiveLevel t n)] else []) [.sections] s t ∧
          sectionRec t n =
            { old with data := { old.data with holds := old.data.holds.filter fun h => h.source ≠ src } } ∧
          OtherSectionsSame n s t ∧ WatchFlagsSame s t) ∧
      ((inSections s n = false ∨ sourceOfCode (fieldNat pl 1 1) = none ∨
          sourceOfCode (fieldNat pl 1 1) = some .store) →
        ∃ t, exec (.releaseHold p pl) s = .next t ∧ Refused ReqKind.releaseHold.code p .badValue s t))

/-- Open Zone and Close Zone set the one flag of a zone 0..15 and, where it stood otherwise, put the configuration
block on the write list; a zone that stands so already is answered DONE with no change, one above 15 is refused
BAD_VALUE. Set Section stores the two pressures clamped into 50..5000 and the deflection limit into
0..50000, answers with them and touches no hold; a section outside 1..N is refused BAD_VALUE (R31, R40; the
places of the payloads log 9). -/
def Obligations.ZonesAndSectionLimitsAreSet : Prop :=
  ∀ (p : Port) (pl : List Byte) (s : State), TablesSized s →
    let n := fieldNat pl 0 1
    (Asked .openZone p pl s →
      (n ≤ 15 → ∃ t, exec (.openZone p pl) s = .next t ∧ 
        Accepted .openZone p .none (if zoneOpen s n = true then [] else [.config]) [] [.config] s t ∧
        t.config = { s.config with zones := t.config.zones } ∧
        (∀ z, zoneOpen t z = if z = n then true else zoneOpen s z) ∧ WatchFlagsSame s t) ∧
      (15 < n → ∃ t, exec (.openZone p pl) s = .next t ∧ Refused ReqKind.openZone.code p .badValue s t)) ∧
    (Asked .closeZone p pl s →
      (n ≤ 15 → ∃ t, exec (.closeZone p pl) s = .next t ∧ 
        Accepted .closeZone p .none (if zoneOpen s n = false then [] else [.config]) [] [.config] s t ∧
        t.config = { s.config with zones := t.config.zones } ∧
        (∀ z, zoneOpen t z = if z = n then false else zoneOpen s z) ∧ WatchFlagsSame s t) ∧
      (15 < n → ∃ t, exec (.closeZone p pl) s = .next t ∧ Refused ReqKind.closeZone.code p .badValue s t)) ∧
    (Asked .setSection p pl s →
      (inSections s n = true →
        let press := max 50 (min 5000 (fieldNat pl 1 2))
        let refusal := max 50 (min 5000 (fieldNat pl 3 2))
        let defl := min 50000 (fieldNat pl 5 2)
        let old := sectionRec s n
        ∃ t, exec (.setSection p pl) s = .next t ∧
          Accepted .setSection p (.sectionLimits press refusal defl) [.sections] [] [.sections] s t ∧
          sectionRec t n =
            { old with
              data := { old.data with pressLimit := press, refusalPress := refusal, deflLimit := defl } } ∧
          OtherSectionsSame n s t ∧ WatchFlagsSame s t) ∧
      (inSections s n = false →
        ∃ t, exec (.setSection p pl) s = .next t ∧ Refused ReqKind.setSection.code p .badValue s t))

/-- Report Deflection stores the clamped value with the present time, sets the report age to 0 and clears the stale flag, and
writes a DEFLECTION hold at STOP_NEW where the limit is nonzero, exceeded, and the section has none, which is told;
limits, counts and
every other section stay. A section outside 1..N is refused BAD_VALUE. The stale flag is set when a section's age reaches
the period (or is none), never while the period is 0 (R35, R44, R45, R46). The effective
level in the notice of that hold, the one after its write and before a watch hold of the same report, is the model's choice
(log 32), as are the places of the payload (log 9). -/
def Obligations.ReportsKeepSectionsFresh : Prop :=
  (∀ (p : Port) (pl : List Byte) (s : State), TablesSized s → Asked .reportDeflection p pl s →
    let n := fieldNat pl 0 1
    let v := max (-50000) (min 50000 (fieldInt pl 1 4))
    let old := (sectionRec s n).data
    (inSections s n = true →
      ∃ t ns, exec (.reportDeflection p pl) s = .next t ∧
        Accepted .reportDeflection p .none [.sections] ns [.sections, .watch] s t ∧
        (old.deflLimit ≠ 0 → old.deflLimit < v.natAbs → hasHold s n .deflection = false →
          .holdChanged n .deflection (some .stopNew) (levelMax (effectiveLevel s n) (some .stopNew)) ∈ ns) ∧
        (sectionRec t n).age = some 0 ∧ (sectionRec t n).stale = false ∧
        (sectionRec t n).data = { old with
          lastDeflection := some { value := v, time := stampTime s }, holds := (sectionRec t n).data.holds } ∧
        ((sectionRec t n).data.holds.filter fun h => h.source = .deflection) =
          (if old.deflLimit ≠ 0 ∧ old.deflLimit < v.natAbs ∧ hasHold s n .deflection = false then
            [{ source := .deflection, level := .stopNew, time := stampTime s, reason := none }]
          else old.holds.filter fun h => h.source = .deflection) ∧
        OtherSectionsSame n s t) ∧
    (inSections s n = false →
      ∃ t, exec (.reportDeflection p pl) s = .next t ∧ Refused ReqKind.reportDeflection.code p .badValue s t)) ∧
    ∀ (s : State) (n : Nat), TablesSized s → 1 ≤ n → n ≤ 64 →
      let period := s.config.params.stalePeriod
      (period ≠ 0 → (sectionRec s n).stale = false →
        ((sectionRec s n).age = none ∨ ∃ a, (sectionRec s n).age = some a ∧ period ≤ a) →
        ∃ t, exec (.sectionStale n) s = .next t ∧ sectionRec t n = { sectionRec s n with stale := true } ∧
          OtherSectionsSame n s t ∧ OnlyChanges [.sections] s t) ∧
      ((period = 0 ∨ ∃ a, (sectionRec s n).age = some a ∧ a < period) → exec (.sectionStale n) s = .next s)

/-! ## Parameters and the schedule table -/

/-- Set Parameter brings the value into its parameter's range (a staleness period of 1..29 becoming 30), stores it and
answers with what it stored; every other parameter stays. A lowered section count returns the sections above it to their
defaults and tells every hold they lose, and a staleness period re-evaluates every stale flag. A section count below an
anchor's section is refused
BAD_VALUE, a chain mode while a channel is ENABLED CONFIG_LOCKED, an undefined parameter BAD_VALUE (R206, R30, R35, R47, R167;
the effective level those notices carry log 32, the places of the payload log 9). -/
def Obligations.SetParameterStoresClampedValue : Prop :=
  (∀ k lo hi, (k, lo, hi) ∈
      ([(.sectionCount, 2, 64), (.curePeriod, 60, 20160), (.windowMin, 120, 4320), (.windowMax, 120, 4320),
        (.jacking, 50, 300), (.tendonTol, 20, 1000), (.winchLimit, 10, 1000), (.reachBand, 5, 50), (.holdBand, 10, 50),
        (.offBandVoid, 10, 300), (.pauseVoid, 60, 3600), (.reholdMax, 0, 5), (.liftThreshold, 5, 200),
        (.liftTol, 10, 100), (.relockMax, 0, 3), (.freeLower, 800, 1000), (.bondShare, 0, 1000),
        (.extDisagree, 10, 500), (.loadTol, 20, 200), (.stagger, 0, 4), (.chainMode, 0, 3)]
        : List (ParamId × Int × Int)) →
    ∀ v : Int, (clampParam k v : Int) = max lo (min hi v)) ∧
  (∀ v : Int, (clampParam .stalePeriod v : Int) = if v ≤ 0 then 0 else max 30 (min 3600 v)) ∧
  ∀ (p : Port) (pl : List Byte) (s : State), Asked .setParameter p pl s →
    (paramOfCode (fieldNat pl 0 1) = none →
      ∃ t, exec (.setParameter p pl) s = .next t ∧ Refused ReqKind.setParameter.code p .badValue s t) ∧
    ∀ k, paramOfCode (fieldNat pl 0 1) = some k →
      let v := clampParam k (fieldInt pl 1 4)
      let failing := firstFailing
        [(decide (k = .sectionCount) && s.anchors.any (fun r => decide (v < r.id.sect)), .badValue),
         (decide (k = .chainMode) && allWatches.any (fun w => (s.watch.get w).enabled), .configLocked)]
      (∀ c, failing = some c →
        ∃ t, exec (.setParameter p pl) s = .next t ∧ Refused ReqKind.setParameter.code p c s t) ∧
      (failing = none → TablesSized s →
        ∃ t, exec (.setParameter p pl) s = .next t ∧
          Accepted .setParameter p (.value v)
            (if k = .sectionCount ∧ v < s.config.params.sectionCount then [.config, .sections] else [.config])
            (if k = .sectionCount then removedHolds s (droppedSections s.config.params.sectionCount v) else [])
            [.config, .sections] s t ∧
          t.config = { s.config with params := t.config.params } ∧ t.config.params.get k = v ∧
          (∀ j, j ≠ k → t.config.params.get j = s.config.params.get j) ∧ WatchFlagsSame s t ∧
          ∀ n, 1 ≤ n → n ≤ 64 → sectionRec t n =
            if k = .sectionCount ∧ v < n ∧ n ≤ s.config.params.sectionCount then SectionRec.default
            else if k = .stalePeriod then { sectionRec s n with stale := ageStale v (sectionRec s n).age }
            else sectionRec s n)

/-- Write Step stores a step record whose fields lie in their ranges, and Set Schedule Head a head; every head is validated
again and the three results are answered. An index above 63, an undefined kind or a field out of range is refused BAD_VALUE,
a step in use or the walked head SCHEDULE_IN_USE (R103, R106 to R109, R114; the places of the payloads log 9,
the codes logs 8 and 36, the bytes a step kind does not use log 37). -/
def Obligations.ScheduleEditsRevalidateHeads : Prop :=
  ∀ (p : Port) (pl : List Byte) (s : State),
    (Asked .writeStep p pl s →
      let i := fieldNat pl 0 1
      let record := (stepKindOfCode (fieldNat pl 1 1)).bind fun k => stepOfPayload k pl
      let failing := firstFailing [(decide (64 ≤ i), .badValue), (record.isNone, .badValue), (stepInUse s i, .scheduleInUse)]
      (∀ c, failing = some c → ∃ t, exec (.writeStep p pl) s = .next t ∧ Refused ReqKind.writeStep.code p c s t) ∧
      ∀ r, failing = none → record = some r →
        ∃ t, exec (.writeStep p pl) s = .next t ∧
          Accepted .writeStep p (.heads (headAnswers t.results)) [.schedule] [] [.schedule, .results] s t ∧
          t.schedule = { s.schedule with steps := s.schedule.steps.set i r } ∧
          (∀ c, t.results.get c = validateHead t.schedule (t.schedule.heads.get c)) ∧ WatchFlagsSame s t) ∧
    (Asked .setScheduleHead p pl s →
      (∀ c h, classOfCode (fieldNat pl 0 1) = some c → linkOfCode (fieldNat pl 1 1) = some h →
        (headWalked s c = false →
          ∃ t, exec (.setScheduleHead p pl) s = .next t ∧
            Accepted .setScheduleHead p (.heads (headAnswers t.results)) [.schedule] [] [.schedule, .results] s t ∧
            t.schedule = { s.schedule with heads := s.schedule.heads.set c h } ∧
            (∀ d, t.results.get d = validateHead t.schedule (t.schedule.heads.get d)) ∧ WatchFlagsSame s t) ∧
        (headWalked s c = true →
          ∃ t, exec (.setScheduleHead p pl) s = .next t ∧
            Refused ReqKind.setScheduleHead.code p .scheduleInUse s t)) ∧
      ((classOfCode (fieldNat pl 0 1) = none ∨ linkOfCode (fieldNat pl 1 1) = none) →
        ∃ t, exec (.setScheduleHead p pl) s = .next t ∧ Refused ReqKind.setScheduleHead.code p .badValue s t))

/-- A programme found VALID starts at its head with the one DATUM step, walks 6 to 24 steps along the next links, none of
them twice, and ends LOCK_OFF, LIFT_OFF, END, which stand nowhere else. A LOAD_TO goes above the top frame, onto at most
seven frames, and begins at most seven cycles; a HOLD stands after a LOAD_TO alone; an UNLOAD_TO goes below the top frame and
not below the datum; LOCK_OFF is walked with the datum frame alone, after an UNLOAD_TO to the datum that took off a frame of
1000 per mille or more. Its walk count is the sum of the entries of its steps (R109 to R112). -/
def Obligations.ValidProgrammesHaveTheirShape : Prop :=
  ∀ (sch : ScheduleData) (h : Nat) (path : List Nat) (n : Nat), validateHead sch (some h) = .valid path n →
    path.head? = some h ∧ 6 ≤ path.length ∧ path.length ≤ 24 ∧ path.Nodup ∧ (stepAt sch h).kind = .datum ∧
    (∀ i ∈ path.tail, (stepAt sch i).kind ≠ .datum) ∧
    (∀ pre a b post, path = pre ++ a :: b :: post →
      (stepAt sch a).next = some b ∧ ((stepAt sch b).kind = .hold → (stepAt sch a).kind = .loadTo)) ∧
    (∃ pre a b c, path = pre ++ [a, b, c] ∧ (stepAt sch a).kind = .lockOff ∧ (stepAt sch b).kind = .liftOff ∧
      (stepAt sch c).kind = .endStep ∧
      ∀ i ∈ pre, (stepAt sch i).kind ≠ .lockOff ∧ (stepAt sch i).kind ≠ .liftOff ∧ (stepAt sch i).kind ≠ .endStep) ∧
    (∀ pre i post, path = pre ++ i :: post →
      let stack := (programmeWalk sch pre).stack
      (∀ f nx, stepAt sch i = .loadTo f nx → stack.length ≤ 7 ∧ ∃ top, stack.head? = some top ∧ top < f) ∧
      (∀ f nx, stepAt sch i = .unloadTo f nx →
        (∃ top, stack.head? = some top ∧ f < top) ∧ ∃ datum, stack.getLast? = some datum ∧ datum ≤ f) ∧
      ((stepAt sch i).kind = .lockOff → stack.length = 1 ∧
        ∃ before j after f nx, pre = before ++ j :: after ∧ stepAt sch j = .unloadTo f nx ∧
          (programmeWalk sch before).stack.getLast? = some f ∧
          ∃ g ∈ (programmeWalk sch before).stack, f < g ∧ 1000 ≤ g)) ∧
    (programmeWalk sch path).cycles ≤ 7 ∧ n = (programmeWalk sch path).entries

/-! ## The stressing session -/

/-- Stress Open is refused by the first check that fails, in the order of R118, with nothing changed. Accepted, it reserves
the worst-case number of pool entries, lowest first, opens the session at the head with the parameters captured, and takes
the anchor to STRESSING with a new test number and an empty result; the change and the first step are told. The stagger rule
passes with an allowance of 0, and otherwise where one more locked-off anchor would stay within the allowance above the count
of every neighbour in 1..N that still has an anchor of the tier to lock off (R10, R30, R43, R113, R115, R116, R118, R119,
R160; the places of the payload log 9). -/
def Obligations.StressOpenOpensSession : Prop :=
  (∀ (s : State) (a : AnchorId), staggerPasses s a = true ↔
    s.config.params.stagger = 0 ∨
      ∀ n, (n + 1 = a.sect ∨ n = a.sect + 1) → 1 ≤ n → n ≤ s.config.params.sectionCount →
        (∃ r ∈ s.anchors, r.id.sect = n ∧ r.id.tier = a.tier ∧ r.stage ≠ .lockedOff ∧ r.stage ≠ .abandoned) →
        lockedCount s a.sect a.tier + 1 ≤ lockedCount s n a.tier + s.config.params.stagger) ∧
  ∀ (p : Port) (pl : List Byte) (s : State), Asked .stressOpen p pl s →
    (findAnchor s (anchorField pl) = none →
      ∃ t, exec (.stressOpen p pl) s = .next t ∧ Refused ReqKind.stressOpen.code p .noSuchAnchor s t) ∧
    ∀ r d, findAnchor s (anchorField pl) = some r → r.design = some d →
      let head := s.results.get d.cls
      let area := fieldNat pl 2 2
      let want := head.walkCount.getD 0 + 3 * s.config.params.relockMax
      let failing := firstFailing
        [(s.session.isSome, .sessionBusy), (s.clock.time.isNone, .clockUnset),
         (decide (r.stage ≠ .stressable), .wrongStage), (anchorZoneClosed s r, .zoneClosed),
         (sectionHeld s r.id.sect, .sectionHeld), (sectionIsStale s r.id.sect, .deflectionStale),
         (!staggerPasses s r.id, .stagger), (head.walkCount.isNone, .scheduleInvalid),
         (equalTargets s.schedule d.tl [] head.path, .scheduleInvalid),
         (decide (area < 5000 ∨ 60000 < area), .badValue), (jackFaulted s.meas, .sensorFault),
         (decide (8192 - (s.pool.reserved.length + s.pool.used.length) < want), .poolExhausted)]
      (∀ c, failing = some c → ∃ t, exec (.stressOpen p pl) s = .next t ∧ Refused ReqKind.stressOpen.code p c s t) ∧
      ∀ now i f nx, failing = none → TablesSized s → s.clock.time = some now → head.path.head? = some i →
        stepAt s.schedule i = .datum f nx →
        let target := d.tl * f / 1000
        let band := max (target * s.config.params.reachBand / 1000) 10
        let number := (r.testNumber + 1) % 65536
        let opened : Session :=
          { anchor := r.id, cls := d.cls, head := i, step := i,
            lockStep := (head.path.find? fun j => (stepAt s.schedule j).kind = .lockOff).getD 0, area := area,
            captured := capturedNow s.config.params, phase := .opened, datum := none, stages := [], cycles := 0,
            relocks := 0, reservation := want }
        let result : TestResult :=
          { verdict := none, lapp := none, creep := none, plock := none, plift := none, loss := none, readings := [],
            stamp := { number := number, time := now } }
        let new := { r with stage := .stressing, testNumber := number, reserved := want, result := some result }
        ∃ t, exec (.stressOpen p pl) s = .next t ∧
          Accepted .stressOpen p
            (.stressOpen want i target band) [.image r.imageSlot]
            [.stageChanged r.id (some .stressable) .stressing,
             .nextStep r.id { step := i, kind := .datum, target := some target, band := some band, phase := .opened }]
            [.session, .pool, .anchors, .cure, .sections] s t ∧
          StageMoved r new s t ∧ t.session = some opened ∧ t.pool.used = s.pool.used ∧
          t.pool.reserved.length = want ∧
          (∀ j ∈ t.pool.reserved, j < 8192 ∧ j ∉ s.pool.used.map (·.index) ∧
            ∀ m, m < j → m ∉ s.pool.used.map (·.index) → m ∈ t.pool.reserved) ∧ WatchFlagsSame s t

/-- Advance is refused by the first check that fails, in the order of R125: no session, a hold running, another phase than
OPENED or APPROACH, PAUSED, a fault (or a fault before PAUSED: which of the two answers is left open, log 38), a closed
zone at a LOAD_TO, a load out of band. Accepted at a DATUM, LOAD_TO or
LOCK_OFF step it takes the arrival reading into the lowest reserved entry and carries the step out: the datum frame, a stage
frame, or RELEASE_WAIT; a step it moves to is told (R117, R122, R123, R125, R126, R145, R146, R160). -/
def Obligations.AdvanceCarriesOutStep : Prop :=
  ∀ (p : Port) (pl : List Byte) (s : State), Asked .advance p pl s →
    (s.session = none → ∃ t, exec (.advance p pl) s = .next t ∧ Refused ReqKind.advance.code p .noSession s t) ∧
    ∀ x r res, s.session = some x → findAnchor s x.anchor = some r → r.result = some res →
      (∀ h, x.phase = .holding h →
        ∃ t, exec (.advance p pl) s = .next t ∧ Refused ReqKind.advance.code p .holdRunning s t) ∧
      ((x.phase = .releaseWait ∨ ∃ l, x.phase = .liftoff l) →
        ∃ t, exec (.advance p pl) s = .next t ∧ Refused ReqKind.advance.code p .wrongPhase s t) ∧
      ∀ k, (x.phase = .opened ∨ x.phase = .approach) → arrivalKind (stepAt s.schedule x.step) = some k →
        let here := stepAt s.schedule x.step
        let load := channelValue s.meas .load
        let ext := s.meas.extension
        let target := match here with
          | .datum f _ | .loadTo f _ | .unloadTo f _ => testLoad s x.anchor * f / 1000
          | _ => lockLoad s x.anchor
        let band := max (target * x.captured.reachBand / 1000) 10
        let failing := firstFailing
          [(jackFaulted s.meas && Config.faultBeforePaused, .sensorFault), (!s.permits.jack, .paused),
           (jackFaulted s.meas, .sensorFault),
           (decide (here.kind = .loadTo) && anchorZoneClosed s r, .zoneClosed),
           (decide (target + band < load ∨ load + band < target), .targetNotReached)]
        (∀ c, failing = some c → ∃ t, exec (.advance p pl) s = .next t ∧ Refused ReqKind.advance.code p c s t) ∧
        ∀ i rest, failing = none → s.pool.reserved = i :: rest → here.kind ≠ .unloadTo →
          let entry : PoolEntry :=
            { owner := r.id, position := res.readings.length + 1, stamp := res.stamp,
              body := some { kind := k, time := stampTime s, load := load, ext := ext, summary := none } }
          ∃ t, exec (.advance p pl) s = .next t ∧
            Accepted .advance p
              (.advance { kind := k, load := load, ext := ext, time := stampTime s } (t.session.map (stepInfo t)) none none)
              [.entry i, .image r.imageSlot]
              (match here with
                | .lockOff _ => []
                | _ => (t.session.map fun y => .nextStep x.anchor (stepInfo t y)).toList)
              [.session, .pool, .anchors] s t ∧
            findAnchor t x.anchor = some
              { r with reserved := r.reserved - 1
                       result := some { res with readings := res.readings ++ [.entry i] } } ∧
            OtherAnchorsSame x.anchor s t ∧ WatchFlagsSame s t ∧
            t.pool.reserved = rest ∧ tableGet t.pool.used i = some entry ∧
            (∀ f j, here = .datum f (some j) →
              t.session = some
                { x with step := j, phase := phaseAt (stepAt s.schedule j), reservation := x.reservation - 1,
                         datum := some { fraction := f, target := target, load0 := load, ext0 := ext } }) ∧
            (∀ f j, here = .loadTo f (some j) →
              let cycle := match x.stages with | [] => x.cycles + 1 | top :: _ => top.cycle
              let frame : StageFrame :=
                { fraction := f, target := target, cycle := cycle, arrival := i, holdReadings := [],
                  critical := decide (1000 ≤ f), creepExtended := false, holdDone := false, rehold := 0, ks := none,
                  ks2 := none }
              t.session = some
                { x with step := j, phase := phaseAt (stepAt s.schedule j), reservation := x.reservation - 1,
                         stages := frame :: x.stages, cycles := if x.stages = [] then x.cycles + 1 else x.cycles }) ∧
            (∀ nx, here = .lockOff nx →
              t.session = some { x with phase := .releaseWait, reservation := x.reservation - 1 })

/-- An Advance at an UNLOAD_TO is accepted, pops every frame above its fraction, top first, each with a summary, after the
arrival reading, and answers with the number popped. Popping a CRITICAL frame at the datum fraction evaluates the
apparent free length: below a load drop of 500 the
test is not evaluable, a recovery of 0 or less gives 0, otherwise EA × δe ÷ (100 × ΔP) rounded half up and clamped, judged
against its two bounds; a fail verdict is answered and told, ends the session and fails the anchor, and otherwise the session
goes on to a step that is told (R10, R124, R126, R137, R149 to R152, R157). -/
def Obligations.UnloadPopsFramesAndEvaluates : Prop :=
  ∀ (p : Port) (pl : List Byte) (s : State) (x : Session) (r : AnchorRec) (res : TestResult) (g : Geometry) (f j i : Nat)
    (dat : DatumFrame), Asked .advance p pl s → TablesSized s → s.session = some x → findAnchor s x.anchor = some r →
    r.result = some res → r.geometry = some g → (x.phase = .opened ∨ x.phase = .approach) →
    stepAt s.schedule x.step = .unloadTo f (some j) → x.datum = some dat →
    s.permits.jack = true → jackFaulted s.meas = false →
    let load := channelValue s.meas .load
    let ext := s.meas.extension
    let target := testLoad s x.anchor * f / 1000
    let band := max (target * x.captured.reachBand / 1000) 10
    let popped := x.stages.takeWhile fun q => f < q.fraction
    let kept := x.stages.dropWhile fun q => f < q.fraction
    let taken := s.pool.reserved.take (1 + popped.length)
    load ≤ target + band → target ≤ load + band → taken.length = 1 + popped.length → taken.head? = some i →
    s.pool.reserved.Nodup → (∀ m ∈ s.pool.reserved, tableGet s.pool.used m = none) →
    (∀ q ∈ popped, tableGet s.pool.used (q.holdReadings.getLast?.getD q.arrival) ≠ none) →
    let evaluates := decide (f = dat.fraction) && popped.any (·.critical)
    let gone : Session :=
      { x with step := j, phase := phaseAt (stepAt s.schedule j), stages := kept,
               reservation := x.reservation - (1 + popped.length) }
    let readings := res.readings ++ taken.map .entry
    let answer (t : State) (v : Option Verdict) : AnswerData :=
      .advance { kind := .unloadArrival, load := load, ext := ext, time := stampTime s } (t.session.map (stepInfo t))
        (some popped.length) v
    let goesOn (t : State) : Prop :=
      Accepted .advance p (answer t none) (taken.map .entry ++ [.image r.imageSlot]) [.nextStep x.anchor (stepInfo t gone)]
        [.session, .pool, .anchors] s t
    ∃ t, exec (.advance p pl) s = .next t ∧ PermitsExact t ∧
      OnlyChanges ([.session, .pool, .anchors, .cure, .sections] ++ endParts) s t ∧
      tableGet t.pool.used i = some
        { owner := r.id, position := res.readings.length + 1, stamp := res.stamp,
          body := some { kind := .unloadArrival, time := stampTime s, load := load, ext := ext, summary := none } } ∧
      (∀ n q m, popped[n]? = some q → taken[n + 1]? = some m →
        tableGet t.pool.used m = some
          { owner := r.id, position := res.readings.length + 2 + n, stamp := res.stamp,
            body := some
              { kind := .summary, time := stampTime s, load := (frameEnd s q).1, ext := (frameEnd s q).2
                summary := some
                  { target := q.target, cycle := q.cycle, ks := q.ks, ks2 := q.ks2, rehold := q.rehold
                    permanent := if n = 0 ∧ evaluates = true then some ((ext : Int) - dat.ext0) else none } } }) ∧
      (evaluates = false → goesOn t ∧ t.session = some gone ∧
        findAnchor t x.anchor = some
          { r with reserved := r.reserved - (1 + popped.length), result := some { res with readings := readings } }) ∧
      ∀ top, evaluates = true → popped.head? = some top →
        let dP : Int := ((frameEnd s top).1 : Int) - load
        let dE : Int := ((frameEnd s top).2 : Int) - ext
        let formed := if dE ≤ 0 then 0 else min 65535 ((g.ea * dE.toNat + 50 * dP.toNat) / (100 * dP.toNat))
        let verdict : Option Verdict :=
          if dP < 500 then some .failNotEvaluable
          else if formed < g.lfree * x.captured.freeLower / 1000 then some .failFreeLengthLow
          else if g.lfree + g.lbond * x.captured.bondShare / 1000 < formed then some .failFreeLengthHigh
          else none
        let lapp := if dP < 500 then res.lapp else some formed
        (verdict = none → goesOn t ∧ t.session = some gone ∧
          findAnchor t x.anchor = some
            { r with reserved := r.reserved - (1 + popped.length)
                     result := some { res with readings := readings, lapp := lapp } }) ∧
        ∀ v, verdict = some v →
          let failed := { r with
            stage := .failed, reserved := 0,
            result := some { res with readings := readings, lapp := lapp, verdict := some v } }
          t.session = none ∧ t.pool.reserved = [] ∧ t.permits.jack = false ∧ findAnchor t x.anchor = some failed ∧
            Accepted .advance p (answer t (some v)) (taken.map .entry ++ stageItems s r failed)
              (stageNotices s t r failed ++ [.sessionEnded x.anchor (.verdict v x.relocks)])
              [.session, .pool, .anchors, .cure, .sections] s t

/-- Release in RELEASE_WAIT records the lock-off load and a RELEASE reading and moves the session to the lift-off step with
a fresh lift-off context, PAUSED or not, and tells it; another phase is refused WRONG_PHASE, a faulted jack group
SENSOR_FAULT, no
session NO_SESSION (R120, R133). -/
def Obligations.ReleaseRecordsLockOffLoad : Prop :=
  ∀ (p : Port) (pl : List Byte) (s : State), Asked .release p pl s →
    (s.session = none → ∃ t, exec (.release p pl) s = .next t ∧ Refused ReqKind.release.code p .noSession s t) ∧
    ∀ x r res, s.session = some x → findAnchor s x.anchor = some r → r.result = some res →
      let failing := firstFailing
        [(decide (x.phase ≠ .releaseWait), .wrongPhase), (jackFaulted s.meas, .sensorFault)]
      (∀ c, failing = some c → ∃ t, exec (.release p pl) s = .next t ∧ Refused ReqKind.release.code p c s t) ∧
      ∀ i rest j, failing = none → s.pool.reserved = i :: rest → (stepAt s.schedule x.lockStep).next = some j →
        let load := channelValue s.meas .load
        let ext := s.meas.extension
        ∃ t, exec (.release p pl) s = .next t ∧
          Accepted .release p (.release load { kind := .release, load := load, ext := ext, time := stampTime s })
            [.entry i, .image r.imageSlot]
            (t.session.map fun y => .nextStep x.anchor (stepInfo t y)).toList [.session, .pool, .anchors] s t ∧
          findAnchor t x.anchor = some
            { r with reserved := r.reserved - 1
                     result := some { res with plock := some load, readings := res.readings ++ [.entry i] } } ∧
          OtherAnchorsSame x.anchor s t ∧ WatchFlagsSame s t ∧ t.pool.reserved = rest ∧
          tableGet t.pool.used i = some
            { owner := r.id, position := res.readings.length + 1, stamp := res.stamp,
              body := some { kind := .release, time := stampTime s, load := load, ext := ext, summary := none } } ∧
          t.session = some
            { x with step := j, phase := .liftoff { lowSeen := false, ref := none }, reservation := x.reservation - 1 }

/-- Stress Abort and Stop Session close the session from every phase: with a CRITICAL frame on the stack the anchor becomes
STRESS_INTERRUPTED and keeps its result and readings, otherwise STRESSABLE, its result removed and its readings released;
the reservation is released, JACK deasserted, and the change and the end told. Without a session they are refused
NO_SESSION (R10, R138,
R139). -/
def Obligations.AbortOrStopClosesSession : Prop :=
  ∀ (k : ReqKind) (p : Port) (pl : List Byte) (s : State), (k = .stressAbort ∨ k = .stopSession) → Asked k p pl s →
    (s.session = none → ∃ t, exec (requestOf k p pl) s = .next t ∧ Refused k.code p .noSession s t) ∧
    ∀ x r res, TablesSized s → s.session = some x → findAnchor s x.anchor = some r → r.result = some res →
      let critical := x.stages.any (·.critical)
      let new :=
        if critical then { r with stage := .stressInterrupted, reserved := 0 }
        else { r with stage := .stressable, reserved := 0, result := none }
      ∃ t, exec (requestOf k p pl) s = .next t ∧
        Accepted k p (.stage new.stage) (stageItems s r new)
          (stageNotices s t r new ++ [.sessionEnded x.anchor (if k = .stressAbort then .abort else .stop)])
          [.session, .pool, .anchors, .cure, .sections] s t ∧
        StageMoved r new s t ∧ t.session = none ∧ t.pool.reserved = [] ∧
        t.pool.used = (if critical then s.pool.used
          else s.pool.used.filter fun e => !res.readings.contains (.entry e.index)) ∧
        t.permits.jack = false ∧ WatchFlagsSame s t

/-- A hold runs in the sample sets in which the jack group is sound, JACK up and the load in the hold band. At a reading
point it takes a HOLD reading, tells it, and takes the lowest reserved entry into the anchor's reading list. At D the creep
between the first and the fifth reading decides, unless the creep limit is 0, and at 10D that between the fifth and the
ninth: the hold completes and is told, goes on extended, or the session ends FAIL_CREEP; the deciding value is written on a
CRITICAL frame. A fault, a pause or time out of band past its limit voids a begun attempt: its readings leave the list and
the pool's USED entries for the reservation, and the hold starts again, or, past the rehold maximum, the session ends
FAIL_HOLD_UNSTABLE. Short of that limit the time is counted, and a hold that has not begun waits. `u` is the state as the
sample set reaches the stressing engine; no line injects the anchor under test (R117, R127 to R132, R147, R148, R160; the
rows are that sample set by log 4, the order inside it log 10). -/
def Obligations.HoldsReadAndVoidAtSampleSets : Prop :=
  ∀ (x : SampleIn) (s : State) (y : Session) (top : StageFrame) (rest : List StageFrame) (h : HoldCtx) (r : AnchorRec)
    (res : TestResult), TablesSized s → s.session = some y → y.phase = .holding h → y.stages = top :: rest →
    findAnchor s y.anchor = some r → r.result = some res → (∀ l c, s.grout.get l = some c → c.anchor ≠ y.anchor) →
    let u := (watchedEvent x s).st
    let load := channelValue u.meas .load
    let band := max (top.target * y.captured.holdBand / 1000) 10
    let faulted := jackFaulted u.meas
    let paused := !lineUp u .jack
    let out := decide (top.target + band < load ∨ load + band < top.target)
    let runs := faulted = false ∧ paused = false ∧ out = false
    let point := pointFactor h.nextPoint * h.duration
    let pauseOver := faulted = false ∧ paused = true ∧ y.captured.pauseVoid * 100 < h.pause + 1
    let outOver := faulted = false ∧ paused = false ∧ out = true ∧ y.captured.offBandVoid * 100 < h.offBand + 1
    let keeps (t : State) (y' : Session) : Prop :=
      t.session = some y' ∧ t.pool = s.pool ∧ findAnchor t y.anchor = some r ∧ PermitsExact t ∧
        OnlyChanges (sampleParts ++ endParts) s t
    (∀ i more, s.pool.reserved = i :: more → tableGet s.pool.used i = none → runs → h.elapsed + 1 = point →
      let filled : TestResult := { res with readings := res.readings ++ [.entry i] }
      let judged (k : Int) : TestResult := if top.critical then { filled with creep := some k } else filled
      let read := { top with holdReadings := top.holdReadings ++ [i] }
      let on := { h with begun := true, elapsed := h.elapsed + 1, pause := 0, nextPoint := h.nextPoint + 1 }
      ∃ t, exec (.holdPointReading x) s = .next t ∧ exec (.sampleSet x) s = .next t ∧ PermitsExact t ∧
        OnlyChanges (sampleParts ++ endParts) s t ∧
        Tells [.holdReading y.anchor top.target h.nextPoint (point / 100) load u.meas.extension] s t ∧
        tableGet t.pool.used i = some
          { owner := r.id, position := res.readings.length + 1, stamp := res.stamp,
            body := some
              { kind := .holdPoint, time := stampTime s, load := load, ext := u.meas.extension, summary := none } } ∧
        (∀ j, j ≠ i → tableGet t.pool.used j = tableGet s.pool.used j) ∧
        let goesOn (frame : StageFrame) (result : TestResult) : Prop :=
          t.session = some { y with
            stages := frame :: rest, phase := .holding on, reservation := y.reservation - 1 } ∧
          t.pool.reserved = more ∧
          findAnchor t y.anchor = some { r with reserved := r.reserved - 1, result := some result }
        let completes (frame : StageFrame) (result : TestResult) : Prop :=
          ∀ j, (stepAt s.schedule y.step).next = some j →
            t.session = some
              { y with stages := { frame with holdDone := true } :: rest, step := j
                       phase := phaseAt (stepAt s.schedule j), reservation := y.reservation - 1 } ∧
            t.pool.reserved = more ∧
            findAnchor t y.anchor = some { r with reserved := r.reserved - 1, result := some result } ∧
            Tells [.holdComplete y.anchor top.target frame.holdReadings.length frame.ks frame.ks2 top.rehold,
              .nextStep y.anchor (stepInfo t { y with
                stages := { frame with holdDone := true } :: rest, step := j,
                phase := phaseAt (stepAt s.schedule j), reservation := y.reservation - 1 })] s t
        let fails (result : TestResult) : Prop :=
          t.session = none ∧ t.pool.reserved = [] ∧ t.permits.jack = false ∧
          findAnchor t y.anchor = some
            { r with stage := .failed, reserved := 0, result := some { result with verdict := some .failCreep } } ∧
          Tells [.stageChanged y.anchor (some r.stage) .failed,
            .sessionEnded y.anchor (.verdict .failCreep y.relocks)] s t
        (h.nextPoint ≠ 5 → h.nextPoint ≠ 9 → goesOn read filled) ∧
        (h.nextPoint = 5 → h.limit = 0 → completes read filled) ∧
        (∀ a, h.nextPoint = 5 → h.limit ≠ 0 → top.holdReadings.length = 4 → top.holdReadings.head? = some a →
          tableGet s.pool.used a ≠ none →
          let ks : Int := (u.meas.extension : Int) - (entryValues s a).2
          (ks ≤ h.limit → completes { read with ks := some ks } (judged ks)) ∧
          ((h.limit : Int) < ks → h.extendable = true → top.creepExtended = false →
            goesOn { read with ks := some ks, creepExtended := true } filled) ∧
          ((h.limit : Int) < ks → (h.extendable = false ∨ top.creepExtended = true) → fails (judged ks))) ∧
        ∀ a, h.nextPoint = 9 → top.holdReadings.length = 8 → top.holdReadings[4]? = some a →
          tableGet s.pool.used a ≠ none →
          let ks2 : Int := (u.meas.extension : Int) - (entryValues s a).2
          (ks2 ≤ h.limit → completes { read with ks2 := some ks2 } (judged ks2)) ∧
          ((h.limit : Int) < ks2 → fails (judged ks2))) ∧
    (∀ before, h.begun = true → res.readings = before ++ top.holdReadings.map .entry →
      (faulted = true ∨ pauseOver ∨ outOver) →
      let cause := if faulted then VoidCause.fault else if paused then .pause else .offBand
      ∃ t, exec (.holdVoid x) s = .next t ∧ exec (.sampleSet x) s = .next t ∧ PermitsExact t ∧
        OnlyChanges (sampleParts ++ endParts) s t ∧
        t.pool.used = (s.pool.used.filter fun e => !top.holdReadings.contains e.index) ∧
        (top.rehold < y.captured.reholdMax →
          let fresh : HoldCtx :=
            { duration := h.duration, limit := h.limit, extendable := h.extendable, begun := false, elapsed := 0,
              offBand := 0, pause := 0, nextPoint := 1 }
          let again := { top with holdReadings := [], creepExtended := false, ks := none, rehold := top.rehold + 1 }
          t.session = some
            { y with stages := again :: rest, phase := .holding fresh
                     reservation := y.reservation + top.holdReadings.length } ∧
          (∀ j, j ∈ t.pool.reserved ↔ j ∈ s.pool.reserved ∨ j ∈ top.holdReadings) ∧
          (s.pool.reserved.Pairwise (· < ·) → t.pool.reserved.Pairwise (· < ·)) ∧
          findAnchor t y.anchor = some
            { r with reserved := r.reserved + top.holdReadings.length, result := some { res with readings := before } } ∧
          Tells [.holdVoid y.anchor top.target cause (top.rehold + 1)] s t) ∧
        (y.captured.reholdMax ≤ top.rehold →
          t.session = none ∧ t.pool.reserved = [] ∧ t.permits.jack = false ∧
          findAnchor t y.anchor = some
            { r with stage := .failed, reserved := 0
                     result := some { res with readings := before, verdict := some .failHoldUnstable } } ∧
          Tells [.holdVoid y.anchor top.target cause top.rehold, .stageChanged y.anchor (some r.stage) .failed,
            .sessionEnded y.anchor (.verdict .failHoldUnstable y.relocks)] s t)) ∧
    (runs → h.elapsed + 1 ≠ point →
      ∃ t, exec (.sampleSet x) s = .next t ∧
        keeps t { y with phase := .holding { h with begun := true, elapsed := h.elapsed + 1, pause := 0 } }) ∧
    (h.begun = true → faulted = false → paused = true → h.pause + 1 ≤ y.captured.pauseVoid * 100 →
      ∃ t, exec (.sampleSet x) s = .next t ∧ keeps t { y with phase := .holding { h with pause := h.pause + 1 } }) ∧
    (h.begun = true → faulted = false → paused = false → out = true → h.offBand + 1 ≤ y.captured.offBandVoid * 100 →
      ∃ t, exec (.sampleSet x) s = .next t ∧
        keeps t { y with phase := .holding { h with pause := 0, offBand := h.offBand + 1 } }) ∧
    (h.begun = false → (faulted = true ∨ paused = true ∨ out = true) →
      ∃ t, exec (.sampleSet x) s = .next t ∧ keeps t y)

/-- In LIFTOFF a sample set with a sound jack group looks for the load falling below half the lock-off load, takes the
extension at its return as reference, and captures lift-off once the extension has grown by the threshold, which is told;
without a capture, a load above the overrun load is an overrun, which writes no lift-off load. Both take a LIFT_OFF reading.
A capture within tolerance is PASS: the loss is written and the anchor is LOCKED_OFF and counted. Otherwise a relock goes
back to the LOCK_OFF step while one is left, and then the verdict is FAIL_LOCKOFF. `u` is the state as the sample set reaches
the stressing engine (log 10); no line injects the anchor under test (R10, R134 to R137, R153 to R155). -/
def Obligations.LiftOffEndsTheTest : Prop :=
  ∀ (x : SampleIn) (s : State) (y : Session) (l : LiftCtx) (r : AnchorRec) (res : TestResult) (d : Design) (i : Nat)
    (more : List Nat), TablesSized s → s.session = some y → y.phase = .liftoff l → findAnchor s y.anchor = some r →
    r.result = some res → r.design = some d → r.stage = .stressing → s.pool.reserved = i :: more →
    (∀ l c, s.grout.get l = some c → c.anchor ≠ y.anchor) →
    let u := (watchedEvent x s).st
    let load := channelValue u.meas .load
    let ext := u.meas.extension
    let low := l.lowSeen || decide (load < d.ll / 2)
    let ref := if low = true ∧ l.ref = none ∧ d.ll / 2 ≤ load then some ext else l.ref
    let captured := match ref with | none => false | some e => decide (e + y.captured.liftThreshold ≤ ext)
    let within := decide ((load - d.ll + (d.ll - load)) * 1000 ≤ y.captured.liftTol * d.ll)
    let overrun := !captured && decide (d.ll * (1000 + 2 * y.captured.liftTol) / 1000 < load)
    let read : TestResult := { res with readings := res.readings ++ [.entry i] }
    let ended : TestResult := if captured then { read with plift := some load } else read
    jackFaulted u.meas = false →
    ∃ t, exec (.sampleSet x) s = .next t ∧ PermitsExact t ∧ OnlyChanges (sampleParts ++ endParts) s t ∧
      (captured = false → overrun = false →
        t.session = some { y with phase := .liftoff { lowSeen := low, ref := ref } } ∧ t.pool = s.pool ∧
        findAnchor t y.anchor = some r) ∧
      ((captured = true ∨ overrun = true) →
        tableGet t.pool.used i = some
          { owner := r.id, position := res.readings.length + 1, stamp := res.stamp,
            body := some { kind := .liftOff, time := stampTime s, load := load, ext := ext, summary := none } } ∧
        ∀ j, j ≠ i → tableGet t.pool.used j = tableGet s.pool.used j) ∧
      (captured = true → Tells [.liftoffCaptured y.anchor load d.ll y.relocks] s t) ∧
      (captured = true → within = true →
        t.session = none ∧ t.pool.reserved = [] ∧ t.permits.jack = false ∧
        lockedCount t y.anchor.sect y.anchor.tier = lockedCount s y.anchor.sect y.anchor.tier + 1 ∧
        findAnchor t y.anchor = some
          { r with stage := .lockedOff, reserved := 0
                   result := some
                     { ended with verdict := some .pass, loss := res.plock.map fun a => (a : Int) - load } } ∧
        Tells [.stageChanged y.anchor (some .stressing) .lockedOff,
          .sessionEnded y.anchor (.verdict .pass y.relocks)] s t) ∧
      (((captured = true ∧ within = false) ∨ overrun = true) → y.relocks < y.captured.relockMax →
        let relocked : Session :=
          { y with phase := .approach, step := y.lockStep, relocks := y.relocks + 1, reservation := y.reservation - 1 }
        t.session = some relocked ∧ t.pool.reserved = more ∧
        findAnchor t y.anchor = some { r with reserved := r.reserved - 1, result := some ended } ∧
        Tells [.nextStep y.anchor (stepInfo t relocked)] s t) ∧
      (((captured = true ∧ within = false) ∨ overrun = true) → y.captured.relockMax ≤ y.relocks →
        t.session = none ∧ t.pool.reserved = [] ∧ t.permits.jack = false ∧
        findAnchor t y.anchor = some
          { r with stage := .failed, reserved := 0, result := some { ended with verdict := some .failLockoff } } ∧
        Tells [.stageChanged y.anchor (some .stressing) .failed,
          .sessionEnded y.anchor (.verdict .failLockoff y.relocks)] s t)

/-! ## The watch unit -/

/-- Watch Configure replaces the configuration of a disabled channel whole, its numbers clamped, and answers with it;
Watch Threshold writes the threshold of a disabled channel and stages that of an ENABLED one. Neither changes another
channel. Configuring an ENABLED channel is refused CONFIG_LOCKED, and values without a meaning BAD_VALUE (R165, R170,
R171). -/
def Obligations.WatchSettingsAreStored : Prop :=
  (∀ (s : State) (w : WatchId) (pl : List Byte) (c : WatchConfig), configOfPayload s w pl = some c →
    c.persistence = max 1 (min 255 (fieldNat pl 12 1)) ∧ c.chainWindow = min 3600 (fieldNat pl 14 2) ∧
    (c.kind = .riseOver → w = .w4 ∧ c.riseWindow = some (max 1 (min 600 (fieldNat pl 4 2)))) ∧
    (c.kind ≠ .riseOver → c.riseWindow = none) ∧ c.threshold.matchesKind c.kind = true ∧
    match c.threshold with
    | .one v => (thresholdRange c.source c.kind).1 ≤ v ∧ v ≤ (thresholdRange c.source c.kind).2
    | .two lo hi =>
      (thresholdRange c.source c.kind).1 ≤ lo ∧ lo ≤ hi ∧ hi ≤ (thresholdRange c.source c.kind).2) ∧
  ∀ (p : Port) (pl : List Byte) (s : State),
    (Asked .watchConfigure p pl s →
      (watchOfCode (fieldNat pl 0 1) = none →
        ∃ t, exec (.watchConfigure p pl) s = .next t ∧ Refused ReqKind.watchConfigure.code p .badValue s t) ∧
      ∀ w, watchOfCode (fieldNat pl 0 1) = some w →
        ((s.watch.get w).enabled = true →
          ∃ t, exec (.watchConfigure p pl) s = .next t ∧ Refused ReqKind.watchConfigure.code p .configLocked s t) ∧
        ((s.watch.get w).enabled = false → configOfPayload s w pl = none →
          ∃ t, exec (.watchConfigure p pl) s = .next t ∧ Refused ReqKind.watchConfigure.code p .badValue s t) ∧
        ∀ c, (s.watch.get w).enabled = false → configOfPayload s w pl = some c →
          ∃ t, exec (.watchConfigure p pl) s = .next t ∧
            Accepted .watchConfigure p (.watchConfig c) [.config] [] [.config] s t ∧
            t.config = { s.config with watch := s.config.watch.set w c } ∧ WatchFlagsSame s t) ∧
    (Asked .watchThreshold p pl s →
      (watchOfCode (fieldNat pl 0 1) = none →
        ∃ t, exec (.watchThreshold p pl) s = .next t ∧ Refused ReqKind.watchThreshold.code p .badValue s t) ∧
      ∀ w, watchOfCode (fieldNat pl 0 1) = some w →
        (givenThreshold (s.config.watch.get w) pl = none →
          ∃ t, exec (.watchThreshold p pl) s = .next t ∧ Refused ReqKind.watchThreshold.code p .badValue s t) ∧
        ∀ th, givenThreshold (s.config.watch.get w) pl = some th →
          ((s.watch.get w).enabled = false →
            let written := { s.config.watch.get w with threshold := th }
            ∃ t, exec (.watchThreshold p pl) s = .next t ∧
              Accepted .watchThreshold p (.threshold th false) [.config] [] [.config] s t ∧
              t.config = { s.config with watch := s.config.watch.set w written } ∧ WatchFlagsSame s t) ∧
          ((s.watch.get w).enabled = true →
            ∃ t, exec (.watchThreshold p pl) s = .next t ∧
              Accepted .watchThreshold p (.threshold th true) [] [] [] s t ∧
              SameFlags (t.watch.get w) { s.watch.get w with staged := some th } ∧
              ∀ v, v ≠ w → SameFlags (t.watch.get v) (s.watch.get v)))

/-- Watch Enable enables a disabled channel and arms it where it is independent or the first member of a chain that is not
COMPLETE. Watch Disable clears an ENABLED channel, swaps in its staged threshold, releases its latch and, unless the chain
was COMPLETE, restarts its chain. Watch Rearm does so for the channel or its whole chain, without disabling, and arms the
first. The channels that a command enables, clears or restarts have a persistence count of 0, and those cleared or
restarted an empty snapshot history. A channel number outside 1..4, and for Watch Enable a section outside 1..N, are refused BAD_VALUE (R172 to R174). -/
def Obligations.WatchChannelsAreSwitched : Prop :=
  ∀ (p : Port) (pl : List Byte) (s : State),
    let chain := chainMembers s.config.params.chainMode
    (∀ k ∈ ([.watchEnable, .watchDisable, .watchRearm] : List ReqKind), Asked k p pl s →
      watchOfCode (fieldNat pl 0 1) = none →
      ∃ t, exec (requestOf k p pl) s = .next t ∧ Refused k.code p .badValue s t) ∧
    ∀ w, watchOfCode (fieldNat pl 0 1) = some w →
      (Asked .watchEnable p pl s →
        ((∃ n, (s.config.watch.get w).source = .deflection n ∧ inSections s n = false) →
          ∃ t, exec (.watchEnable p pl) s = .next t ∧ Refused ReqKind.watchEnable.code p .badValue s t) ∧
        ((∀ n, (s.config.watch.get w).source = .deflection n → inSections s n = true) →
          let armed := if chain.contains w then decide (chain.head? = some w) && !chainComplete s else true
          let switched :=
            if (s.watch.get w).enabled then s.watch.get w else { s.watch.get w with enabled := true, armed := armed }
          ∃ t, exec (.watchEnable p pl) s = .next t ∧ Accepted .watchEnable p .none [] [] [] s t ∧
            SameFlags (t.watch.get w) switched ∧ ((s.watch.get w).enabled = false → (t.watch.get w).count = 0) ∧
            ∀ v, v ≠ w → SameFlags (t.watch.get v) (s.watch.get v))) ∧
      (Asked .watchDisable p pl s →
        ((s.watch.get w).enabled = false →
          ∃ t, exec (.watchDisable p pl) s = .next t ∧ Accepted .watchDisable p .none [] [] [] s t ∧ WatchFlagsSame s t) ∧
        ((s.watch.get w).enabled = true →
          ∃ t, exec (.watchDisable p pl) s = .next t ∧
            Accepted .watchDisable p .none (if (s.watch.get w).staged.isSome then [.config] else []) []
              [.config] s t ∧
            t.config = { s.config with watch := s.config.watch.set w (swappedConfig s w) } ∧
            SameFlags (t.watch.get w)
              { s.watch.get w with
                enabled := false, armed := false, tripped := false, staged := none, window := none, latch := false } ∧
            Rested (t.watch.get w) ∧
            (∀ v, chain.contains w = true → chain.contains v = true → chainComplete s = false →
              Rested (t.watch.get v)) ∧
            ∀ v, v ≠ w → SameFlags (t.watch.get v)
              (if chain.contains w = true ∧ chain.contains v = true ∧ chainComplete s = false then
                { s.watch.get v with
                  armed := decide (chain.head? = some v) && (s.watch.get v).enabled, tripped := false, window := none }
              else s.watch.get v))) ∧
      (Asked .watchRearm p pl s →
        let acted := if chain.contains w then chain else [w]
        ∃ t, exec (.watchRearm p pl) s = .next t ∧
          Accepted .watchRearm p .none (if acted.any fun v => (s.watch.get v).staged.isSome then [.config] else [])
            [] [.config] s t ∧
          t.config = { s.config with watch := t.config.watch } ∧
          ∀ v, (v ∈ acted → t.config.watch.get v = swappedConfig s v ∧ Rested (t.watch.get v) ∧ SameFlags (t.watch.get v)
              { s.watch.get v with
                armed := decide (acted.head? = some v) && (s.watch.get v).enabled, tripped := false, staged := none,
                window := none, latch := false }) ∧
            (v ∉ acted → t.config.watch.get v = s.config.watch.get v ∧ SameFlags (t.watch.get v) (s.watch.get v)))

/-- A channel that evaluates on a new value trips when its comparison holds and completes its persistence. An action trip
writes the channel's hold on the related section and sets its drop latch, which deasserts the drop line, and tells both;
a step trip arms
the ENABLED successor with its whole window, less the second where the sample set is the last of one, and does neither: its
WATCHn holds and latch, and those of its successor, stand in every section as they stood. That its notice names no section,
level or drop line is the model's choice (log 16). The two rows are the trigger event in which the trip comes about
(R35, R164 to R166, R168, R169; log 4). The channels that evaluate are those evaluating as the event reaches the watch unit
(log 10), and a channel armed in an event starts with the next new value, so that the successor is still ARMED at its end
(log 11); the second as the last part of a sample set is log 6. -/
def Obligations.ChannelsTripOnPersistence : Prop :=
  ∀ (g : Trigger) (s u : State) (fed : WatchSource → Bool) (w : WatchId) (v : Int), TablesSized s →
    fedAt g s = some (u, fed) →
    let c := s.config.watch.get w
    evaluating u w = true → fed c.source = true → c.kind ≠ .riseOver → sourceValue u c.source = some v →
    comparisonHolds c.kind c.threshold v = true → c.persistence ≤ (u.watch.get w).count + 1 →
    (∀ q, watchSuccessor s q = some w → (s.watch.get q).armed = false) →
    (watchSuccessor s w = none →
      ∃ t, exec (.watchActionTrip w g) s = .next t ∧ (t.watch.get w).tripped = true ∧ (t.watch.get w).armed = false ∧
        (t.watch.get w).window = none ∧ (t.watch.get w).latch = ((s.watch.get w).latch || c.drop.isSome) ∧
        (∀ l, c.drop = some l → t.permits.get l = false) ∧
        (∀ lv n, c.level = some lv → relatedSection u c.source = some n → 1 ≤ n → n ≤ 64 →
          ∃ h ∈ (sectionRec t n).data.holds, h.source = watchHoldSource w ∧ h.level = lv ∧ h.time = stampTime s) ∧
        (∃ all, .watchTripped w true c.source v (heldSection c (relatedSection u c.source)) c.level c.drop ∈ all ∧
          (∀ lv n, c.level = some lv → relatedSection u c.source = some n →
            ∃ eff, .holdChanged n (watchHoldSource w) (some lv) eff ∈ all) ∧
          Told (triggerBase g s) all s t) ∧
        PermitsExact t) ∧
    ∀ q, watchSuccessor s w = some q → (s.watch.get q).armed = false →
      ∃ t, exec (.watchStepTrip w g) s = .next t ∧ (t.watch.get w).tripped = true ∧ (t.watch.get w).armed = false ∧
        (t.watch.get w).latch = (s.watch.get w).latch ∧ (t.watch.get q).armed = (s.watch.get q).enabled ∧
        (t.watch.get q).tripped = (s.watch.get q).tripped ∧ (t.watch.get q).latch = (s.watch.get q).latch ∧
        Rested (t.watch.get w) ∧ Rested (t.watch.get q) ∧ (t.watch.get w).window = none ∧
        (let gone := match g with
          | .sample _ => if 100 ≤ s.time.periods + 1 then 1 else 0
          | .flowRate | .report _ _ | .rise => 0
        let window := (s.config.watch.get q).chainWindow
        (s.watch.get q).enabled = true → (t.watch.get q).window = if window = 0 then none else some (window - gone)) ∧
        (∀ n m, 1 ≤ n → n ≤ 64 → (m = w ∨ m = q) →
          ((sectionRec t n).data.holds.filter fun h => h.source = watchHoldSource m) =
            (sectionRec s n).data.holds.filter fun h => h.source = watchHoldSource m) ∧
        (∃ all, .watchTripped w false c.source v none none none ∈ all ∧ Told (triggerBase g s) all s t) ∧
        PermitsExact t

/-- A chain whose armed successor has no window left lapses: every member loses its flags, its window, its persistence
count and its snapshot history, and the first member is armed if ENABLED. At a second of the RISE_OVER evaluation W4 joins the value to its history, keeps the last
w + 1, counts a rise above t over w seconds, and tells its trip (R165, R166, R168). The second that the row takes and
uses up, and the lapse as a row due at window 0, are the model's choice (log 6); the trip row .rise is that second (log 4). -/
def Obligations.ChainsLapseAndRisesAreCounted : Prop :=
  (∀ s : State,
    let chain := chainMembers s.config.params.chainMode
    ((∃ w ∈ chain, (s.watch.get w).armed = true ∧ (s.watch.get w).window = some 0) →
      ∃ t, exec .chainLapse s = .next t ∧ Occurred [] [] [] s t ∧ (∀ v ∈ chain, Rested (t.watch.get v)) ∧
        ∀ v, SameFlags (t.watch.get v)
          (if chain.contains v then
            { s.watch.get v with
              armed := decide (chain.head? = some v) && (s.watch.get v).enabled, tripped := false, window := none }
          else s.watch.get v)) ∧
    ((∀ w ∈ chain, (s.watch.get w).armed = false ∨ (s.watch.get w).window ≠ some 0) →
      exec .chainLapse s = .next s)) ∧
  ∀ (s : State) (win : Nat) (x v : Int), s.time.riseDue ≠ 0 → (s.config.watch.get .w4).kind = .riseOver →
    (∀ w, w ≠ .w4 → (s.config.watch.get w).kind ≠ .riseOver) → (s.config.watch.get .w4).riseWindow = some win →
    (s.config.watch.get .w4).threshold = .one x → evaluating s .w4 = true →
    sourceValue s (s.config.watch.get .w4).source = some v →
    let old := (s.watch.get .w4).history
    let history := (old ++ [v]).drop (old.length + 1 - (win + 1))
    let holds := decide (history.length = win + 1 ∧ x < v - history.headD 0)
    let count := if holds then (s.watch.get .w4).count + 1 else 0
    ∃ t, exec .riseOverEvaluation s = .next t ∧ t.time = { s.time with riseDue := s.time.riseDue - 1 } ∧ PermitsExact t ∧
      OnlyChanges ([.time, .watch, .sections] ++ endParts) s t ∧
      (count < (s.config.watch.get .w4).persistence →
        (t.watch.get .w4).history = history ∧ (t.watch.get .w4).count = count ∧ WatchFlagsSame s t) ∧
      (holds = true → (s.config.watch.get .w4).persistence ≤ count →
        (t.watch.get .w4).tripped = true ∧ (t.watch.get .w4).armed = false ∧ (t.watch.get .w4).count = 0 ∧
        exec (.watchActionTrip .w4 .rise) s = .next t ∧
        Tells [.watchTripped .w4 true (s.config.watch.get .w4).source v
          (heldSection (s.config.watch.get .w4) (relatedSection s (s.config.watch.get .w4).source))
          (s.config.watch.get .w4).level (s.config.watch.get .w4).drop] s t)

/-! ## The record store -/

/-- An IDLE writer without POWER_WARNING, past the start-up scan, takes the oldest item off the list with its content as it
stands; a directory goes to the copy with the lower number, one above the other. At completion the content is stored, a
noted item rejoins the tail, and the writer is IDLE, or writes the warning mark it owes, or is HELD while the warning stands
(R65, R180 to R184; log 22). An image or entry whose subject is gone leaves the stored item as it is (log 17). -/
def Obligations.WriterTakesItemsInOrder : Prop :=
  (∀ (s : State) (i : Item) (rest : List Item), s.recorder.list = i :: rest →
    (s.recorder.writer = .idle → s.supply.warning = false → s.recorder.causeDue = false →
      (jobOf s i).item = i ∧
      exec .itemWriteBegin s =
        .next { s with recorder := { s.recorder with writer := .writing (jobOf s i) false, list := rest } }) ∧
    ((s.recorder.writer ≠ .idle ∨ s.supply.warning = true ∨ s.recorder.causeDue = true) →
      exec .itemWriteBegin s = .next s)) ∧
  (∀ (s : State) (a b : DirCopy), s.store.dirFirst = some a → s.store.dirSecond = some b →
    (b.seq < a.seq → jobOf s .directory = .directory false { seq := a.seq + 1, slots := directorySlots s }) ∧
    (a.seq < b.seq → jobOf s .directory = .directory true { seq := b.seq + 1, slots := directorySlots s })) ∧
  (∀ s : State, jobOf s .sections = .sections (s.sections.map (·.data)) ∧ jobOf s .config = .config s.config ∧
    jobOf s .schedule = .schedule s.schedule ∧ jobOf s .mark = .mark (stampTime s) ∧
    (∀ n, jobOf s (.image n) = .image n (s.anchors.find? fun r => r.imageSlot = n)) ∧
    ∀ i, jobOf s (.entry i) = .entry i (tableGet s.pool.used i)) ∧
  (∀ st : Store,
    (∀ n r, storeJob st (.image n (some r)) = { st with images := (storeJob st (.image n (some r))).images } ∧
      ∀ m, tableGet (storeJob st (.image n (some r))).images m = if m = n then some r else tableGet st.images m) ∧
    (∀ i e, storeJob st (.entry i (some e)) = { st with entries := (storeJob st (.entry i (some e))).entries } ∧
      ∀ m, tableGet (storeJob st (.entry i (some e))).entries m = if m = i then some e else tableGet st.entries m) ∧
    (∀ c, storeJob st (.directory true c) = { st with dirFirst := some c } ∧
      storeJob st (.directory false c) = { st with dirSecond := some c }) ∧
    (∀ c, storeJob st (.sections c) = { st with sections := some c }) ∧
    (∀ c, storeJob st (.config c) = { st with config := some c }) ∧
    (∀ c, storeJob st (.schedule c) = { st with schedule := some c }) ∧
    (∀ c, storeJob st (.mark c) = { st with mark := some c }) ∧
    ∀ n, storeJob st (.image n none) = st ∧ storeJob st (.entry n none) = st) ∧
  (∀ (s : State) (j : WriteJob) (noted : Bool), s.recorder.writer = .writing j noted →
    exec .itemWriteComplete s =
      .next { s with
        store := storeJob s.store j
        recorder := { s.recorder with
          writer := if s.recorder.markOwed then .marking else if s.supply.warning then .held else .idle
          list := if noted then s.recorder.list ++ [j.item] else s.recorder.list
          markOwed := false } }) ∧
  ∀ s : State, s.recorder.writer = .marking →
    exec .warningMarkWritten s =
      .next { s with
        store := { s.store with cause := s.store.cause.map fun c => { c with mark := true } }
        recorder := { s.recorder with writer := if s.supply.warning then .held else .idle } }

/-- A Restart with work active is refused ACTIVE_WORK. Accepted, it is answered DONE, no port takes a request any more, and
the clock mark goes on the write list while the clock is SET; the reset comes once the list is empty, the writer IDLE and
every answer sent, and not before (R186). -/
def Obligations.RestartDrainsThenResets : Prop :=
  (∀ (p : Port) (pl : List Byte) (s : State), Asked .restart p pl s →
    ((s.rig ≠ none ∨ s.grout.a ≠ none ∨ s.grout.b ≠ none ∨ s.session ≠ none) →
      ∃ t, exec (.restart p pl) s = .next t ∧ Refused ReqKind.restart.code p .activeWork s t) ∧
    (s.rig = none → s.grout.a = none → s.grout.b = none → s.session = none →
      ∃ t, exec (.restart p pl) s = .next t ∧
        Answers (s.ports.get p) (t.ports.get p) [.single ReqKind.restart.code .done .none] ∧
        (t.ports.get p).inHand = (s.ports.get p).inbound.head? ∧
        (∀ q, (t.ports.get q).taking = false ∧ (t.ports.get q).link = (s.ports.get q).link ∧
          FlagsKept (s.ports.get q) (t.ports.get q)) ∧
        t.recorder.draining = true ∧ s.recorder.list <+: t.recorder.list ∧
        Told (fun q =>
          { tookRequest p [.single ReqKind.restart.code .done .none] s q with taking := false }) [] s t ∧
        (s.clock.time ≠ none → AwaitsWrite t .mark) ∧
        (∀ i ∈ t.recorder.list, i ∈ s.recorder.list ∨ (i = .mark ∧ s.clock.time ≠ none)) ∧
        PermitsExact t ∧ WatchFlagsSame s t ∧ OnlyChanges [.watch, .permits, .recorder, .ports] s t)) ∧
  ∀ s : State,
    let due := s.recorder.draining = true ∧ s.recorder.list = [] ∧ s.recorder.writer = .idle ∧
      ∀ q, (s.ports.get q).inHand = none
    (due → ∃ t, exec .restartReset s = .next t ∧ t.recorder.cause.kind = .restart ∧ t.recorder.causeDue = true ∧
      t.recorder.draining = false ∧ t.clock.time = none ∧ ∀ q, t.ports.get q = PortState.afterReset) ∧
    (¬ due → exec .restartReset s = .next s)

/-- Every reset, POWER_ON, RESET_LINE and the RESTART of a drained part, returns every volatile part to its reset state,
whatever the state was: clock UNSET at the mark read, measurement, time base and supply as after a reset, rig, lines and
session closed, no reservation, every channel disabled, every line deasserted, ports OFF_BUS. A write in progress is torn, the
warning mark's tearing the reset-cause record, and a blank store formatted. Start-up recovery reads the blocks, each torn one
at its defaults, makes a record of every slot the directory names (SUSPECT without data where its image is torn or disagrees;
otherwise the image with an active stage moved to its interrupted stage, the open pass closed at the mark, no verdict, no
reserved entries), raises the section count to the highest section of a record, recounts the sections and sets their STORE
holds, rebuilds the cure list and the pool, with a lost place wherever another list keeps the index, and puts on the write
list what it changed. The reset-cause record says the kind, whether the store was formatted, whether the run before saw a
warning, how many items were torn and anchors interrupted, and whether the configuration fell back. Then, with the values
ready, it is written, with the run's warning, and every port comes on the bus; a warning delays it unless it was raised inside
the write (R27, R38, R48, R63, R67, R142, R161, R179, R184, R185, R187 to R192). Reset and recovery in one step is log 26,
valve inputs that stand as before a reset are the model's choice (log 2, unsafe), as is the phase of the time base (log 34);
whether a reset inside start-up meets the write of the reset-cause record is left open (log 12), and that write waits for the
values by log 40; which items count as torn is log 23, the previous run of a blank store log 18. -/
def Obligations.ResetsReturnVolatileState : Prop :=
  (∀ (k : ResetKind) (c : Instr) (s : State),
    ((k = .powerOn ∧ c = .powerOnReset) ∨ (k = .resetLine ∧ c = .resetLineReset) ∨
      (k = .restart ∧ c = .restartReset ∧ s.recorder.draining = true ∧ s.recorder.list = [] ∧
        s.recorder.writer = .idle ∧ ∀ q, (s.ports.get q).inHand = none)) →
    ∃ t, exec c s = .next t ∧ t.rig = none ∧ t.grout = { a := none, b := none } ∧ t.session = none ∧
      t.pool.reserved = [] ∧
      t.clock = { time := none, mark := t.store.mark.getD 0, ticks := 0, markSeconds := 0 } ∧
      t.time = { periods := 0, flowDue := 0, riseDue := 0, refreshDue := { a := 0, b := 0 } } ∧
      t.supply = { warning := false, above := 0 } ∧
      t.meas = Meas.afterReset { a := s.meas.lines.a.valve, b := s.meas.lines.b.valve } ∧
      (∀ w, t.watch.get w = WatchState.afterReset) ∧ (∀ l, t.permits.get l = false) ∧ PermitsExact t ∧
      (∀ q, t.ports.get q = PortState.afterReset) ∧ t.recorder.writer = .idle ∧ t.recorder.warned = false ∧
      t.recorder.markOwed = false ∧ t.recorder.draining = false ∧ t.recorder.causeDue = true ∧
      t.recorder.causeOpen = false ∧ t.recorder.cause.kind = k ∧ t.sections.length = 64 ∧ (∀ r ∈ t.sections, r.age = none ∧ r.stale = true) ∧
      (∀ r ∈ t.anchors, r.stage.isActive = false ∧ r.reserved = 0) ∧
      (∀ e ∈ t.cure, ∃ r ∈ t.anchors, r.id = e.id ∧ r.stage = .curing ∧ r.cureDue.getD 0 = e.due) ∧
      (∀ r ∈ t.anchors, r.stage = .curing → ∃ e ∈ t.cure, e.id = r.id) ∧ t.pending = s.pending ∧
      -- the store that is read, and the reset-cause record
      (∃ st : Store,
        (∀ j n, s.recorder.writer = .writing j n → st = tearJob s.store j) ∧
        (s.recorder.writer = .marking → st = { s.store with cause := none }) ∧
        (s.recorder.writer = .idle ∨ s.recorder.writer = .held →
          (st = s.store ∨ (s.recorder.causeDue = true ∧ st = { s.store with cause := none })) ∧
          (s.recorder.causeOpen = false → s.supply.warning = true → st = s.store) ∧
          (s.recorder.causeDue = true → s.recorder.causeOpen = true → st = { s.store with cause := none })) ∧
        t.store = (if st.isBlank then formatStore st else st) ∧
        t.recorder.cause.blank = st.isBlank ∧
        t.recorder.cause.previousWarned =
          (match st.cause with | some c => c.mark | none => !st.isBlank) ∧
        t.recorder.cause.configDefaulted = (!st.isBlank && st.config.isNone) ∧
        t.recorder.cause.interrupted =
          ((directoryInUse t.store).filter fun d =>
            match agreeingImage t.store d with
            | some q => q.stage = .tendonRunning || q.stage = .grouting || q.stage = .stressing
            | none => false).length ∧
        (st.isBlank = true → t.recorder.cause.torn = 0) ∧
        (st.isBlank = false → ((directoryInUse t.store).map (·.val)).Nodup →
          ((directoryInUse t.store).map (·.index)).Nodup →
          t.recorder.cause.torn =
            ([st.config.isNone, st.schedule.isNone, st.sections.isNone, st.mark.isNone, st.dirFirst.isNone,
              st.dirSecond.isNone, st.cause.isNone].filter id).length +
            ((directoryInUse t.store).filter fun d => (agreeingImage t.store d).isNone).length +
            (t.pool.used.filter fun e => (tableGet t.store.entries e.index).isNone).length +
            ((directoryInUse t.store).map fun d =>
              match agreeingImage t.store d, findAnchor t d.val with
              | some q, some r => (((readingsOf q).zip (readingsOf r)).filter fun x => x.1 ≠ x.2).length
              | _, _ => 0).sum)) ∧
      -- the blocks
      t.schedule = t.store.schedule.getD ScheduleData.blank ∧ t.results = validateAll t.schedule ∧
      (let read := t.store.config.getD ConfigData.default
       let n := t.config.params.sectionCount
       t.config = { read with params := { read.params with sectionCount := n } } ∧ read.params.sectionCount ≤ n ∧
         (∀ r ∈ t.anchors, r.id.sect ≤ n) ∧ (n = read.params.sectionCount ∨ ∃ r ∈ t.anchors, r.id.sect = n)) ∧
      (∀ n, 1 ≤ n → n ≤ 64 →
        let read := (t.store.sections.getD []).getD (n - 1) SectionData.default
        let data := (sectionRec t n).data
        if t.config.params.sectionCount < n then data = SectionData.default
        else
          data = { read with counts := data.counts, holds := data.holds } ∧
          data.counts = ([1, 2, 3, 4, 5, 6, 7, 8].map fun tier =>
            (t.anchors.filter fun r => r.id.sect = n && r.id.tier = tier && r.stage = .lockedOff).length) ∧
          (data.holds.filter fun h => h.source ≠ .store) = (read.holds.filter fun h => h.source ≠ .store) ∧
          (data.holds.filter fun h => h.source = .store) =
            (if t.anchors.any fun r => r.id.sect = n && r.stage = .suspect then
              if read.holds.any fun h => h.source = .store then read.holds.filter fun h => h.source = .store
              else [{ source := .store, level := .stopNew, time := t.clock.mark, reason := none }]
            else [])) ∧
      -- the anchors, the pool and the write list
      (((directoryInUse t.store).map (·.val)).Nodup → ((directoryInUse t.store).map (·.index)).Nodup →
        (∀ r ∈ t.anchors, ∃ d ∈ directoryInUse t.store, r.id = d.val) ∧
        (∀ d ∈ directoryInUse t.store, agreeingImage t.store d = none →
          findAnchor t d.val = some
            { id := d.val, imageSlot := d.index, design := none, geometry := none, stage := .suspect, tendon := none,
              passes := [], cureDue := none, result := none, reserved := 0, reason := 0, testNumber := 0 }) ∧
        (∀ d ∈ directoryInUse t.store, ∀ q, agreeingImage t.store d = some q →
          ∃ r, findAnchor t d.val = some r ∧
            r = { q with
              reserved := 0
              stage := match q.stage with
                | .tendonRunning => .tendonRejected
                | .grouting => .groutInterrupted
                | .stressing => .stressInterrupted
                | other => other
              tendon := if q.stage = .tendonRunning then none else q.tendon
              passes := if q.stage = .grouting then
                  q.passes.map fun e => if e.stop = none then { e with stop := some t.clock.mark } else e
                else q.passes
              result := q.result.map fun x =>
                { x with verdict := if q.stage = .stressing then none else x.verdict, readings := readingsOf r } } ∧
            (readingsOf r).length = (readingsOf q).length ∧
            ∀ n i, (readingsOf r)[n]? = some (.entry i) ↔
              (readingsOf q)[n]? = some (.entry i) ∧
                ∃ e, tableGet t.pool.used i = some e ∧ e.owner = d.val ∧ e.position = n + 1) ∧
        (∀ i e, tableGet t.pool.used i = some e →
          (∃ r res, findAnchor t e.owner = some r ∧ r.result = some res ∧ e.stamp = res.stamp ∧ 1 ≤ e.position ∧
            res.readings[e.position - 1]? = some (.entry i)) ∧
          (∀ v, tableGet t.store.entries i = some v → v.owner = e.owner → v.position = e.position →
            v.stamp = e.stamp → e.body = v.body) ∧
          ((∀ v, tableGet t.store.entries i = some v →
              v.owner ≠ e.owner ∨ v.position ≠ e.position ∨ v.stamp ≠ e.stamp) → e.body = none)) ∧
        (∀ i e d q, tableGet t.pool.used i = some e →
          (∀ v, tableGet t.store.entries i = some v →
            v.owner ≠ e.owner ∨ v.position ≠ e.position ∨ v.stamp ≠ e.stamp) → d ∈ directoryInUse t.store →
          agreeingImage t.store d = some q → .entry i ∈ readingsOf q → d.val.before e.owner = false) ∧
        (∀ i v d q res, tableGet t.store.entries i = some v → d ∈ directoryInUse t.store → d.val = v.owner →
          agreeingImage t.store d = some q → q.result = some res → res.stamp = v.stamp → 1 ≤ v.position →
          res.readings[v.position - 1]? = some (.entry i) → tableGet t.pool.used i = some v) ∧
        (∀ d ∈ directoryInUse t.store,
          (.image d.index ∈ t.recorder.list ↔
            agreeingImage t.store d = none ∨
              ∃ q r, agreeingImage t.store d = some q ∧ findAnchor t d.val = some r ∧
                (q.stage.isActive = true ∨ readingsOf r ≠ readingsOf q))) ∧
        (∀ i, .entry i ∈ t.recorder.list ↔
          ∃ e, tableGet t.pool.used i = some e ∧ ∀ v, tableGet t.store.entries i = some v →
            v.owner ≠ e.owner ∨ v.position ≠ e.position ∨ v.stamp ≠ e.stamp)) ∧
      .directory ∉ t.recorder.list ∧
      (.sections ∈ t.recorder.list ↔ t.store.sections ≠ some (t.sections.map (·.data))) ∧
      (.config ∈ t.recorder.list ↔ t.store.config ≠ some t.config) ∧
      (.schedule ∈ t.recorder.list ↔ t.store.schedule = none) ∧ (.mark ∈ t.recorder.list ↔ t.store.mark = none)) ∧
  ∀ s : State, s.recorder.causeDue = true →
    ((s.supply.warning = false ∨ s.recorder.causeOpen = true) → (∀ c, faultPresent s.meas (.notReady c) = false) →
      ∃ t, exec .resetCauseWritten s = .next t ∧
        t.store = { s.store with cause := some { record := s.recorder.cause, mark := s.recorder.warned } } ∧
        t.recorder = { s.recorder with causeDue := false, causeOpen := false } ∧ (∀ q, (t.ports.get q).link = .onBus) ∧
        Told (fun q => { s.ports.get q with link := .onBus }) [] s t ∧ PermitsExact t ∧
        WatchFlagsSame s t ∧ OnlyChanges [.store, .watch, .permits, .recorder, .ports] s t) ∧
    (((s.supply.warning = true ∧ s.recorder.causeOpen = false) ∨ ∃ c, faultPresent s.meas (.notReady c) = true) →
      exec .resetCauseWritten s = .next s)
end

