-- ==== Sys2Proof/Laws/Groups.lean ====
section
/-! SUPPORT. Reading a group after writing one of its places, and the tables of the record store in rising order. -/

namespace Sys2Proof.Machine

@[simp] theorem PerPort.get_set_self {α : Type} (x : PerPort α) (p : Port) (v : α) : (x.set p v).get p = v := by
  cases p <;> rfl

theorem PerPort.get_set_ne {α : Type} (x : PerPort α) {p q : Port} (v : α) (h : q ≠ p) :
    (x.set p v).get q = x.get q := by
  cases p <;> cases q <;> first | rfl | exact absurd rfl h

@[simp] theorem PerPort.get_map {α β : Type} (f : Port → α → β) (x : PerPort α) (p : Port) :
    (x.map f).get p = f p (x.get p) := by
  cases p <;> rfl

@[simp] theorem PerPort.set_set {α : Type} (x : PerPort α) (p : Port) (v w : α) : (x.set p v).set p w = x.set p w := by
  cases p <;> rfl

@[simp] theorem PerLine.get_set_self {α : Type} (x : PerLine α) (l : GLine) (v : α) : (x.set l v).get l = v := by
  cases l <;> rfl

theorem PerLine.get_set_ne {α : Type} (x : PerLine α) {l m : GLine} (v : α) (h : m ≠ l) :
    (x.set l v).get m = x.get m := by
  cases l <;> cases m <;> first | rfl | exact absurd rfl h

@[simp] theorem PerWatch.get_set_self {α : Type} (x : PerWatch α) (w : WatchId) (v : α) : (x.set w v).get w = v := by
  cases w <;> rfl

theorem PerWatch.get_set_ne {α : Type} (x : PerWatch α) {w u : WatchId} (v : α) (h : u ≠ w) :
    (x.set w v).get u = x.get u := by
  cases w <;> cases u <;> first | rfl | exact absurd rfl h

@[simp] theorem PerWatch.get_map {α β : Type} (f : WatchId → α → β) (x : PerWatch α) (w : WatchId) :
    (x.map f).get w = f w (x.get w) := by
  cases w <;> rfl

@[simp] theorem PerPermit.get_tabulate {α : Type} (f : PLine → α) (l : PLine) : (PerPermit.tabulate f).get l = f l := by
  cases l <;> rfl

@[simp] theorem PerClass.get_set_self {α : Type} (x : PerClass α) (c : TestClass) (v : α) : (x.set c v).get c = v := by
  cases c <;> rfl

theorem PerClass.get_set_ne {α : Type} (x : PerClass α) {c d : TestClass} (v : α) (h : d ≠ c) :
    (x.set c v).get d = x.get d := by
  cases c <;> cases d <;> first | rfl | exact absurd rfl h

@[simp] theorem PerClass.get_tabulate {α : Type} (f : TestClass → α) (c : TestClass) :
    (PerClass.tabulate f).get c = f c := by
  cases c <;> rfl

@[simp] theorem channelGet_set_self {α : Type} (x : PerChannel α) (c : Channel) (v : α) :
    channelGet (channelSet x c v) c = v := by
  cases c <;> rfl

theorem channelGet_set_ne {α : Type} (x : PerChannel α) {c d : Channel} (v : α) (h : d ≠ c) :
    channelGet (channelSet x c v) d = channelGet x d := by
  cases c <;> cases d <;> first | rfl | exact absurd rfl h

@[simp] theorem channelGet_tabulate {α : Type} (f : Channel → α) (c : Channel) :
    channelGet (channelTabulate f) c = f c := by
  cases c <;> rfl

/-- A table stands in rising order of its indices. -/
def Rising {α : Type} : List (Slot α) → Prop
  | [] => True
  | [_] => True
  | a :: b :: rest => a.index < b.index ∧ Rising (b :: rest)

@[simp] theorem tableGet_tablePut_self {α : Type} (t : List (Slot α)) (i : Nat) (v : α) :
    tableGet (tablePut t i v) i = some v := by
  induction t with
  | nil => simp [tablePut, tableGet]
  | cons r rest ih =>
    simp only [tablePut]
    split
    · rename_i h
      simp [tableGet, Nat.ne_of_lt h, ih]
    · split <;> simp [tableGet]

theorem tableGet_tablePut_ne {α : Type} (t : List (Slot α)) {i j : Nat} (v : α) (h : j ≠ i) :
    tableGet (tablePut t i v) j = tableGet t j := by
  induction t with
  | nil => simp [tablePut, tableGet, Ne.symm h]
  | cons r rest ih =>
    simp only [tablePut]
    split
    · simp [tableGet, ih]
    · split
      · rename_i h1 h2
        simp [tableGet, Ne.symm h, h2]
      · simp [tableGet, Ne.symm h]

theorem tablePut_head {α : Type} (t : List (Slot α)) (i : Nat) (v : α) (a : Slot α) (ht : Rising (a :: t))
    (h : a.index < i) : Rising (a :: tablePut t i v) := by
  induction t generalizing a with
  | nil => simp [tablePut, Rising, h]
  | cons r rest ih =>
    simp only [tablePut]
    split
    · rename_i h1
      exact ⟨ht.1, ih r ht.2 h1⟩
    · split
      · rename_i h1 h2
        cases rest with
        | nil => exact ⟨h, trivial⟩
        | cons b more => exact ⟨h, by have := ht.2; rw [← h2]; exact ⟨this.1, this.2⟩⟩
      · rename_i h1 h2
        exact ⟨h, by simp; omega, ht.2⟩

/-- Writing a row keeps a table in rising order. -/
theorem tablePut_rising {α : Type} (t : List (Slot α)) (i : Nat) (v : α) (ht : Rising t) : Rising (tablePut t i v) := by
  cases t with
  | nil => trivial
  | cons r rest =>
    simp only [tablePut]
    split
    · exact tablePut_head rest i v r ht ‹_›
    · split
      · rename_i h1 h2
        cases rest with
        | nil => trivial
        | cons b more => exact ⟨by have := ht.1; simp only; omega, ht.2⟩
      · rename_i h1 h2
        exact ⟨by simp; omega, ht⟩

end Sys2Proof.Machine
end

