-- ==== Sys2Proof/Laws/State.lean ====
section
/-! SUPPORT. One lemma per field per update of the state: what each named update leaves as it was. -/

namespace Sys2Proof.Machine

/-! ## Events -/

@[simp] theorem Ev.of_st (s : State) : (Ev.of s).st = s := rfl
@[simp] theorem Ev.of_notices (s : State) : (Ev.of s).notices = [] := rfl
@[simp] theorem Ev.of_dirty (s : State) : (Ev.of s).dirty = [] := rfl
@[simp] theorem Ev.mod_st (e : Ev) (f : State → State) : (e.mod f).st = f e.st := rfl
@[simp] theorem Ev.mod_notices (e : Ev) (f : State → State) : (e.mod f).notices = e.notices := rfl
@[simp] theorem Ev.mod_dirty (e : Ev) (f : State → State) : (e.mod f).dirty = e.dirty := rfl
@[simp] theorem Ev.raise_st (e : Ev) (n : Notice) : (e.raise n).st = e.st := rfl
@[simp] theorem Ev.raise_notices (e : Ev) (n : Notice) : (e.raise n).notices = e.notices ++ [n] := rfl
@[simp] theorem Ev.raise_dirty (e : Ev) (n : Notice) : (e.raise n).dirty = e.dirty := rfl
@[simp] theorem Ev.dirtied_st (e : Ev) (i : Item) : (e.dirtied i).st = e.st := rfl
@[simp] theorem Ev.dirtied_notices (e : Ev) (i : Item) : (e.dirtied i).notices = e.notices := rfl
@[simp] theorem Ev.dirtied_dirty (e : Ev) (i : Item) : (e.dirtied i).dirty = e.dirty ++ [i] := rfl

/-! ## Replies -/

@[simp] theorem refuse_ev (s : State) (c : Code) : (refuse s c).ev = Ev.of s := rfl
@[simp] theorem refuse_body (s : State) (c : Code) : (refuse s c).body = .single c .none := rfl
@[simp] theorem done_ev (e : Ev) : (done e).ev = e := rfl
@[simp] theorem done_body (e : Ev) : (done e).body = .single .done .none := rfl
@[simp] theorem doneWith_ev (e : Ev) (d : AnswerData) : (doneWith e d).ev = e := rfl
@[simp] theorem doneWith_body (e : Ev) (d : AnswerData) : (doneWith e d).body = .single .done d := rfl
@[simp] theorem readReply_body (s : State) (c : ReadContent) : (readReply s c).body = .read c (freeFrames s) := rfl
@[simp] theorem readReply_st (s : State) (c : ReadContent) :
    (readReply s c).ev.st = { s with freeIdx := s.freeIdx + 1 } := rfl
@[simp] theorem putAnswer_dirty (k : Byte) (p : Port) (r : Reply) : (putAnswer k p r).dirty = r.ev.dirty := rfl
@[simp] theorem putAnswer_notices (k : Byte) (p : Port) (r : Reply) : (putAnswer k p r).notices = r.ev.notices := rfl

/-! ## takeFrame -/

@[simp] theorem takeFrame_anchors (s : State) (p : Port) :
    (takeFrame s p).anchors = s.anchors := by
  unfold takeFrame; rfl
@[simp] theorem takeFrame_cure (s : State) (p : Port) : (takeFrame s p).cure = s.cure := by
  unfold takeFrame; rfl
@[simp] theorem takeFrame_sections (s : State) (p : Port) :
    (takeFrame s p).sections = s.sections := by
  unfold takeFrame; rfl
@[simp] theorem takeFrame_config (s : State) (p : Port) :
    (takeFrame s p).config = s.config := by
  unfold takeFrame; rfl
@[simp] theorem takeFrame_schedule (s : State) (p : Port) :
    (takeFrame s p).schedule = s.schedule := by
  unfold takeFrame; rfl
@[simp] theorem takeFrame_results (s : State) (p : Port) :
    (takeFrame s p).results = s.results := by
  unfold takeFrame; rfl
@[simp] theorem takeFrame_meas (s : State) (p : Port) : (takeFrame s p).meas = s.meas := by
  unfold takeFrame; rfl
@[simp] theorem takeFrame_clock (s : State) (p : Port) : (takeFrame s p).clock = s.clock := by
  unfold takeFrame; rfl
@[simp] theorem takeFrame_time (s : State) (p : Port) : (takeFrame s p).time = s.time := by
  unfold takeFrame; rfl
@[simp] theorem takeFrame_supply (s : State) (p : Port) :
    (takeFrame s p).supply = s.supply := by
  unfold takeFrame; rfl
@[simp] theorem takeFrame_rig (s : State) (p : Port) : (takeFrame s p).rig = s.rig := by
  unfold takeFrame; rfl
@[simp] theorem takeFrame_grout (s : State) (p : Port) : (takeFrame s p).grout = s.grout := by
  unfold takeFrame; rfl
@[simp] theorem takeFrame_session (s : State) (p : Port) :
    (takeFrame s p).session = s.session := by
  unfold takeFrame; rfl
@[simp] theorem takeFrame_pool (s : State) (p : Port) : (takeFrame s p).pool = s.pool := by
  unfold takeFrame; rfl
@[simp] theorem takeFrame_watch (s : State) (p : Port) : (takeFrame s p).watch = s.watch := by
  unfold takeFrame; rfl
@[simp] theorem takeFrame_permits (s : State) (p : Port) :
    (takeFrame s p).permits = s.permits := by
  unfold takeFrame; rfl
@[simp] theorem takeFrame_store (s : State) (p : Port) : (takeFrame s p).store = s.store := by
  unfold takeFrame; rfl
@[simp] theorem takeFrame_recorder (s : State) (p : Port) :
    (takeFrame s p).recorder = s.recorder := by
  unfold takeFrame; rfl
@[simp] theorem takeFrame_freeIdx (s : State) (p : Port) :
    (takeFrame s p).freeIdx = s.freeIdx := by
  unfold takeFrame; rfl
@[simp] theorem takeFrame_pending (s : State) (p : Port) :
    (takeFrame s p).pending = s.pending := by
  unfold takeFrame; rfl

/-! ## setFlags -/

@[simp] theorem setFlags_anchors (s : State) (p : Port) (f : PortFlags → PortFlags) :
    (setFlags s p f).anchors = s.anchors := by
  unfold setFlags; rfl
@[simp] theorem setFlags_cure (s : State) (p : Port) (f : PortFlags → PortFlags) :
    (setFlags s p f).cure = s.cure := by
  unfold setFlags; rfl
@[simp] theorem setFlags_sections (s : State) (p : Port) (f : PortFlags → PortFlags) :
    (setFlags s p f).sections = s.sections := by
  unfold setFlags; rfl
@[simp] theorem setFlags_config (s : State) (p : Port) (f : PortFlags → PortFlags) :
    (setFlags s p f).config = s.config := by
  unfold setFlags; rfl
@[simp] theorem setFlags_schedule (s : State) (p : Port) (f : PortFlags → PortFlags) :
    (setFlags s p f).schedule = s.schedule := by
  unfold setFlags; rfl
@[simp] theorem setFlags_results (s : State) (p : Port) (f : PortFlags → PortFlags) :
    (setFlags s p f).results = s.results := by
  unfold setFlags; rfl
@[simp] theorem setFlags_meas (s : State) (p : Port) (f : PortFlags → PortFlags) :
    (setFlags s p f).meas = s.meas := by
  unfold setFlags; rfl
@[simp] theorem setFlags_clock (s : State) (p : Port) (f : PortFlags → PortFlags) :
    (setFlags s p f).clock = s.clock := by
  unfold setFlags; rfl
@[simp] theorem setFlags_time (s : State) (p : Port) (f : PortFlags → PortFlags) :
    (setFlags s p f).time = s.time := by
  unfold setFlags; rfl
@[simp] theorem setFlags_supply (s : State) (p : Port) (f : PortFlags → PortFlags) :
    (setFlags s p f).supply = s.supply := by
  unfold setFlags; rfl
@[simp] theorem setFlags_rig (s : State) (p : Port) (f : PortFlags → PortFlags) :
    (setFlags s p f).rig = s.rig := by
  unfold setFlags; rfl
@[simp] theorem setFlags_grout (s : State) (p : Port) (f : PortFlags → PortFlags) :
    (setFlags s p f).grout = s.grout := by
  unfold setFlags; rfl
@[simp] theorem setFlags_session (s : State) (p : Port) (f : PortFlags → PortFlags) :
    (setFlags s p f).session = s.session := by
  unfold setFlags; rfl
@[simp] theorem setFlags_pool (s : State) (p : Port) (f : PortFlags → PortFlags) :
    (setFlags s p f).pool = s.pool := by
  unfold setFlags; rfl
@[simp] theorem setFlags_watch (s : State) (p : Port) (f : PortFlags → PortFlags) :
    (setFlags s p f).watch = s.watch := by
  unfold setFlags; rfl
@[simp] theorem setFlags_permits (s : State) (p : Port) (f : PortFlags → PortFlags) :
    (setFlags s p f).permits = s.permits := by
  unfold setFlags; rfl
@[simp] theorem setFlags_store (s : State) (p : Port) (f : PortFlags → PortFlags) :
    (setFlags s p f).store = s.store := by
  unfold setFlags; rfl
@[simp] theorem setFlags_recorder (s : State) (p : Port) (f : PortFlags → PortFlags) :
    (setFlags s p f).recorder = s.recorder := by
  unfold setFlags; rfl
@[simp] theorem setFlags_freeIdx (s : State) (p : Port) (f : PortFlags → PortFlags) :
    (setFlags s p f).freeIdx = s.freeIdx := by
  unfold setFlags; rfl
@[simp] theorem setFlags_pending (s : State) (p : Port) (f : PortFlags → PortFlags) :
    (setFlags s p f).pending = s.pending := by
  unfold setFlags; rfl

/-! ## setSection -/

@[simp] theorem setSection_anchors (s : State) (n : Nat) (r : SectionRec) :
    (setSection s n r).anchors = s.anchors := by
  unfold setSection; rfl
@[simp] theorem setSection_cure (s : State) (n : Nat) (r : SectionRec) :
    (setSection s n r).cure = s.cure := by
  unfold setSection; rfl
@[simp] theorem setSection_config (s : State) (n : Nat) (r : SectionRec) :
    (setSection s n r).config = s.config := by
  unfold setSection; rfl
@[simp] theorem setSection_schedule (s : State) (n : Nat) (r : SectionRec) :
    (setSection s n r).schedule = s.schedule := by
  unfold setSection; rfl
@[simp] theorem setSection_results (s : State) (n : Nat) (r : SectionRec) :
    (setSection s n r).results = s.results := by
  unfold setSection; rfl
@[simp] theorem setSection_meas (s : State) (n : Nat) (r : SectionRec) :
    (setSection s n r).meas = s.meas := by
  unfold setSection; rfl
@[simp] theorem setSection_clock (s : State) (n : Nat) (r : SectionRec) :
    (setSection s n r).clock = s.clock := by
  unfold setSection; rfl
@[simp] theorem setSection_time (s : State) (n : Nat) (r : SectionRec) :
    (setSection s n r).time = s.time := by
  unfold setSection; rfl
@[simp] theorem setSection_supply (s : State) (n : Nat) (r : SectionRec) :
    (setSection s n r).supply = s.supply := by
  unfold setSection; rfl
@[simp] theorem setSection_rig (s : State) (n : Nat) (r : SectionRec) :
    (setSection s n r).rig = s.rig := by
  unfold setSection; rfl
@[simp] theorem setSection_grout (s : State) (n : Nat) (r : SectionRec) :
    (setSection s n r).grout = s.grout := by
  unfold setSection; rfl
@[simp] theorem setSection_session (s : State) (n : Nat) (r : SectionRec) :
    (setSection s n r).session = s.session := by
  unfold setSection; rfl
@[simp] theorem setSection_pool (s : State) (n : Nat) (r : SectionRec) :
    (setSection s n r).pool = s.pool := by
  unfold setSection; rfl
@[simp] theorem setSection_watch (s : State) (n : Nat) (r : SectionRec) :
    (setSection s n r).watch = s.watch := by
  unfold setSection; rfl
@[simp] theorem setSection_permits (s : State) (n : Nat) (r : SectionRec) :
    (setSection s n r).permits = s.permits := by
  unfold setSection; rfl
@[simp] theorem setSection_store (s : State) (n : Nat) (r : SectionRec) :
    (setSection s n r).store = s.store := by
  unfold setSection; rfl
@[simp] theorem setSection_recorder (s : State) (n : Nat) (r : SectionRec) :
    (setSection s n r).recorder = s.recorder := by
  unfold setSection; rfl
@[simp] theorem setSection_ports (s : State) (n : Nat) (r : SectionRec) :
    (setSection s n r).ports = s.ports := by
  unfold setSection; rfl
@[simp] theorem setSection_freeIdx (s : State) (n : Nat) (r : SectionRec) :
    (setSection s n r).freeIdx = s.freeIdx := by
  unfold setSection; rfl
@[simp] theorem setSection_pending (s : State) (n : Nat) (r : SectionRec) :
    (setSection s n r).pending = s.pending := by
  unfold setSection; rfl

/-! ## setChannel -/

@[simp] theorem setChannel_anchors (s : State) (c : Channel) (x : ChannelState) :
    (setChannel s c x).anchors = s.anchors := by
  unfold setChannel; rfl
@[simp] theorem setChannel_cure (s : State) (c : Channel) (x : ChannelState) :
    (setChannel s c x).cure = s.cure := by
  unfold setChannel; rfl
@[simp] theorem setChannel_sections (s : State) (c : Channel) (x : ChannelState) :
    (setChannel s c x).sections = s.sections := by
  unfold setChannel; rfl
@[simp] theorem setChannel_config (s : State) (c : Channel) (x : ChannelState) :
    (setChannel s c x).config = s.config := by
  unfold setChannel; rfl
@[simp] theorem setChannel_schedule (s : State) (c : Channel) (x : ChannelState) :
    (setChannel s c x).schedule = s.schedule := by
  unfold setChannel; rfl
@[simp] theorem setChannel_results (s : State) (c : Channel) (x : ChannelState) :
    (setChannel s c x).results = s.results := by
  unfold setChannel; rfl
@[simp] theorem setChannel_clock (s : State) (c : Channel) (x : ChannelState) :
    (setChannel s c x).clock = s.clock := by
  unfold setChannel; rfl
@[simp] theorem setChannel_time (s : State) (c : Channel) (x : ChannelState) :
    (setChannel s c x).time = s.time := by
  unfold setChannel; rfl
@[simp] theorem setChannel_supply (s : State) (c : Channel) (x : ChannelState) :
    (setChannel s c x).supply = s.supply := by
  unfold setChannel; rfl
@[simp] theorem setChannel_rig (s : State) (c : Channel) (x : ChannelState) :
    (setChannel s c x).rig = s.rig := by
  unfold setChannel; rfl
@[simp] theorem setChannel_grout (s : State) (c : Channel) (x : ChannelState) :
    (setChannel s c x).grout = s.grout := by
  unfold setChannel; rfl
@[simp] theorem setChannel_session (s : State) (c : Channel) (x : ChannelState) :
    (setChannel s c x).session = s.session := by
  unfold setChannel; rfl
@[simp] theorem setChannel_pool (s : State) (c : Channel) (x : ChannelState) :
    (setChannel s c x).pool = s.pool := by
  unfold setChannel; rfl
@[simp] theorem setChannel_watch (s : State) (c : Channel) (x : ChannelState) :
    (setChannel s c x).watch = s.watch := by
  unfold setChannel; rfl
@[simp] theorem setChannel_permits (s : State) (c : Channel) (x : ChannelState) :
    (setChannel s c x).permits = s.permits := by
  unfold setChannel; rfl
@[simp] theorem setChannel_store (s : State) (c : Channel) (x : ChannelState) :
    (setChannel s c x).store = s.store := by
  unfold setChannel; rfl
@[simp] theorem setChannel_recorder (s : State) (c : Channel) (x : ChannelState) :
    (setChannel s c x).recorder = s.recorder := by
  unfold setChannel; rfl
@[simp] theorem setChannel_ports (s : State) (c : Channel) (x : ChannelState) :
    (setChannel s c x).ports = s.ports := by
  unfold setChannel; rfl
@[simp] theorem setChannel_freeIdx (s : State) (c : Channel) (x : ChannelState) :
    (setChannel s c x).freeIdx = s.freeIdx := by
  unfold setChannel; rfl
@[simp] theorem setChannel_pending (s : State) (c : Channel) (x : ChannelState) :
    (setChannel s c x).pending = s.pending := by
  unfold setChannel; rfl

/-! ## setLineMeas -/

@[simp] theorem setLineMeas_anchors (s : State) (l : GLine) (x : LineMeas) :
    (setLineMeas s l x).anchors = s.anchors := by
  unfold setLineMeas; rfl
@[simp] theorem setLineMeas_cure (s : State) (l : GLine) (x : LineMeas) :
    (setLineMeas s l x).cure = s.cure := by
  unfold setLineMeas; rfl
@[simp] theorem setLineMeas_sections (s : State) (l : GLine) (x : LineMeas) :
    (setLineMeas s l x).sections = s.sections := by
  unfold setLineMeas; rfl
@[simp] theorem setLineMeas_config (s : State) (l : GLine) (x : LineMeas) :
    (setLineMeas s l x).config = s.config := by
  unfold setLineMeas; rfl
@[simp] theorem setLineMeas_schedule (s : State) (l : GLine) (x : LineMeas) :
    (setLineMeas s l x).schedule = s.schedule := by
  unfold setLineMeas; rfl
@[simp] theorem setLineMeas_results (s : State) (l : GLine) (x : LineMeas) :
    (setLineMeas s l x).results = s.results := by
  unfold setLineMeas; rfl
@[simp] theorem setLineMeas_clock (s : State) (l : GLine) (x : LineMeas) :
    (setLineMeas s l x).clock = s.clock := by
  unfold setLineMeas; rfl
@[simp] theorem setLineMeas_time (s : State) (l : GLine) (x : LineMeas) :
    (setLineMeas s l x).time = s.time := by
  unfold setLineMeas; rfl
@[simp] theorem setLineMeas_supply (s : State) (l : GLine) (x : LineMeas) :
    (setLineMeas s l x).supply = s.supply := by
  unfold setLineMeas; rfl
@[simp] theorem setLineMeas_rig (s : State) (l : GLine) (x : LineMeas) :
    (setLineMeas s l x).rig = s.rig := by
  unfold setLineMeas; rfl
@[simp] theorem setLineMeas_grout (s : State) (l : GLine) (x : LineMeas) :
    (setLineMeas s l x).grout = s.grout := by
  unfold setLineMeas; rfl
@[simp] theorem setLineMeas_session (s : State) (l : GLine) (x : LineMeas) :
    (setLineMeas s l x).session = s.session := by
  unfold setLineMeas; rfl
@[simp] theorem setLineMeas_pool (s : State) (l : GLine) (x : LineMeas) :
    (setLineMeas s l x).pool = s.pool := by
  unfold setLineMeas; rfl
@[simp] theorem setLineMeas_watch (s : State) (l : GLine) (x : LineMeas) :
    (setLineMeas s l x).watch = s.watch := by
  unfold setLineMeas; rfl
@[simp] theorem setLineMeas_permits (s : State) (l : GLine) (x : LineMeas) :
    (setLineMeas s l x).permits = s.permits := by
  unfold setLineMeas; rfl
@[simp] theorem setLineMeas_store (s : State) (l : GLine) (x : LineMeas) :
    (setLineMeas s l x).store = s.store := by
  unfold setLineMeas; rfl
@[simp] theorem setLineMeas_recorder (s : State) (l : GLine) (x : LineMeas) :
    (setLineMeas s l x).recorder = s.recorder := by
  unfold setLineMeas; rfl
@[simp] theorem setLineMeas_ports (s : State) (l : GLine) (x : LineMeas) :
    (setLineMeas s l x).ports = s.ports := by
  unfold setLineMeas; rfl
@[simp] theorem setLineMeas_freeIdx (s : State) (l : GLine) (x : LineMeas) :
    (setLineMeas s l x).freeIdx = s.freeIdx := by
  unfold setLineMeas; rfl
@[simp] theorem setLineMeas_pending (s : State) (l : GLine) (x : LineMeas) :
    (setLineMeas s l x).pending = s.pending := by
  unfold setLineMeas; rfl

/-! ## setLineCtx -/

@[simp] theorem setLineCtx_anchors (s : State) (l : GLine) (c : Option LineCtx) :
    (setLineCtx s l c).anchors = s.anchors := by
  unfold setLineCtx; rfl
@[simp] theorem setLineCtx_cure (s : State) (l : GLine) (c : Option LineCtx) :
    (setLineCtx s l c).cure = s.cure := by
  unfold setLineCtx; rfl
@[simp] theorem setLineCtx_sections (s : State) (l : GLine) (c : Option LineCtx) :
    (setLineCtx s l c).sections = s.sections := by
  unfold setLineCtx; rfl
@[simp] theorem setLineCtx_config (s : State) (l : GLine) (c : Option LineCtx) :
    (setLineCtx s l c).config = s.config := by
  unfold setLineCtx; rfl
@[simp] theorem setLineCtx_schedule (s : State) (l : GLine) (c : Option LineCtx) :
    (setLineCtx s l c).schedule = s.schedule := by
  unfold setLineCtx; rfl
@[simp] theorem setLineCtx_results (s : State) (l : GLine) (c : Option LineCtx) :
    (setLineCtx s l c).results = s.results := by
  unfold setLineCtx; rfl
@[simp] theorem setLineCtx_meas (s : State) (l : GLine) (c : Option LineCtx) :
    (setLineCtx s l c).meas = s.meas := by
  unfold setLineCtx; rfl
@[simp] theorem setLineCtx_clock (s : State) (l : GLine) (c : Option LineCtx) :
    (setLineCtx s l c).clock = s.clock := by
  unfold setLineCtx; rfl
@[simp] theorem setLineCtx_time (s : State) (l : GLine) (c : Option LineCtx) :
    (setLineCtx s l c).time = s.time := by
  unfold setLineCtx; rfl
@[simp] theorem setLineCtx_supply (s : State) (l : GLine) (c : Option LineCtx) :
    (setLineCtx s l c).supply = s.supply := by
  unfold setLineCtx; rfl
@[simp] theorem setLineCtx_rig (s : State) (l : GLine) (c : Option LineCtx) :
    (setLineCtx s l c).rig = s.rig := by
  unfold setLineCtx; rfl
@[simp] theorem setLineCtx_session (s : State) (l : GLine) (c : Option LineCtx) :
    (setLineCtx s l c).session = s.session := by
  unfold setLineCtx; rfl
@[simp] theorem setLineCtx_pool (s : State) (l : GLine) (c : Option LineCtx) :
    (setLineCtx s l c).pool = s.pool := by
  unfold setLineCtx; rfl
@[simp] theorem setLineCtx_watch (s : State) (l : GLine) (c : Option LineCtx) :
    (setLineCtx s l c).watch = s.watch := by
  unfold setLineCtx; rfl
@[simp] theorem setLineCtx_permits (s : State) (l : GLine) (c : Option LineCtx) :
    (setLineCtx s l c).permits = s.permits := by
  unfold setLineCtx; rfl
@[simp] theorem setLineCtx_store (s : State) (l : GLine) (c : Option LineCtx) :
    (setLineCtx s l c).store = s.store := by
  unfold setLineCtx; rfl
@[simp] theorem setLineCtx_recorder (s : State) (l : GLine) (c : Option LineCtx) :
    (setLineCtx s l c).recorder = s.recorder := by
  unfold setLineCtx; rfl
@[simp] theorem setLineCtx_ports (s : State) (l : GLine) (c : Option LineCtx) :
    (setLineCtx s l c).ports = s.ports := by
  unfold setLineCtx; rfl
@[simp] theorem setLineCtx_freeIdx (s : State) (l : GLine) (c : Option LineCtx) :
    (setLineCtx s l c).freeIdx = s.freeIdx := by
  unfold setLineCtx; rfl
@[simp] theorem setLineCtx_pending (s : State) (l : GLine) (c : Option LineCtx) :
    (setLineCtx s l c).pending = s.pending := by
  unfold setLineCtx; rfl

/-! ## openLine -/

@[simp] theorem openLine_anchors (s : State) (l : GLine) (c : LineCtx) :
    (openLine s l c).anchors = s.anchors := by
  unfold openLine setLineMeas setLineCtx; rfl
@[simp] theorem openLine_cure (s : State) (l : GLine) (c : LineCtx) :
    (openLine s l c).cure = s.cure := by
  unfold openLine setLineMeas setLineCtx; rfl
@[simp] theorem openLine_sections (s : State) (l : GLine) (c : LineCtx) :
    (openLine s l c).sections = s.sections := by
  unfold openLine setLineMeas setLineCtx; rfl
@[simp] theorem openLine_config (s : State) (l : GLine) (c : LineCtx) :
    (openLine s l c).config = s.config := by
  unfold openLine setLineMeas setLineCtx; rfl
@[simp] theorem openLine_schedule (s : State) (l : GLine) (c : LineCtx) :
    (openLine s l c).schedule = s.schedule := by
  unfold openLine setLineMeas setLineCtx; rfl
@[simp] theorem openLine_results (s : State) (l : GLine) (c : LineCtx) :
    (openLine s l c).results = s.results := by
  unfold openLine setLineMeas setLineCtx; rfl
@[simp] theorem openLine_clock (s : State) (l : GLine) (c : LineCtx) :
    (openLine s l c).clock = s.clock := by
  unfold openLine setLineMeas setLineCtx; rfl
@[simp] theorem openLine_supply (s : State) (l : GLine) (c : LineCtx) :
    (openLine s l c).supply = s.supply := by
  unfold openLine setLineMeas setLineCtx; rfl
@[simp] theorem openLine_rig (s : State) (l : GLine) (c : LineCtx) :
    (openLine s l c).rig = s.rig := by
  unfold openLine setLineMeas setLineCtx; rfl
@[simp] theorem openLine_session (s : State) (l : GLine) (c : LineCtx) :
    (openLine s l c).session = s.session := by
  unfold openLine setLineMeas setLineCtx; rfl
@[simp] theorem openLine_pool (s : State) (l : GLine) (c : LineCtx) :
    (openLine s l c).pool = s.pool := by
  unfold openLine setLineMeas setLineCtx; rfl
@[simp] theorem openLine_watch (s : State) (l : GLine) (c : LineCtx) :
    (openLine s l c).watch = s.watch := by
  unfold openLine setLineMeas setLineCtx; rfl
@[simp] theorem openLine_permits (s : State) (l : GLine) (c : LineCtx) :
    (openLine s l c).permits = s.permits := by
  unfold openLine setLineMeas setLineCtx; rfl
@[simp] theorem openLine_store (s : State) (l : GLine) (c : LineCtx) :
    (openLine s l c).store = s.store := by
  unfold openLine setLineMeas setLineCtx; rfl
@[simp] theorem openLine_recorder (s : State) (l : GLine) (c : LineCtx) :
    (openLine s l c).recorder = s.recorder := by
  unfold openLine setLineMeas setLineCtx; rfl
@[simp] theorem openLine_ports (s : State) (l : GLine) (c : LineCtx) :
    (openLine s l c).ports = s.ports := by
  unfold openLine setLineMeas setLineCtx; rfl
@[simp] theorem openLine_freeIdx (s : State) (l : GLine) (c : LineCtx) :
    (openLine s l c).freeIdx = s.freeIdx := by
  unfold openLine setLineMeas setLineCtx; rfl
@[simp] theorem openLine_pending (s : State) (l : GLine) (c : LineCtx) :
    (openLine s l c).pending = s.pending := by
  unfold openLine setLineMeas setLineCtx; rfl

/-! ## useRefresh -/

@[simp] theorem useRefresh_anchors (s : State) (l : GLine) :
    (useRefresh s l).anchors = s.anchors := by
  unfold useRefresh; rfl
@[simp] theorem useRefresh_cure (s : State) (l : GLine) :
    (useRefresh s l).cure = s.cure := by
  unfold useRefresh; rfl
@[simp] theorem useRefresh_sections (s : State) (l : GLine) :
    (useRefresh s l).sections = s.sections := by
  unfold useRefresh; rfl
@[simp] theorem useRefresh_config (s : State) (l : GLine) :
    (useRefresh s l).config = s.config := by
  unfold useRefresh; rfl
@[simp] theorem useRefresh_schedule (s : State) (l : GLine) :
    (useRefresh s l).schedule = s.schedule := by
  unfold useRefresh; rfl
@[simp] theorem useRefresh_results (s : State) (l : GLine) :
    (useRefresh s l).results = s.results := by
  unfold useRefresh; rfl
@[simp] theorem useRefresh_meas (s : State) (l : GLine) :
    (useRefresh s l).meas = s.meas := by
  unfold useRefresh; rfl
@[simp] theorem useRefresh_clock (s : State) (l : GLine) :
    (useRefresh s l).clock = s.clock := by
  unfold useRefresh; rfl
@[simp] theorem useRefresh_supply (s : State) (l : GLine) :
    (useRefresh s l).supply = s.supply := by
  unfold useRefresh; rfl
@[simp] theorem useRefresh_rig (s : State) (l : GLine) : (useRefresh s l).rig = s.rig := by
  unfold useRefresh; rfl
@[simp] theorem useRefresh_grout (s : State) (l : GLine) :
    (useRefresh s l).grout = s.grout := by
  unfold useRefresh; rfl
@[simp] theorem useRefresh_session (s : State) (l : GLine) :
    (useRefresh s l).session = s.session := by
  unfold useRefresh; rfl
@[simp] theorem useRefresh_pool (s : State) (l : GLine) :
    (useRefresh s l).pool = s.pool := by
  unfold useRefresh; rfl
@[simp] theorem useRefresh_watch (s : State) (l : GLine) :
    (useRefresh s l).watch = s.watch := by
  unfold useRefresh; rfl
@[simp] theorem useRefresh_permits (s : State) (l : GLine) :
    (useRefresh s l).permits = s.permits := by
  unfold useRefresh; rfl
@[simp] theorem useRefresh_store (s : State) (l : GLine) :
    (useRefresh s l).store = s.store := by
  unfold useRefresh; rfl
@[simp] theorem useRefresh_recorder (s : State) (l : GLine) :
    (useRefresh s l).recorder = s.recorder := by
  unfold useRefresh; rfl
@[simp] theorem useRefresh_ports (s : State) (l : GLine) :
    (useRefresh s l).ports = s.ports := by
  unfold useRefresh; rfl
@[simp] theorem useRefresh_freeIdx (s : State) (l : GLine) :
    (useRefresh s l).freeIdx = s.freeIdx := by
  unfold useRefresh; rfl
@[simp] theorem useRefresh_pending (s : State) (l : GLine) :
    (useRefresh s l).pending = s.pending := by
  unfold useRefresh; rfl

/-! ## closeSession -/

@[simp] theorem closeSession_anchors (s : State) :
    (closeSession s).anchors = s.anchors := by
  unfold closeSession; rfl
@[simp] theorem closeSession_cure (s : State) : (closeSession s).cure = s.cure := by
  unfold closeSession; rfl
@[simp] theorem closeSession_sections (s : State) :
    (closeSession s).sections = s.sections := by
  unfold closeSession; rfl
@[simp] theorem closeSession_config (s : State) : (closeSession s).config = s.config := by
  unfold closeSession; rfl
@[simp] theorem closeSession_schedule (s : State) :
    (closeSession s).schedule = s.schedule := by
  unfold closeSession; rfl
@[simp] theorem closeSession_results (s : State) :
    (closeSession s).results = s.results := by
  unfold closeSession; rfl
@[simp] theorem closeSession_meas (s : State) : (closeSession s).meas = s.meas := by
  unfold closeSession; rfl
@[simp] theorem closeSession_clock (s : State) : (closeSession s).clock = s.clock := by
  unfold closeSession; rfl
@[simp] theorem closeSession_time (s : State) : (closeSession s).time = s.time := by
  unfold closeSession; rfl
@[simp] theorem closeSession_supply (s : State) : (closeSession s).supply = s.supply := by
  unfold closeSession; rfl
@[simp] theorem closeSession_rig (s : State) : (closeSession s).rig = s.rig := by
  unfold closeSession; rfl
@[simp] theorem closeSession_grout (s : State) : (closeSession s).grout = s.grout := by
  unfold closeSession; rfl
@[simp] theorem closeSession_watch (s : State) : (closeSession s).watch = s.watch := by
  unfold closeSession; rfl
@[simp] theorem closeSession_permits (s : State) :
    (closeSession s).permits = s.permits := by
  unfold closeSession; rfl
@[simp] theorem closeSession_store (s : State) : (closeSession s).store = s.store := by
  unfold closeSession; rfl
@[simp] theorem closeSession_recorder (s : State) :
    (closeSession s).recorder = s.recorder := by
  unfold closeSession; rfl
@[simp] theorem closeSession_ports (s : State) : (closeSession s).ports = s.ports := by
  unfold closeSession; rfl
@[simp] theorem closeSession_freeIdx (s : State) :
    (closeSession s).freeIdx = s.freeIdx := by
  unfold closeSession; rfl
@[simp] theorem closeSession_pending (s : State) :
    (closeSession s).pending = s.pending := by
  unfold closeSession; rfl

/-! ## releaseReadings -/

@[simp] theorem releaseReadings_anchors (s : State) (ps : List ListPlace) :
    (releaseReadings s ps).anchors = s.anchors := by
  unfold releaseReadings; rfl
@[simp] theorem releaseReadings_cure (s : State) (ps : List ListPlace) :
    (releaseReadings s ps).cure = s.cure := by
  unfold releaseReadings; rfl
@[simp] theorem releaseReadings_sections (s : State) (ps : List ListPlace) :
    (releaseReadings s ps).sections = s.sections := by
  unfold releaseReadings; rfl
@[simp] theorem releaseReadings_config (s : State) (ps : List ListPlace) :
    (releaseReadings s ps).config = s.config := by
  unfold releaseReadings; rfl
@[simp] theorem releaseReadings_schedule (s : State) (ps : List ListPlace) :
    (releaseReadings s ps).schedule = s.schedule := by
  unfold releaseReadings; rfl
@[simp] theorem releaseReadings_results (s : State) (ps : List ListPlace) :
    (releaseReadings s ps).results = s.results := by
  unfold releaseReadings; rfl
@[simp] theorem releaseReadings_meas (s : State) (ps : List ListPlace) :
    (releaseReadings s ps).meas = s.meas := by
  unfold releaseReadings; rfl
@[simp] theorem releaseReadings_clock (s : State) (ps : List ListPlace) :
    (releaseReadings s ps).clock = s.clock := by
  unfold releaseReadings; rfl
@[simp] theorem releaseReadings_time (s : State) (ps : List ListPlace) :
    (releaseReadings s ps).time = s.time := by
  unfold releaseReadings; rfl
@[simp] theorem releaseReadings_supply (s : State) (ps : List ListPlace) :
    (releaseReadings s ps).supply = s.supply := by
  unfold releaseReadings; rfl
@[simp] theorem releaseReadings_rig (s : State) (ps : List ListPlace) :
    (releaseReadings s ps).rig = s.rig := by
  unfold releaseReadings; rfl
@[simp] theorem releaseReadings_grout (s : State) (ps : List ListPlace) :
    (releaseReadings s ps).grout = s.grout := by
  unfold releaseReadings; rfl
@[simp] theorem releaseReadings_session (s : State) (ps : List ListPlace) :
    (releaseReadings s ps).session = s.session := by
  unfold releaseReadings; rfl
@[simp] theorem releaseReadings_watch (s : State) (ps : List ListPlace) :
    (releaseReadings s ps).watch = s.watch := by
  unfold releaseReadings; rfl
@[simp] theorem releaseReadings_permits (s : State) (ps : List ListPlace) :
    (releaseReadings s ps).permits = s.permits := by
  unfold releaseReadings; rfl
@[simp] theorem releaseReadings_store (s : State) (ps : List ListPlace) :
    (releaseReadings s ps).store = s.store := by
  unfold releaseReadings; rfl
@[simp] theorem releaseReadings_recorder (s : State) (ps : List ListPlace) :
    (releaseReadings s ps).recorder = s.recorder := by
  unfold releaseReadings; rfl
@[simp] theorem releaseReadings_ports (s : State) (ps : List ListPlace) :
    (releaseReadings s ps).ports = s.ports := by
  unfold releaseReadings; rfl
@[simp] theorem releaseReadings_freeIdx (s : State) (ps : List ListPlace) :
    (releaseReadings s ps).freeIdx = s.freeIdx := by
  unfold releaseReadings; rfl
@[simp] theorem releaseReadings_pending (s : State) (ps : List ListPlace) :
    (releaseReadings s ps).pending = s.pending := by
  unfold releaseReadings; rfl

/-! ## raiseWarning -/

@[simp] theorem raiseWarning_anchors (s : State) :
    (raiseWarning s).anchors = s.anchors := by
  unfold raiseWarning; rfl
@[simp] theorem raiseWarning_cure (s : State) : (raiseWarning s).cure = s.cure := by
  unfold raiseWarning; rfl
@[simp] theorem raiseWarning_sections (s : State) :
    (raiseWarning s).sections = s.sections := by
  unfold raiseWarning; rfl
@[simp] theorem raiseWarning_config (s : State) : (raiseWarning s).config = s.config := by
  unfold raiseWarning; rfl
@[simp] theorem raiseWarning_schedule (s : State) :
    (raiseWarning s).schedule = s.schedule := by
  unfold raiseWarning; rfl
@[simp] theorem raiseWarning_results (s : State) :
    (raiseWarning s).results = s.results := by
  unfold raiseWarning; rfl
@[simp] theorem raiseWarning_meas (s : State) : (raiseWarning s).meas = s.meas := by
  unfold raiseWarning; rfl
@[simp] theorem raiseWarning_clock (s : State) : (raiseWarning s).clock = s.clock := by
  unfold raiseWarning; rfl
@[simp] theorem raiseWarning_time (s : State) : (raiseWarning s).time = s.time := by
  unfold raiseWarning; rfl
@[simp] theorem raiseWarning_rig (s : State) : (raiseWarning s).rig = s.rig := by
  unfold raiseWarning; rfl
@[simp] theorem raiseWarning_grout (s : State) : (raiseWarning s).grout = s.grout := by
  unfold raiseWarning; rfl
@[simp] theorem raiseWarning_session (s : State) :
    (raiseWarning s).session = s.session := by
  unfold raiseWarning; rfl
@[simp] theorem raiseWarning_pool (s : State) : (raiseWarning s).pool = s.pool := by
  unfold raiseWarning; rfl
@[simp] theorem raiseWarning_watch (s : State) : (raiseWarning s).watch = s.watch := by
  unfold raiseWarning; rfl
@[simp] theorem raiseWarning_permits (s : State) :
    (raiseWarning s).permits = s.permits := by
  unfold raiseWarning; rfl
@[simp] theorem raiseWarning_store (s : State) : (raiseWarning s).store = s.store := by
  unfold raiseWarning; rfl
@[simp] theorem raiseWarning_ports (s : State) : (raiseWarning s).ports = s.ports := by
  unfold raiseWarning; rfl
@[simp] theorem raiseWarning_freeIdx (s : State) :
    (raiseWarning s).freeIdx = s.freeIdx := by
  unfold raiseWarning; rfl
@[simp] theorem raiseWarning_pending (s : State) :
    (raiseWarning s).pending = s.pending := by
  unfold raiseWarning; rfl

/-! ## clearWarning -/

@[simp] theorem clearWarning_anchors (s : State) :
    (clearWarning s).anchors = s.anchors := by
  unfold clearWarning; rfl
@[simp] theorem clearWarning_cure (s : State) : (clearWarning s).cure = s.cure := by
  unfold clearWarning; rfl
@[simp] theorem clearWarning_sections (s : State) :
    (clearWarning s).sections = s.sections := by
  unfold clearWarning; rfl
@[simp] theorem clearWarning_config (s : State) : (clearWarning s).config = s.config := by
  unfold clearWarning; rfl
@[simp] theorem clearWarning_schedule (s : State) :
    (clearWarning s).schedule = s.schedule := by
  unfold clearWarning; rfl
@[simp] theorem clearWarning_results (s : State) :
    (clearWarning s).results = s.results := by
  unfold clearWarning; rfl
@[simp] theorem clearWarning_meas (s : State) : (clearWarning s).meas = s.meas := by
  unfold clearWarning; rfl
@[simp] theorem clearWarning_clock (s : State) : (clearWarning s).clock = s.clock := by
  unfold clearWarning; rfl
@[simp] theorem clearWarning_time (s : State) : (clearWarning s).time = s.time := by
  unfold clearWarning; rfl
@[simp] theorem clearWarning_rig (s : State) : (clearWarning s).rig = s.rig := by
  unfold clearWarning; rfl
@[simp] theorem clearWarning_grout (s : State) : (clearWarning s).grout = s.grout := by
  unfold clearWarning; rfl
@[simp] theorem clearWarning_session (s : State) :
    (clearWarning s).session = s.session := by
  unfold clearWarning; rfl
@[simp] theorem clearWarning_pool (s : State) : (clearWarning s).pool = s.pool := by
  unfold clearWarning; rfl
@[simp] theorem clearWarning_watch (s : State) : (clearWarning s).watch = s.watch := by
  unfold clearWarning; rfl
@[simp] theorem clearWarning_permits (s : State) :
    (clearWarning s).permits = s.permits := by
  unfold clearWarning; rfl
@[simp] theorem clearWarning_store (s : State) : (clearWarning s).store = s.store := by
  unfold clearWarning; rfl
@[simp] theorem clearWarning_ports (s : State) : (clearWarning s).ports = s.ports := by
  unfold clearWarning; rfl
@[simp] theorem clearWarning_freeIdx (s : State) :
    (clearWarning s).freeIdx = s.freeIdx := by
  unfold clearWarning; rfl
@[simp] theorem clearWarning_pending (s : State) :
    (clearWarning s).pending = s.pending := by
  unfold clearWarning; rfl

/-! ## flowSecond -/

@[simp] theorem flowSecond_anchors (s : State) : (flowSecond s).anchors = s.anchors := by
  unfold flowSecond; rfl
@[simp] theorem flowSecond_cure (s : State) : (flowSecond s).cure = s.cure := by
  unfold flowSecond; rfl
@[simp] theorem flowSecond_sections (s : State) : (flowSecond s).sections = s.sections := by
  unfold flowSecond; rfl
@[simp] theorem flowSecond_config (s : State) : (flowSecond s).config = s.config := by
  unfold flowSecond; rfl
@[simp] theorem flowSecond_schedule (s : State) : (flowSecond s).schedule = s.schedule := by
  unfold flowSecond; rfl
@[simp] theorem flowSecond_results (s : State) : (flowSecond s).results = s.results := by
  unfold flowSecond; rfl
@[simp] theorem flowSecond_clock (s : State) : (flowSecond s).clock = s.clock := by
  unfold flowSecond; rfl
@[simp] theorem flowSecond_supply (s : State) : (flowSecond s).supply = s.supply := by
  unfold flowSecond; rfl
@[simp] theorem flowSecond_rig (s : State) : (flowSecond s).rig = s.rig := by
  unfold flowSecond; rfl
@[simp] theorem flowSecond_grout (s : State) : (flowSecond s).grout = s.grout := by
  unfold flowSecond; rfl
@[simp] theorem flowSecond_session (s : State) : (flowSecond s).session = s.session := by
  unfold flowSecond; rfl
@[simp] theorem flowSecond_pool (s : State) : (flowSecond s).pool = s.pool := by
  unfold flowSecond; rfl
@[simp] theorem flowSecond_watch (s : State) : (flowSecond s).watch = s.watch := by
  unfold flowSecond; rfl
@[simp] theorem flowSecond_permits (s : State) : (flowSecond s).permits = s.permits := by
  unfold flowSecond; rfl
@[simp] theorem flowSecond_store (s : State) : (flowSecond s).store = s.store := by
  unfold flowSecond; rfl
@[simp] theorem flowSecond_recorder (s : State) : (flowSecond s).recorder = s.recorder := by
  unfold flowSecond; rfl
@[simp] theorem flowSecond_ports (s : State) : (flowSecond s).ports = s.ports := by
  unfold flowSecond; rfl
@[simp] theorem flowSecond_freeIdx (s : State) : (flowSecond s).freeIdx = s.freeIdx := by
  unfold flowSecond; rfl
@[simp] theorem flowSecond_pending (s : State) : (flowSecond s).pending = s.pending := by
  unfold flowSecond; rfl

/-! ## reportedSection -/

@[simp] theorem reportedSection_anchors (s : State) (n : Nat) (v : Int) :
    (reportedSection s n v).anchors = s.anchors := by
  unfold reportedSection setSection; rfl
@[simp] theorem reportedSection_cure (s : State) (n : Nat) (v : Int) :
    (reportedSection s n v).cure = s.cure := by
  unfold reportedSection setSection; rfl
@[simp] theorem reportedSection_config (s : State) (n : Nat) (v : Int) :
    (reportedSection s n v).config = s.config := by
  unfold reportedSection setSection; rfl
@[simp] theorem reportedSection_schedule (s : State) (n : Nat) (v : Int) :
    (reportedSection s n v).schedule = s.schedule := by
  unfold reportedSection setSection; rfl
@[simp] theorem reportedSection_results (s : State) (n : Nat) (v : Int) :
    (reportedSection s n v).results = s.results := by
  unfold reportedSection setSection; rfl
@[simp] theorem reportedSection_meas (s : State) (n : Nat) (v : Int) :
    (reportedSection s n v).meas = s.meas := by
  unfold reportedSection setSection; rfl
@[simp] theorem reportedSection_clock (s : State) (n : Nat) (v : Int) :
    (reportedSection s n v).clock = s.clock := by
  unfold reportedSection setSection; rfl
@[simp] theorem reportedSection_time (s : State) (n : Nat) (v : Int) :
    (reportedSection s n v).time = s.time := by
  unfold reportedSection setSection; rfl
@[simp] theorem reportedSection_supply (s : State) (n : Nat) (v : Int) :
    (reportedSection s n v).supply = s.supply := by
  unfold reportedSection setSection; rfl
@[simp] theorem reportedSection_rig (s : State) (n : Nat) (v : Int) :
    (reportedSection s n v).rig = s.rig := by
  unfold reportedSection setSection; rfl
@[simp] theorem reportedSection_grout (s : State) (n : Nat) (v : Int) :
    (reportedSection s n v).grout = s.grout := by
  unfold reportedSection setSection; rfl
@[simp] theorem reportedSection_session (s : State) (n : Nat) (v : Int) :
    (reportedSection s n v).session = s.session := by
  unfold reportedSection setSection; rfl
@[simp] theorem reportedSection_pool (s : State) (n : Nat) (v : Int) :
    (reportedSection s n v).pool = s.pool := by
  unfold reportedSection setSection; rfl
@[simp] theorem reportedSection_watch (s : State) (n : Nat) (v : Int) :
    (reportedSection s n v).watch = s.watch := by
  unfold reportedSection setSection; rfl
@[simp] theorem reportedSection_permits (s : State) (n : Nat) (v : Int) :
    (reportedSection s n v).permits = s.permits := by
  unfold reportedSection setSection; rfl
@[simp] theorem reportedSection_store (s : State) (n : Nat) (v : Int) :
    (reportedSection s n v).store = s.store := by
  unfold reportedSection setSection; rfl
@[simp] theorem reportedSection_recorder (s : State) (n : Nat) (v : Int) :
    (reportedSection s n v).recorder = s.recorder := by
  unfold reportedSection setSection; rfl
@[simp] theorem reportedSection_ports (s : State) (n : Nat) (v : Int) :
    (reportedSection s n v).ports = s.ports := by
  unfold reportedSection setSection; rfl
@[simp] theorem reportedSection_freeIdx (s : State) (n : Nat) (v : Int) :
    (reportedSection s n v).freeIdx = s.freeIdx := by
  unfold reportedSection setSection; rfl
@[simp] theorem reportedSection_pending (s : State) (n : Nat) (v : Int) :
    (reportedSection s n v).pending = s.pending := by
  unfold reportedSection setSection; rfl

/-! ## wholeSecond -/

@[simp] theorem wholeSecond_anchors (s : State) : (wholeSecond s).anchors = s.anchors := by
  unfold wholeSecond; rfl
@[simp] theorem wholeSecond_cure (s : State) : (wholeSecond s).cure = s.cure := by
  unfold wholeSecond; rfl
@[simp] theorem wholeSecond_config (s : State) : (wholeSecond s).config = s.config := by
  unfold wholeSecond; rfl
@[simp] theorem wholeSecond_schedule (s : State) :
    (wholeSecond s).schedule = s.schedule := by
  unfold wholeSecond; rfl
@[simp] theorem wholeSecond_results (s : State) : (wholeSecond s).results = s.results := by
  unfold wholeSecond; rfl
@[simp] theorem wholeSecond_meas (s : State) : (wholeSecond s).meas = s.meas := by
  unfold wholeSecond; rfl
@[simp] theorem wholeSecond_clock (s : State) : (wholeSecond s).clock = s.clock := by
  unfold wholeSecond; rfl
@[simp] theorem wholeSecond_supply (s : State) : (wholeSecond s).supply = s.supply := by
  unfold wholeSecond; rfl
@[simp] theorem wholeSecond_rig (s : State) : (wholeSecond s).rig = s.rig := by
  unfold wholeSecond; rfl
@[simp] theorem wholeSecond_grout (s : State) : (wholeSecond s).grout = s.grout := by
  unfold wholeSecond; rfl
@[simp] theorem wholeSecond_session (s : State) : (wholeSecond s).session = s.session := by
  unfold wholeSecond; rfl
@[simp] theorem wholeSecond_pool (s : State) : (wholeSecond s).pool = s.pool := by
  unfold wholeSecond; rfl
@[simp] theorem wholeSecond_permits (s : State) : (wholeSecond s).permits = s.permits := by
  unfold wholeSecond; rfl
@[simp] theorem wholeSecond_store (s : State) : (wholeSecond s).store = s.store := by
  unfold wholeSecond; rfl
@[simp] theorem wholeSecond_recorder (s : State) :
    (wholeSecond s).recorder = s.recorder := by
  unfold wholeSecond; rfl
@[simp] theorem wholeSecond_ports (s : State) : (wholeSecond s).ports = s.ports := by
  unfold wholeSecond; rfl
@[simp] theorem wholeSecond_freeIdx (s : State) : (wholeSecond s).freeIdx = s.freeIdx := by
  unfold wholeSecond; rfl
@[simp] theorem wholeSecond_pending (s : State) : (wholeSecond s).pending = s.pending := by
  unfold wholeSecond; rfl

/-! ## drain -/

@[simp] theorem drain_anchors (s : State) : (drain s).anchors = s.anchors := by
  unfold drain; rfl
@[simp] theorem drain_cure (s : State) : (drain s).cure = s.cure := by
  unfold drain; rfl
@[simp] theorem drain_sections (s : State) : (drain s).sections = s.sections := by
  unfold drain; rfl
@[simp] theorem drain_config (s : State) : (drain s).config = s.config := by
  unfold drain; rfl
@[simp] theorem drain_schedule (s : State) : (drain s).schedule = s.schedule := by
  unfold drain; rfl
@[simp] theorem drain_results (s : State) : (drain s).results = s.results := by
  unfold drain; rfl
@[simp] theorem drain_meas (s : State) : (drain s).meas = s.meas := by
  unfold drain; rfl
@[simp] theorem drain_clock (s : State) : (drain s).clock = s.clock := by
  unfold drain; rfl
@[simp] theorem drain_time (s : State) : (drain s).time = s.time := by
  unfold drain; rfl
@[simp] theorem drain_supply (s : State) : (drain s).supply = s.supply := by
  unfold drain; rfl
@[simp] theorem drain_rig (s : State) : (drain s).rig = s.rig := by
  unfold drain; rfl
@[simp] theorem drain_grout (s : State) : (drain s).grout = s.grout := by
  unfold drain; rfl
@[simp] theorem drain_session (s : State) : (drain s).session = s.session := by
  unfold drain; rfl
@[simp] theorem drain_pool (s : State) : (drain s).pool = s.pool := by
  unfold drain; rfl
@[simp] theorem drain_watch (s : State) : (drain s).watch = s.watch := by
  unfold drain; rfl
@[simp] theorem drain_permits (s : State) : (drain s).permits = s.permits := by
  unfold drain; rfl
@[simp] theorem drain_store (s : State) : (drain s).store = s.store := by
  unfold drain; rfl
@[simp] theorem drain_freeIdx (s : State) : (drain s).freeIdx = s.freeIdx := by
  unfold drain; rfl
@[simp] theorem drain_pending (s : State) : (drain s).pending = s.pending := by
  unfold drain; rfl

/-! ## writeCause -/

@[simp] theorem writeCause_anchors (s : State) : (writeCause s).anchors = s.anchors := by
  unfold writeCause; rfl
@[simp] theorem writeCause_cure (s : State) : (writeCause s).cure = s.cure := by
  unfold writeCause; rfl
@[simp] theorem writeCause_sections (s : State) : (writeCause s).sections = s.sections := by
  unfold writeCause; rfl
@[simp] theorem writeCause_config (s : State) : (writeCause s).config = s.config := by
  unfold writeCause; rfl
@[simp] theorem writeCause_schedule (s : State) : (writeCause s).schedule = s.schedule := by
  unfold writeCause; rfl
@[simp] theorem writeCause_results (s : State) : (writeCause s).results = s.results := by
  unfold writeCause; rfl
@[simp] theorem writeCause_meas (s : State) : (writeCause s).meas = s.meas := by
  unfold writeCause; rfl
@[simp] theorem writeCause_clock (s : State) : (writeCause s).clock = s.clock := by
  unfold writeCause; rfl
@[simp] theorem writeCause_time (s : State) : (writeCause s).time = s.time := by
  unfold writeCause; rfl
@[simp] theorem writeCause_supply (s : State) : (writeCause s).supply = s.supply := by
  unfold writeCause; rfl
@[simp] theorem writeCause_rig (s : State) : (writeCause s).rig = s.rig := by
  unfold writeCause; rfl
@[simp] theorem writeCause_grout (s : State) : (writeCause s).grout = s.grout := by
  unfold writeCause; rfl
@[simp] theorem writeCause_session (s : State) : (writeCause s).session = s.session := by
  unfold writeCause; rfl
@[simp] theorem writeCause_pool (s : State) : (writeCause s).pool = s.pool := by
  unfold writeCause; rfl
@[simp] theorem writeCause_watch (s : State) : (writeCause s).watch = s.watch := by
  unfold writeCause; rfl
@[simp] theorem writeCause_permits (s : State) : (writeCause s).permits = s.permits := by
  unfold writeCause; rfl
@[simp] theorem writeCause_freeIdx (s : State) : (writeCause s).freeIdx = s.freeIdx := by
  unfold writeCause; rfl
@[simp] theorem writeCause_pending (s : State) : (writeCause s).pending = s.pending := by
  unfold writeCause; rfl

/-! ## restWatches -/

@[simp] theorem restWatches_anchors (s : State) : (restWatches s).anchors = s.anchors := by
  unfold restWatches; rfl
@[simp] theorem restWatches_cure (s : State) : (restWatches s).cure = s.cure := by
  unfold restWatches; rfl
@[simp] theorem restWatches_sections (s : State) :
    (restWatches s).sections = s.sections := by
  unfold restWatches; rfl
@[simp] theorem restWatches_config (s : State) : (restWatches s).config = s.config := by
  unfold restWatches; rfl
@[simp] theorem restWatches_schedule (s : State) :
    (restWatches s).schedule = s.schedule := by
  unfold restWatches; rfl
@[simp] theorem restWatches_results (s : State) : (restWatches s).results = s.results := by
  unfold restWatches; rfl
@[simp] theorem restWatches_meas (s : State) : (restWatches s).meas = s.meas := by
  unfold restWatches; rfl
@[simp] theorem restWatches_clock (s : State) : (restWatches s).clock = s.clock := by
  unfold restWatches; rfl
@[simp] theorem restWatches_time (s : State) : (restWatches s).time = s.time := by
  unfold restWatches; rfl
@[simp] theorem restWatches_supply (s : State) : (restWatches s).supply = s.supply := by
  unfold restWatches; rfl
@[simp] theorem restWatches_rig (s : State) : (restWatches s).rig = s.rig := by
  unfold restWatches; rfl
@[simp] theorem restWatches_grout (s : State) : (restWatches s).grout = s.grout := by
  unfold restWatches; rfl
@[simp] theorem restWatches_session (s : State) : (restWatches s).session = s.session := by
  unfold restWatches; rfl
@[simp] theorem restWatches_pool (s : State) : (restWatches s).pool = s.pool := by
  unfold restWatches; rfl
@[simp] theorem restWatches_permits (s : State) : (restWatches s).permits = s.permits := by
  unfold restWatches; rfl
@[simp] theorem restWatches_store (s : State) : (restWatches s).store = s.store := by
  unfold restWatches; rfl
@[simp] theorem restWatches_recorder (s : State) :
    (restWatches s).recorder = s.recorder := by
  unfold restWatches; rfl
@[simp] theorem restWatches_ports (s : State) : (restWatches s).ports = s.ports := by
  unfold restWatches; rfl
@[simp] theorem restWatches_freeIdx (s : State) : (restWatches s).freeIdx = s.freeIdx := by
  unfold restWatches; rfl
@[simp] theorem restWatches_pending (s : State) : (restWatches s).pending = s.pending := by
  unfold restWatches; rfl

/-! ## setPermits -/

@[simp] theorem setPermits_anchors (s : State) : (setPermits s).anchors = s.anchors := by
  unfold setPermits; rfl
@[simp] theorem setPermits_cure (s : State) : (setPermits s).cure = s.cure := by
  unfold setPermits; rfl
@[simp] theorem setPermits_sections (s : State) : (setPermits s).sections = s.sections := by
  unfold setPermits; rfl
@[simp] theorem setPermits_config (s : State) : (setPermits s).config = s.config := by
  unfold setPermits; rfl
@[simp] theorem setPermits_schedule (s : State) : (setPermits s).schedule = s.schedule := by
  unfold setPermits; rfl
@[simp] theorem setPermits_results (s : State) : (setPermits s).results = s.results := by
  unfold setPermits; rfl
@[simp] theorem setPermits_meas (s : State) : (setPermits s).meas = s.meas := by
  unfold setPermits; rfl
@[simp] theorem setPermits_clock (s : State) : (setPermits s).clock = s.clock := by
  unfold setPermits; rfl
@[simp] theorem setPermits_time (s : State) : (setPermits s).time = s.time := by
  unfold setPermits; rfl
@[simp] theorem setPermits_supply (s : State) : (setPermits s).supply = s.supply := by
  unfold setPermits; rfl
@[simp] theorem setPermits_rig (s : State) : (setPermits s).rig = s.rig := by
  unfold setPermits; rfl
@[simp] theorem setPermits_grout (s : State) : (setPermits s).grout = s.grout := by
  unfold setPermits; rfl
@[simp] theorem setPermits_session (s : State) : (setPermits s).session = s.session := by
  unfold setPermits; rfl
@[simp] theorem setPermits_pool (s : State) : (setPermits s).pool = s.pool := by
  unfold setPermits; rfl
@[simp] theorem setPermits_watch (s : State) : (setPermits s).watch = s.watch := by
  unfold setPermits; rfl
@[simp] theorem setPermits_store (s : State) : (setPermits s).store = s.store := by
  unfold setPermits; rfl
@[simp] theorem setPermits_recorder (s : State) : (setPermits s).recorder = s.recorder := by
  unfold setPermits; rfl
@[simp] theorem setPermits_ports (s : State) : (setPermits s).ports = s.ports := by
  unfold setPermits; rfl
@[simp] theorem setPermits_freeIdx (s : State) : (setPermits s).freeIdx = s.freeIdx := by
  unfold setPermits; rfl
@[simp] theorem setPermits_pending (s : State) : (setPermits s).pending = s.pending := by
  unfold setPermits; rfl

/-! ## joinItems -/

@[simp] theorem joinItems_anchors (s : State) (items : List Item) :
    (joinItems s items).anchors = s.anchors := by
  unfold joinItems; rfl
@[simp] theorem joinItems_cure (s : State) (items : List Item) :
    (joinItems s items).cure = s.cure := by
  unfold joinItems; rfl
@[simp] theorem joinItems_sections (s : State) (items : List Item) :
    (joinItems s items).sections = s.sections := by
  unfold joinItems; rfl
@[simp] theorem joinItems_config (s : State) (items : List Item) :
    (joinItems s items).config = s.config := by
  unfold joinItems; rfl
@[simp] theorem joinItems_schedule (s : State) (items : List Item) :
    (joinItems s items).schedule = s.schedule := by
  unfold joinItems; rfl
@[simp] theorem joinItems_results (s : State) (items : List Item) :
    (joinItems s items).results = s.results := by
  unfold joinItems; rfl
@[simp] theorem joinItems_meas (s : State) (items : List Item) :
    (joinItems s items).meas = s.meas := by
  unfold joinItems; rfl
@[simp] theorem joinItems_clock (s : State) (items : List Item) :
    (joinItems s items).clock = s.clock := by
  unfold joinItems; rfl
@[simp] theorem joinItems_time (s : State) (items : List Item) :
    (joinItems s items).time = s.time := by
  unfold joinItems; rfl
@[simp] theorem joinItems_supply (s : State) (items : List Item) :
    (joinItems s items).supply = s.supply := by
  unfold joinItems; rfl
@[simp] theorem joinItems_rig (s : State) (items : List Item) :
    (joinItems s items).rig = s.rig := by
  unfold joinItems; rfl
@[simp] theorem joinItems_grout (s : State) (items : List Item) :
    (joinItems s items).grout = s.grout := by
  unfold joinItems; rfl
@[simp] theorem joinItems_session (s : State) (items : List Item) :
    (joinItems s items).session = s.session := by
  unfold joinItems; rfl
@[simp] theorem joinItems_pool (s : State) (items : List Item) :
    (joinItems s items).pool = s.pool := by
  unfold joinItems; rfl
@[simp] theorem joinItems_watch (s : State) (items : List Item) :
    (joinItems s items).watch = s.watch := by
  unfold joinItems; rfl
@[simp] theorem joinItems_permits (s : State) (items : List Item) :
    (joinItems s items).permits = s.permits := by
  unfold joinItems; rfl
@[simp] theorem joinItems_store (s : State) (items : List Item) :
    (joinItems s items).store = s.store := by
  unfold joinItems; rfl
@[simp] theorem joinItems_ports (s : State) (items : List Item) :
    (joinItems s items).ports = s.ports := by
  unfold joinItems; rfl
@[simp] theorem joinItems_freeIdx (s : State) (items : List Item) :
    (joinItems s items).freeIdx = s.freeIdx := by
  unfold joinItems; rfl
@[simp] theorem joinItems_pending (s : State) (items : List Item) :
    (joinItems s items).pending = s.pending := by
  unfold joinItems; rfl

/-! ## postNotices -/

@[simp] theorem postNotices_anchors (s : State) (ns : List Notice) :
    (postNotices s ns).anchors = s.anchors := by
  unfold postNotices; rfl
@[simp] theorem postNotices_cure (s : State) (ns : List Notice) :
    (postNotices s ns).cure = s.cure := by
  unfold postNotices; rfl
@[simp] theorem postNotices_sections (s : State) (ns : List Notice) :
    (postNotices s ns).sections = s.sections := by
  unfold postNotices; rfl
@[simp] theorem postNotices_config (s : State) (ns : List Notice) :
    (postNotices s ns).config = s.config := by
  unfold postNotices; rfl
@[simp] theorem postNotices_schedule (s : State) (ns : List Notice) :
    (postNotices s ns).schedule = s.schedule := by
  unfold postNotices; rfl
@[simp] theorem postNotices_results (s : State) (ns : List Notice) :
    (postNotices s ns).results = s.results := by
  unfold postNotices; rfl
@[simp] theorem postNotices_meas (s : State) (ns : List Notice) :
    (postNotices s ns).meas = s.meas := by
  unfold postNotices; rfl
@[simp] theorem postNotices_clock (s : State) (ns : List Notice) :
    (postNotices s ns).clock = s.clock := by
  unfold postNotices; rfl
@[simp] theorem postNotices_time (s : State) (ns : List Notice) :
    (postNotices s ns).time = s.time := by
  unfold postNotices; rfl
@[simp] theorem postNotices_supply (s : State) (ns : List Notice) :
    (postNotices s ns).supply = s.supply := by
  unfold postNotices; rfl
@[simp] theorem postNotices_rig (s : State) (ns : List Notice) :
    (postNotices s ns).rig = s.rig := by
  unfold postNotices; rfl
@[simp] theorem postNotices_grout (s : State) (ns : List Notice) :
    (postNotices s ns).grout = s.grout := by
  unfold postNotices; rfl
@[simp] theorem postNotices_session (s : State) (ns : List Notice) :
    (postNotices s ns).session = s.session := by
  unfold postNotices; rfl
@[simp] theorem postNotices_pool (s : State) (ns : List Notice) :
    (postNotices s ns).pool = s.pool := by
  unfold postNotices; rfl
@[simp] theorem postNotices_watch (s : State) (ns : List Notice) :
    (postNotices s ns).watch = s.watch := by
  unfold postNotices; rfl
@[simp] theorem postNotices_permits (s : State) (ns : List Notice) :
    (postNotices s ns).permits = s.permits := by
  unfold postNotices; rfl
@[simp] theorem postNotices_store (s : State) (ns : List Notice) :
    (postNotices s ns).store = s.store := by
  unfold postNotices; rfl
@[simp] theorem postNotices_recorder (s : State) (ns : List Notice) :
    (postNotices s ns).recorder = s.recorder := by
  unfold postNotices; rfl
@[simp] theorem postNotices_freeIdx (s : State) (ns : List Notice) :
    (postNotices s ns).freeIdx = s.freeIdx := by
  unfold postNotices; rfl
@[simp] theorem postNotices_pending (s : State) (ns : List Notice) :
    (postNotices s ns).pending = s.pending := by
  unfold postNotices; rfl

/-! ## commit -/

@[simp] theorem commit_anchors (e : Ev) :
    (commit e).anchors = e.st.anchors := by
  unfold commit postNotices joinItems setPermits restWatches; rfl
@[simp] theorem commit_cure (e : Ev) :
    (commit e).cure = e.st.cure := by
  unfold commit postNotices joinItems setPermits restWatches; rfl
@[simp] theorem commit_sections (e : Ev) :
    (commit e).sections = e.st.sections := by
  unfold commit postNotices joinItems setPermits restWatches; rfl
@[simp] theorem commit_config (e : Ev) :
    (commit e).config = e.st.config := by
  unfold commit postNotices joinItems setPermits restWatches; rfl
@[simp] theorem commit_schedule (e : Ev) :
    (commit e).schedule = e.st.schedule := by
  unfold commit postNotices joinItems setPermits restWatches; rfl
@[simp] theorem commit_results (e : Ev) :
    (commit e).results = e.st.results := by
  unfold commit postNotices joinItems setPermits restWatches; rfl
@[simp] theorem commit_meas (e : Ev) :
    (commit e).meas = e.st.meas := by
  unfold commit postNotices joinItems setPermits restWatches; rfl
@[simp] theorem commit_clock (e : Ev) :
    (commit e).clock = e.st.clock := by
  unfold commit postNotices joinItems setPermits restWatches; rfl
@[simp] theorem commit_time (e : Ev) :
    (commit e).time = e.st.time := by
  unfold commit postNotices joinItems setPermits restWatches; rfl
@[simp] theorem commit_supply (e : Ev) :
    (commit e).supply = e.st.supply := by
  unfold commit postNotices joinItems setPermits restWatches; rfl
@[simp] theorem commit_rig (e : Ev) :
    (commit e).rig = e.st.rig := by
  unfold commit postNotices joinItems setPermits restWatches; rfl
@[simp] theorem commit_grout (e : Ev) :
    (commit e).grout = e.st.grout := by
  unfold commit postNotices joinItems setPermits restWatches; rfl
@[simp] theorem commit_session (e : Ev) :
    (commit e).session = e.st.session := by
  unfold commit postNotices joinItems setPermits restWatches; rfl
@[simp] theorem commit_pool (e : Ev) :
    (commit e).pool = e.st.pool := by
  unfold commit postNotices joinItems setPermits restWatches; rfl
@[simp] theorem commit_store (e : Ev) :
    (commit e).store = e.st.store := by
  unfold commit postNotices joinItems setPermits restWatches; rfl
@[simp] theorem commit_freeIdx (e : Ev) :
    (commit e).freeIdx = e.st.freeIdx := by
  unfold commit postNotices joinItems setPermits restWatches; rfl
@[simp] theorem commit_pending (e : Ev) :
    (commit e).pending = e.st.pending := by
  unfold commit postNotices joinItems setPermits restWatches; rfl

/-! ## putAnswer -/

@[simp] theorem putAnswer_anchors (k : Byte) (p : Port) (r : Reply) :
    (putAnswer k p r).st.anchors = r.ev.st.anchors := by
  unfold putAnswer Ev.mod; rfl
@[simp] theorem putAnswer_cure (k : Byte) (p : Port) (r : Reply) :
    (putAnswer k p r).st.cure = r.ev.st.cure := by
  unfold putAnswer Ev.mod; rfl
@[simp] theorem putAnswer_sections (k : Byte) (p : Port) (r : Reply) :
    (putAnswer k p r).st.sections = r.ev.st.sections := by
  unfold putAnswer Ev.mod; rfl
@[simp] theorem putAnswer_config (k : Byte) (p : Port) (r : Reply) :
    (putAnswer k p r).st.config = r.ev.st.config := by
  unfold putAnswer Ev.mod; rfl
@[simp] theorem putAnswer_schedule (k : Byte) (p : Port) (r : Reply) :
    (putAnswer k p r).st.schedule = r.ev.st.schedule := by
  unfold putAnswer Ev.mod; rfl
@[simp] theorem putAnswer_results (k : Byte) (p : Port) (r : Reply) :
    (putAnswer k p r).st.results = r.ev.st.results := by
  unfold putAnswer Ev.mod; rfl
@[simp] theorem putAnswer_meas (k : Byte) (p : Port) (r : Reply) :
    (putAnswer k p r).st.meas = r.ev.st.meas := by
  unfold putAnswer Ev.mod; rfl
@[simp] theorem putAnswer_clock (k : Byte) (p : Port) (r : Reply) :
    (putAnswer k p r).st.clock = r.ev.st.clock := by
  unfold putAnswer Ev.mod; rfl
@[simp] theorem putAnswer_time (k : Byte) (p : Port) (r : Reply) :
    (putAnswer k p r).st.time = r.ev.st.time := by
  unfold putAnswer Ev.mod; rfl
@[simp] theorem putAnswer_supply (k : Byte) (p : Port) (r : Reply) :
    (putAnswer k p r).st.supply = r.ev.st.supply := by
  unfold putAnswer Ev.mod; rfl
@[simp] theorem putAnswer_rig (k : Byte) (p : Port) (r : Reply) :
    (putAnswer k p r).st.rig = r.ev.st.rig := by
  unfold putAnswer Ev.mod; rfl
@[simp] theorem putAnswer_grout (k : Byte) (p : Port) (r : Reply) :
    (putAnswer k p r).st.grout = r.ev.st.grout := by
  unfold putAnswer Ev.mod; rfl
@[simp] theorem putAnswer_session (k : Byte) (p : Port) (r : Reply) :
    (putAnswer k p r).st.session = r.ev.st.session := by
  unfold putAnswer Ev.mod; rfl
@[simp] theorem putAnswer_pool (k : Byte) (p : Port) (r : Reply) :
    (putAnswer k p r).st.pool = r.ev.st.pool := by
  unfold putAnswer Ev.mod; rfl
@[simp] theorem putAnswer_watch (k : Byte) (p : Port) (r : Reply) :
    (putAnswer k p r).st.watch = r.ev.st.watch := by
  unfold putAnswer Ev.mod; rfl
@[simp] theorem putAnswer_permits (k : Byte) (p : Port) (r : Reply) :
    (putAnswer k p r).st.permits = r.ev.st.permits := by
  unfold putAnswer Ev.mod; rfl
@[simp] theorem putAnswer_store (k : Byte) (p : Port) (r : Reply) :
    (putAnswer k p r).st.store = r.ev.st.store := by
  unfold putAnswer Ev.mod; rfl
@[simp] theorem putAnswer_recorder (k : Byte) (p : Port) (r : Reply) :
    (putAnswer k p r).st.recorder = r.ev.st.recorder := by
  unfold putAnswer Ev.mod; rfl
@[simp] theorem putAnswer_freeIdx (k : Byte) (p : Port) (r : Reply) :
    (putAnswer k p r).st.freeIdx = r.ev.st.freeIdx := by
  unfold putAnswer Ev.mod; rfl
@[simp] theorem putAnswer_pending (k : Byte) (p : Port) (r : Reply) :
    (putAnswer k p r).st.pending = r.ev.st.pending := by
  unfold putAnswer Ev.mod; rfl

end Sys2Proof.Machine
end

