-- ==== Sys2Proof/Laws/Ops.lean ====
section
/-! SUPPORT. What the shared operations can do, said once: offering notices, sending, joining the write list, the end
of an event, and the taking of a request. -/

namespace Sys2Proof.Machine

/-! ## Offering and sending (R197 to R199) -/

/-- Offering a notice touches the notice queue and NOTICE_DROPPED alone. -/
theorem offerNotice_keeps (p : PortState) (n : Notice) :
    PortKeeps p (offerNotice p n) ∧ FlagsKept p (offerNotice p n) ∧ (offerNotice p n).slot = p.slot ∧
      (offerNotice p n).sending = p.sending := by
  unfold offerNotice
  split
  · split
    · simp [PortKeeps, FlagsKept]
    · split <;> simp [PortKeeps, FlagsKept]
  · simp [PortKeeps, FlagsKept]

theorem PortKeeps.trans {a b c : PortState} (h : PortKeeps a b) (g : PortKeeps b c) : PortKeeps a c :=
  ⟨g.1.trans h.1, g.2.1.trans h.2.1, g.2.2.1.trans h.2.2.1, g.2.2.2.trans h.2.2.2⟩

theorem PortKeeps.refl (a : PortState) : PortKeeps a a := ⟨rfl, rfl, rfl, rfl⟩

theorem FlagsKept.trans {a b c : PortState} (h : FlagsKept a b) (g : FlagsKept b c) : FlagsKept a c := by
  unfold FlagsKept at *
  rw [g, h]

theorem FlagsKept.refl (a : PortState) : FlagsKept a a := rfl

/-- Offering notices touches the notice queue and NOTICE_DROPPED alone. -/
theorem offerAll_keeps (pid : Port) (ns : List Notice) (p : PortState) :
    PortKeeps p (offerAll pid ns p) ∧ FlagsKept p (offerAll pid ns p) ∧ (offerAll pid ns p).slot = p.slot ∧
      (offerAll pid ns p).sending = p.sending := by
  unfold offerAll
  induction ns generalizing p with
  | nil => exact ⟨PortKeeps.refl p, FlagsKept.refl p, rfl, rfl⟩
  | cons n rest ih =>
    simp only [List.foldl_cons]
    obtain ⟨a, b, c, d⟩ := ih (if n.goesTo pid then offerNotice p n else p)
    split at a <;> rename_i h <;> simp only [h, if_true] at b c d ⊢
    · obtain ⟨a', b', c', d'⟩ := offerNotice_keeps p n
      exact ⟨a'.trans a, b'.trans b, c.trans c', d.trans d'⟩
    · exact ⟨a, b, c, d⟩

/-- Beginning a frame touches the slot, the notice queue and the frame being sent alone. -/
theorem pump_keeps (p : PortState) : PortKeeps p (pump p) ∧ FlagsKept p (pump p) := by
  unfold pump
  split
  · split <;> simp [PortKeeps, FlagsKept]
  · simp [PortKeeps, FlagsKept]

/-- A port on the bus answers: the slot's frames stand in it, the first being sent if the port was free (R197). -/
theorem pump_answers (p q : PortState) (frames : List AnswerFrame) (f : AnswerFrame) (rest : List AnswerFrame)
    (hf : frames = f :: rest) (hl : q.link = .onBus) (hs : q.slot = frames) (hp : q.sending = p.sending) :
    Answers p (pump q) frames := by
  subst hf
  unfold Answers pump
  by_cases h : p.sending = none
  · simp [hl, hs, hp, h]
  · simp [hl, hs, hp, h]

/-- A notice queue that is within its room stays so (R198). -/
theorem offerNotice_room (p : PortState) (n : Notice) (h : p.notices.length ≤ Config.noticeRoom) :
    (offerNotice p n).notices.length ≤ Config.noticeRoom := by
  unfold offerNotice
  split
  · split
    · rename_i q hq
      have hmem := List.mem_of_find?_eq_some hq
      have hkey := List.find?_some hq
      have hlt : (p.notices.filter fun r => r.key ≠ n.key).length < p.notices.length := by
        rw [List.length_filter_lt_length_iff_exists]
        exact ⟨q, hmem, by simpa using hkey⟩
      simp only [List.length_append, List.length_cons, List.length_nil]
      omega
    · split
      · simp only [List.length_append, List.length_drop, List.length_cons, List.length_nil]
        unfold Config.noticeRoom at *
        omega
      · simp only [List.length_append, List.length_cons, List.length_nil]
        unfold Config.noticeRoom at *
        omega
  · exact h

/-- Offering notices keeps the queue within its room (R198). -/
theorem offerAll_room (pid : Port) (ns : List Notice) (p : PortState) (h : p.notices.length ≤ Config.noticeRoom) :
    (offerAll pid ns p).notices.length ≤ Config.noticeRoom := by
  unfold offerAll
  induction ns generalizing p with
  | nil => exact h
  | cons n rest ih =>
    simp only [List.foldl_cons]
    split
    · exact ih _ (offerNotice_room p n h)
    · exact ih _ h

/-- Beginning a frame makes no queue longer. -/
theorem pump_room (p : PortState) (h : p.notices.length ≤ Config.noticeRoom) :
    (pump p).notices.length ≤ Config.noticeRoom := by
  unfold pump
  split
  · split
    · exact h
    · rename_i n rest hn
      simp only
      rw [hn] at h
      simp only [List.length_cons] at h
      omega
    · exact h
  · exact h

/-! ## The write list (R182, R183) -/

theorem Dirties.refl (s : State) : Dirties [] s s := by
  refine ⟨by simp, List.prefix_rfl, fun i hi => .inl hi, ?_, rfl, rfl, rfl, rfl, rfl, rfl⟩
  unfold SameWrite
  split <;> simp_all

/-- The recorder's part of Dirties, for one item. -/
theorem joinItem_spec (r : Recorder) (i : Item) :
    (i ∈ (joinItem r i).list ∨ ∃ j, (joinItem r i).writer = .writing j true ∧ j.item = i) ∧
      r.list <+: (joinItem r i).list ∧ (∀ k ∈ (joinItem r i).list, k ∈ r.list ∨ k = i) ∧
      SameWrite r.writer (joinItem r i).writer ∧ (joinItem r i).warned = r.warned ∧
      (joinItem r i).markOwed = r.markOwed ∧ (joinItem r i).cause = r.cause ∧ (joinItem r i).causeDue = r.causeDue ∧
      (joinItem r i).causeOpen = r.causeOpen ∧ (joinItem r i).draining = r.draining := by
  unfold joinItem
  split
  · rename_i job noted hw
    split
    · rename_i hj
      exact ⟨.inr ⟨job, rfl, hj⟩, List.prefix_rfl, fun k hk => .inl hk, by simp [hw, SameWrite], rfl, rfl, rfl, rfl, rfl, rfl⟩
    · split
      · rename_i hc
        refine ⟨.inl (by simpa using hc), List.prefix_rfl, fun k hk => .inl hk, by simp [hw, SameWrite], rfl, rfl, rfl,
          rfl, rfl, rfl⟩
      · refine ⟨.inl (by simp), List.prefix_append .., fun k hk => ?_, by simp [hw, SameWrite], rfl, rfl, rfl, rfl, rfl, rfl⟩
        simpa using hk
  · rename_i hw
    have hsame : SameWrite r.writer r.writer := by unfold SameWrite; split <;> simp_all
    split
    · rename_i hc
      exact ⟨.inl (by simpa using hc), List.prefix_rfl, fun k hk => .inl hk, hsame, rfl, rfl, rfl, rfl, rfl, rfl⟩
    · refine ⟨.inl (by simp), List.prefix_append .., fun k hk => ?_, hsame, rfl, rfl, rfl, rfl, rfl, rfl⟩
      simpa using hk

theorem SameWrite.refl (a : Writer) : SameWrite a a := by unfold SameWrite; split <;> simp_all

theorem SameWrite.trans {a b c : Writer} (h : SameWrite a b) (g : SameWrite b c) : SameWrite a c := by
  cases a <;> cases b <;> cases c <;> simp_all [SameWrite]

/-- An item that waits goes on waiting while further items join. -/
theorem joinItem_awaits (r : Recorder) (i k : Item)
    (h : k ∈ r.list ∨ ∃ j, r.writer = .writing j true ∧ j.item = k) :
    k ∈ (joinItem r i).list ∨ ∃ j, (joinItem r i).writer = .writing j true ∧ j.item = k := by
  obtain ⟨-, hpre, -, hsame, -⟩ := joinItem_spec r i
  rcases h with h | ⟨j, hw, hj⟩
  · exact .inl (hpre.subset h)
  · right
    rw [hw] at hsame
    unfold SameWrite at hsame
    split at hsame
    · rename_i a b c d h1 h2
      obtain ⟨rfl, hn⟩ := hsame
      injection h1 with h1a h1b
      subst h1a h1b
      exact ⟨j, by rw [h2, hn rfl], hj⟩
    · exact ⟨j, hsame, hj⟩

/-- The items of one event joined to a recorder, in any order. -/
theorem joinAll_spec (items : List Item) (r : Recorder) :
    (∀ i ∈ items, i ∈ (items.foldl joinItem r).list ∨
        ∃ j, (items.foldl joinItem r).writer = .writing j true ∧ j.item = i) ∧
      r.list <+: (items.foldl joinItem r).list ∧
      (∀ k ∈ (items.foldl joinItem r).list, k ∈ r.list ∨ k ∈ items) ∧
      SameWrite r.writer (items.foldl joinItem r).writer ∧ (items.foldl joinItem r).warned = r.warned ∧
      (items.foldl joinItem r).markOwed = r.markOwed ∧ (items.foldl joinItem r).cause = r.cause ∧
      (items.foldl joinItem r).causeDue = r.causeDue ∧
      (items.foldl joinItem r).causeOpen = r.causeOpen ∧ (items.foldl joinItem r).draining = r.draining := by
  induction items generalizing r with
  | nil => exact ⟨by simp, List.prefix_rfl, fun k hk => .inl hk, SameWrite.refl _, rfl, rfl, rfl, rfl, rfl, rfl⟩
  | cons i rest ih =>
    obtain ⟨a1, a2, a3, a4, a5, a6, a7, a8, a9, a10⟩ := joinItem_spec r i
    obtain ⟨b1, b2, b3, b4, b5, b6, b7, b8, b9, b10⟩ := ih (joinItem r i)
    simp only [List.foldl_cons]
    refine ⟨?_, a2.trans b2, ?_, a4.trans b4, b5.trans a5, b6.trans a6, b7.trans a7, b8.trans a8, b9.trans a9,
      b10.trans a10⟩
    · have keep : ∀ (l : List Item) (q : Recorder) (k : Item),
          (k ∈ q.list ∨ ∃ j, q.writer = .writing j true ∧ j.item = k) →
          (k ∈ (l.foldl joinItem q).list ∨ ∃ j, (l.foldl joinItem q).writer = .writing j true ∧ j.item = k) := by
        intro l
        induction l with
        | nil => exact fun q k h => h
        | cons x more ihl => exact fun q k h => ihl _ k (joinItem_awaits q x k h)
      intro k hk
      rcases List.mem_cons.1 hk with rfl | hk
      · exact keep rest _ _ a1
      · exact b1 k hk
    · intro k hk
      rcases b3 k hk with h | h
      · rcases a3 k h with h | rfl
        · exact .inl h
        · exact .inr (by simp)
      · exact .inr (by simp [h])

theorem mem_insertByKey {α : Type} (key : α → List Nat) (x y : α) (l : List α) :
    y ∈ insertByKey key x l ↔ y = x ∨ y ∈ l := by
  induction l with
  | nil => simp [insertByKey]
  | cons z rest ih =>
    simp only [insertByKey]
    split
    · simp only [List.mem_cons, ih]
      tauto
    · simp

/-- Sorting keeps the members. -/
theorem mem_sortByKey {α : Type} (key : α → List Nat) (y : α) (l : List α) : y ∈ sortByKey key l ↔ y ∈ l := by
  unfold sortByKey
  have gen : ∀ (l acc : List α), y ∈ l.foldl (fun acc x => insertByKey key x acc) acc ↔ y ∈ acc ∨ y ∈ l := by
    intro l
    induction l with
    | nil => simp
    | cons z rest ih =>
      intro acc
      simp only [List.foldl_cons, ih, mem_insertByKey, List.mem_cons]
      tauto
  simpa using gen l []

/-- The items of an event join the write list (R182). -/
theorem joinItems_dirties (s : State) (items : List Item) : Dirties items s (joinItems s items) := by
  obtain ⟨a1, a2, a3, a4, a5, a6, a7, a8, a9, a10⟩ := joinAll_spec (sortByKey (itemKey s) items) s.recorder
  refine ⟨fun i hi => a1 i ((mem_sortByKey _ i items).2 hi), a2, fun i hi => ?_, a4, a5, a6, a7, a8, a9, a10⟩
  rcases a3 i hi with h | h
  · exact .inl h
  · exact .inr ((mem_sortByKey _ i items).1 h)

/-! ## Permit lines (R176, R177) -/

/-- A line's down causes depend on the work, the sections, the latches, the faults, the bus-off states and the warning
alone. -/
theorem lineCauses_congr (s t : State) (hrig : t.rig = s.rig) (hgrout : t.grout = s.grout) (hsess : t.session = s.session)
    (hsec : t.sections = s.sections) (hcfg : t.config = s.config) (hmeas : t.meas = s.meas)
    (hsup : t.supply.warning = s.supply.warning) (hlink : ∀ p, (t.ports.get p).link = (s.ports.get p).link)
    (hlatch : ∀ w, (t.watch.get w).latch = (s.watch.get w).latch) (l : PLine) : lineCauses t l = lineCauses s l := by
  have hwork : workAnchor t l = workAnchor s l := by cases l <;> simp [workAnchor, hrig, hgrout, hsess]
  have hcause : ∀ c, causeStands t l c = causeStands s l c := by
    intro c
    cases c
    · simp only [causeStands, hwork]
    · simp only [causeStands, hwork, sectionStopped, effectiveLevel, sectionRec, hsec]
      cases workAnchor s l <;> rfl
    · simp only [causeStands, watchDropped, hcfg, hlatch]
    · cases l <;> simp only [causeStands, limitLatched, hrig, hgrout]
    · simp only [causeStands, hmeas]
    · simp only [causeStands, hlink]
    · simp only [causeStands, hsup]
  simp only [lineCauses, funext hcause]

/-- Resting idle channels changes their counts and histories alone (R164). -/
theorem restWatches_flags (s : State) : WatchFlagsSame s (restWatches s) := by
  intro w
  simp only [restWatches, PerWatch.get_map]
  split <;> simp

theorem lineCauses_restWatches (s : State) (l : PLine) : lineCauses (restWatches s) l = lineCauses s l :=
  lineCauses_congr s (restWatches s) rfl rfl rfl rfl rfl rfl rfl (fun _ => rfl)
    (fun w => (restWatches_flags s w).2.2.2.2.2) l

theorem lineUp_restWatches (s : State) (l : PLine) : lineUp (restWatches s) l = lineUp s l := by
  simp only [lineUp, lineCauses_restWatches]

/-! ## The end of an event -/

/-- The ports at the end of an event: the notices offered, then free ports begin a frame. -/
theorem commit_ports (e : Ev) : ∃ ns : List Notice, ∀ p,
    (commit e).ports.get p = pump (offerAll p ns (e.st.ports.get p)) :=
  ⟨sortNotices (e.notices ++ permitNotices (restWatches e.st)), fun p => by
    unfold commit postNotices; simp⟩

theorem commit_permits (e : Ev) (l : PLine) : (commit e).permits.get l = lineUp e.st l := by
  rw [← lineUp_restWatches]
  have : (commit e).permits = PerPermit.tabulate (lineUp (restWatches e.st)) := by
    unfold commit postNotices joinItems setPermits; rfl
  rw [this, PerPermit.get_tabulate]

theorem commit_watch (e : Ev) : (commit e).watch = (restWatches e.st).watch := by
  unfold commit postNotices joinItems setPermits; rfl

theorem commit_recorder (e : Ev) :
    (commit e).recorder = (joinItems (setPermits (restWatches e.st)) e.dirty).recorder := by
  unfold commit postNotices; rfl

/-- The watch flags through the end of an event. -/
theorem commit_watchFlags (e : Ev) : WatchFlagsSame e.st (commit e) := by
  intro w
  rw [commit_watch]
  exact restWatches_flags e.st w

/-- The port states through the end of an event. -/
theorem commit_keeps (e : Ev) (p : Port) :
    PortKeeps (e.st.ports.get p) ((commit e).ports.get p) ∧ FlagsKept (e.st.ports.get p) ((commit e).ports.get p) := by
  obtain ⟨ns, h⟩ := commit_ports e
  rw [h]
  obtain ⟨a, b, -, -⟩ := offerAll_keeps p ns (e.st.ports.get p)
  obtain ⟨c, d⟩ := pump_keeps (offerAll p ns (e.st.ports.get p))
  exact ⟨a.trans c, b.trans d⟩

/-- The down causes of a line at the end of an event are those of the state the event came to. -/
theorem commit_causes (e : Ev) (l : PLine) : lineCauses (commit e) l = lineCauses e.st l := by
  refine lineCauses_congr e.st (commit e) ?_ ?_ ?_ ?_ ?_ ?_ ?_ ?_ ?_ l
  · simp
  · simp
  · simp
  · simp
  · simp
  · simp
  · simp
  · exact fun p => (commit_keeps e p).1.1
  · exact fun w => (commit_watchFlags e w).2.2.2.2.2

/-- Every line is exact at the end of an event (R177). -/
theorem commit_exact (e : Ev) : PermitsExact (commit e) := by
  intro l
  rw [commit_permits]
  simp only [lineUp, commit_causes]

/-- The PERMIT_CHANGED of an event are those of the lines its end changed (R177). -/
theorem permitNotices_eq (e : Ev) (s : State) (hp : e.st.permits = s.permits) :
    permitNotices (restWatches e.st) = permitChanges s (commit e) := by
  have h : (restWatches e.st).permits = s.permits := hp
  simp only [permitNotices, permitChanges, lineUp_restWatches, lineCauses_restWatches, commit_permits, commit_causes, h]

/-- The notices an event raised reach the ports at its end (R198). -/
theorem commit_told (e : Ev) (s : State) (hp : e.st.permits = s.permits) :
    Told (fun q => e.st.ports.get q) e.notices s (commit e) := by
  intro q
  rw [← permitNotices_eq e s hp]
  unfold commit postNotices
  simp

/-- The dirtied items of an event join the write list at its end (R182). -/
theorem commit_dirties (e : Ev) : Dirties e.dirty e.st (commit e) := by
  have h := joinItems_dirties (setPermits (restWatches e.st)) e.dirty
  unfold Dirties AwaitsWrite at *
  rw [commit_recorder]
  exact h

/-- The parts an event keeps are kept by its end, but for what every end touches. -/
theorem commit_frame (e : Ev) (s : State) (parts : List Part) (h : OnlyChanges parts s e.st) :
    OnlyChanges (parts ++ [.watch, .permits, .recorder, .ports]) s (commit e) := by
  intro x hx
  simp only [List.mem_append, List.mem_cons, List.not_mem_nil, or_false, not_or] at hx
  have hk := h x hx.1
  cases x <;> simp_all [SamePart]

/-! ## Taking a request (R194) -/

/-- An event that occurs or does not: the step never stops. -/
theorem occurs_next (e : Option Ev) (s : State) : ∃ t, occurs e s = .next t := by
  cases e <;> exact ⟨_, rfl⟩

/-- A request that is asked is handed to the owning block, whose reply is put into the slot. -/
theorem take_asked {k : ReqKind} {p : Port} {pl : List Byte} {s : State} (body : State → Reply)
    (h : Asked k p pl s) : take k p pl body s = .next (commit (putAnswer k.code p (body (takeFrame s p)))) := by
  obtain ⟨h1, h2, h3⟩ := h
  simp [take, takeEvent, occurs, decide_, h1, h2, h3]

/-- A frame that its port does not take next changes nothing. -/
theorem take_unasked {k : ReqKind} {p : Port} {pl : List Byte} {s : State} (body : State → Reply)
    (h : canTake s p k.code pl = false) : take k p pl body s = .next s := by
  simp [take, takeEvent, occurs, h]

theorem canTake_link {s : State} {p : Port} {c : Byte} {pl : List Byte} (h : canTake s p c pl = true) :
    (s.ports.get p).link = .onBus := by
  simp only [canTake, portReady, Bool.and_eq_true, decide_eq_true_eq] at h
  exact h.1.1.1

/-- The taking of a request with a reply that leaves the ports alone. -/
theorem taken_commit {k : Byte} {p : Port} {s : State} (r : Reply) (hl : (s.ports.get p).link = .onBus)
    (hp : r.ev.st.ports = (takeFrame s p).ports) : Taken p (answerFrames k r.body) s (commit (putAnswer k p r)) := by
  obtain ⟨ns, h⟩ := commit_ports (putAnswer k p r)
  have hself : (putAnswer k p r).st.ports.get p =
      { s.ports.get p with inbound := (s.ports.get p).inbound.drop 1, inHand := (s.ports.get p).inbound.head?,
                           slot := answerFrames k r.body } := by
    simp [putAnswer, hp, takeFrame]
  have hother : ∀ q, q ≠ p → (putAnswer k p r).st.ports.get q = s.ports.get q := by
    intro q hq
    simp [putAnswer, hp, takeFrame, PerPort.get_set_ne _ _ hq]
  have hkeep := commit_keeps (putAnswer k p r) p
  rw [hself] at hkeep
  refine ⟨?_, hkeep.1.2.2.1, hkeep.1.2.1, hkeep.1.1, hkeep.1.2.2.2, ?_⟩
  · rw [h, hself]
    obtain ⟨a, -, c, d⟩ := offerAll_keeps p ns
      { s.ports.get p with inbound := (s.ports.get p).inbound.drop 1, inHand := (s.ports.get p).inbound.head?,
                           slot := answerFrames k r.body }
    have hne : ∃ f rest, answerFrames k r.body = f :: rest := by
      unfold answerFrames
      split <;> exact ⟨_, _, rfl⟩
    obtain ⟨f, rest, hf⟩ := hne
    exact pump_answers _ _ _ f rest hf (by rw [a.1]; exact hl) c d
  · intro q hq
    have := commit_keeps (putAnswer k p r) q
    rwa [hother q hq] at this

/-- What the ports are told at a taking whose reply leaves the ports and the lines alone. -/
theorem taken_told (k : Byte) {p : Port} {s : State} (r : Reply) (hp : r.ev.st.ports = (takeFrame s p).ports)
    (hq : r.ev.st.permits = s.permits) :
    Told (tookRequest p (answerFrames k r.body) s) r.ev.notices s (commit (putAnswer k p r)) := by
  have h := commit_told (putAnswer k p r) s hq
  have hbase : (fun q => (putAnswer k p r).st.ports.get q) = tookRequest p (answerFrames k r.body) s := by
    funext q
    by_cases hqp : q = p
    · subst hqp
      simp [putAnswer, hp, takeFrame, tookRequest]
    · simp [putAnswer, hp, takeFrame, tookRequest, PerPort.get_set_ne _ _ hqp, hqp]
  rw [hbase] at h
  exact h

/-- The common part of an accepted request: the owning block answered DONE and left the ports and the record store
alone. -/
theorem accepted_commit {k : ReqKind} {p : Port} {pl : List Byte} {s : State} {r : Reply} {d : AnswerData}
    {parts : List Part} {items : List Item} (h : Asked k p pl s) (hb : r.body = .single .done d)
    (hd : r.ev.dirty = items) (hp : r.ev.st.ports = (takeFrame s p).ports) (hr : r.ev.st.recorder = s.recorder)
    (hq : r.ev.st.permits = s.permits) (hf : OnlyChanges (.ports :: parts) s r.ev.st) :
    Accepted k p d items r.ev.notices parts s (commit (putAnswer k.code p r)) := by
  have hl := canTake_link h.1
  refine ⟨?_, ?_, by simpa [hb, answerFrames] using taken_told k.code r hp hq, ?_, commit_exact _, ?_⟩
  · have := taken_commit (k := k.code) r hl hp
    rwa [hb] at this
  · have := (commit_keeps (putAnswer k.code p r) p).2
    unfold FlagsKept at *
    rw [this]
    simp [putAnswer, hp, takeFrame]
  · have := commit_dirties (putAnswer k.code p r)
    unfold Dirties at *
    simpa [hr, hd] using this
  · have : OnlyChanges (.ports :: parts) s (putAnswer k.code p r).st := by
      intro x hx
      have := hf x hx
      cases x <;> simp_all [SamePart]
    intro x hx
    have hx' : x ∉ (Part.ports :: parts) ++ [.watch, .permits, .recorder, .ports] := by
      simp only [List.mem_append, List.mem_cons, List.not_mem_nil, or_false, not_or] at hx ⊢
      tauto
    exact commit_frame _ s _ this x hx'

/-- The common part of an event that is no request. -/
theorem occurred_commit {s : State} {e : Ev} {parts : List Part} {items : List Item} (hd : e.dirty = items)
    (hp : e.st.ports = s.ports) (hr : e.st.recorder = s.recorder) (hq : e.st.permits = s.permits)
    (hf : OnlyChanges parts s e.st) : Occurred items e.notices parts s (commit e) := by
  refine ⟨?_, by simpa [hp] using commit_told e s hq, ?_, commit_exact _, commit_frame e s parts hf⟩
  · intro q
    have := commit_keeps e q
    rwa [hp] at this
  · have := commit_dirties e
    unfold Dirties at *
    simpa [hr, hd] using this

end Sys2Proof.Machine
end

