-- ==== Sys2Proof/Laws/Anchors.lean ====
section
/-! SUPPORT. Finding a record after one was replaced, inserted or erased, and what a change of stage does. -/

namespace Sys2Proof.Machine

theorem findAnchor_id {s : State} {a : AnchorId} {r : AnchorRec} (h : findAnchor s a = some r) : r.id = a := by
  have := List.find?_some h
  simpa using this

theorem find_replace_self (l : List AnchorRec) (r new : AnchorRec) (h : l.find? (fun x => x.id = r.id) = some r)
    (hid : new.id = r.id) : (replaceAnchor l new).find? (fun x => x.id = r.id) = some new := by
  unfold replaceAnchor
  induction l with
  | nil => simp at h
  | cons x rest ih =>
    by_cases hx : x.id = r.id
    · simp [hid, hx]
    · have h' : rest.find? (fun y => y.id = r.id) = some r := by simpa [hx] using h
      rw [List.map_cons, List.find?_cons]
      simp only [hid, hx, if_false, decide_false]
      simpa [hid] using ih h'

theorem find_replace_ne (l : List AnchorRec) (new : AnchorRec) (a : AnchorId) (h : a ≠ new.id) :
    (replaceAnchor l new).find? (fun x => x.id = a) = l.find? (fun x => x.id = a) := by
  unfold replaceAnchor
  induction l with
  | nil => rfl
  | cons x rest ih =>
    rw [List.map_cons, List.find?_cons, List.find?_cons, ih]
    by_cases hx : x.id = new.id
    · have h2 : new.id ≠ a := Ne.symm h
      simp [hx, h2]
    · simp [hx]

theorem find_insert_self (l : List AnchorRec) (r : AnchorRec) (h : l.find? (fun x => x.id = r.id) = none) :
    (insertAnchor r l).find? (fun x => x.id = r.id) = some r := by
  induction l with
  | nil => simp [insertAnchor]
  | cons x rest ih =>
    have hx : x.id ≠ r.id := by
      simp only [List.find?_eq_none, List.mem_cons, decide_eq_true_eq] at h
      exact h x (.inl rfl)
    have hr : rest.find? (fun y => y.id = r.id) = none := by simpa [hx] using h
    simp only [insertAnchor]
    split
    · simp
    · rw [List.find?_cons]
      simp only [hx, decide_false]
      exact ih hr

theorem find_insert_ne (l : List AnchorRec) (r : AnchorRec) (a : AnchorId) (h : a ≠ r.id) :
    (insertAnchor r l).find? (fun x => x.id = a) = l.find? (fun x => x.id = a) := by
  induction l with
  | nil => simp [insertAnchor, Ne.symm h]
  | cons x rest ih =>
    simp only [insertAnchor]
    split
    · rw [List.find?_cons]
      simp [Ne.symm h]
    · rw [List.find?_cons, List.find?_cons, ih]

theorem find_erase_self (l : List AnchorRec) (a : AnchorId) :
    (eraseAnchor l a).find? (fun x => x.id = a) = none := by
  unfold eraseAnchor
  simp

theorem find_erase_ne (l : List AnchorRec) (a b : AnchorId) (h : b ≠ a) :
    (eraseAnchor l a).find? (fun x => x.id = b) = l.find? (fun x => x.id = b) := by
  induction l with
  | nil => rfl
  | cons x rest ih =>
    by_cases hx : x.id = a
    · have h1 : eraseAnchor (x :: rest) a = eraseAnchor rest a := by simp [eraseAnchor, hx]
      have h2 : x.id ≠ b := fun h' => h (h'.symm.trans hx)
      rw [h1, ih, List.find?_cons]
      simp [h2]
    · have h1 : eraseAnchor (x :: rest) a = x :: eraseAnchor rest a := by simp [eraseAnchor, hx]
      rw [h1, List.find?_cons, List.find?_cons, ih]

/-! ## A record written -/

@[simp] theorem writeAnchor_anchors (e : Ev) (r : AnchorRec) :
    (e.writeAnchor r).st.anchors = replaceAnchor e.st.anchors r := rfl
@[simp] theorem writeAnchor_dirty (e : Ev) (r : AnchorRec) : (e.writeAnchor r).dirty = e.dirty ++ [.image r.imageSlot] :=
  rfl
@[simp] theorem writeAnchor_notices (e : Ev) (r : AnchorRec) : (e.writeAnchor r).notices = e.notices := rfl

/-- Writing a record touches the anchor table alone. -/
theorem writeAnchor_frame (e : Ev) (r : AnchorRec) : OnlyChanges [.anchors] e.st (e.writeAnchor r).st := by
  intro x hx
  cases x <;> simp_all [SamePart] <;> rfl

/-! ## A change of stage (R8) -/

/-- A change of stage that meets no cure list, no count and no STORE hold: the record is written and STAGE_CHANGED is
raised. -/
theorem changeStage_plain (e : Ev) (old new : AnchorRec) (h1 : old.stage ≠ .curing) (h2 : new.stage ≠ .curing)
    (h3 : old.stage ≠ .lockedOff) (h4 : new.stage ≠ .lockedOff) (h5 : old.stage ≠ .suspect) :
    e.changeStage old new = (e.writeAnchor new).raise (.stageChanged new.id (some old.stage) new.stage) := by
  simp [Ev.changeStage, h1, h2, h3, h4, h5]

/-- Changing a section touches the section table alone. -/
theorem changeSection_frame (e : Ev) (n : Nat) (f : SectionData → SectionData) :
    OnlyChanges [.sections] e.st (e.changeSection n f).st := by
  intro x hx
  cases x <;> simp_all [SamePart, Ev.changeSection]

theorem OnlyChanges.trans {ps qs : List Part} {a b c : State} (h : OnlyChanges ps a b) (g : OnlyChanges qs b c) :
    OnlyChanges (ps ++ qs) a c := by
  intro x hx
  simp only [List.mem_append, not_or] at hx
  have h1 := h x hx.1
  have h2 := g x hx.2
  cases x <;> simp_all [SamePart]

theorem OnlyChanges.mono {ps qs : List Part} {a b : State} (h : OnlyChanges ps a b) (hs : ps ⊆ qs) :
    OnlyChanges qs a b := fun x hx => h x fun hp => hx (hs hp)

theorem OnlyChanges.refl (ps : List Part) (a : State) : OnlyChanges ps a a := by
  intro x _
  cases x <;> rfl

theorem removeHold_frame (e : Ev) (n : Nat) (src : HoldSource) :
    OnlyChanges [.sections] e.st (e.removeHold n src).st := by
  unfold Ev.removeHold
  split
  · intro x hx
    cases x <;> simp_all [SamePart, Ev.changeSection]
  · exact OnlyChanges.refl _ _

theorem writeHold_frame (e : Ev) (n : Nat) (src : HoldSource) (lv : HoldLevel) (reason : Option Nat) :
    OnlyChanges [.sections] e.st (e.writeHold n src lv reason).st := by
  intro x hx
  cases x <;> simp_all [SamePart, Ev.writeHold, Ev.changeSection]

theorem countLocked_frame (e : Ev) (a : AnchorId) (f : Nat → Nat) :
    OnlyChanges [.sections] e.st (e.countLocked a f).st :=
  changeSection_frame e a.sect _

theorem leftSuspect_frame (e : Ev) (n : Nat) : OnlyChanges [.sections] e.st (e.leftSuspect n).st := by
  unfold Ev.leftSuspect
  split
  · exact OnlyChanges.refl _ _
  · exact removeHold_frame e n _

/-- A change of stage touches the anchor table, the cure list and the section table alone. -/
theorem changeStage_frame (e : Ev) (old new : AnchorRec) :
    OnlyChanges [.anchors, .cure, .sections] e.st (e.changeStage old new).st := by
  have step : ∀ (a b c : State) (ps : List Part), ps ⊆ [.anchors, .cure, .sections] →
      OnlyChanges [.anchors, .cure, .sections] a b → OnlyChanges ps b c →
      OnlyChanges [.anchors, .cure, .sections] a c := fun a b c ps hs h g =>
    (h.trans (g.mono hs)).mono (by simp)
  unfold Ev.changeStage
  simp only [Ev.raise_st]
  have h1 : OnlyChanges [.anchors, .cure, .sections] e.st (e.writeAnchor new).st :=
    (writeAnchor_frame e new).mono (by simp)
  generalize e.writeAnchor new = e1 at h1 ⊢
  have h2 : OnlyChanges [.anchors, .cure, .sections] e.st
      (if old.stage = .curing then e1.mod fun s => { s with cure := leaveCure new.id s.cure } else e1).st := by
    split
    · refine step _ _ _ [.cure] (by simp) h1 ?_
      intro x hx
      cases x <;> simp_all [SamePart]
    · exact h1
  generalize (if old.stage = .curing then e1.mod fun s => { s with cure := leaveCure new.id s.cure } else e1) = e2
    at h2 ⊢
  have h3 : OnlyChanges [.anchors, .cure, .sections] e.st
      (if new.stage = .curing then
        e2.mod fun s => { s with cure := joinCure { due := new.cureDue.getD 0, id := new.id } s.cure } else e2).st := by
    split
    · refine step _ _ _ [.cure] (by simp) h2 ?_
      intro x hx
      cases x <;> simp_all [SamePart]
    · exact h2
  generalize (if new.stage = .curing then
    e2.mod fun s => { s with cure := joinCure { due := new.cureDue.getD 0, id := new.id } s.cure } else e2) = e3
    at h3 ⊢
  have h4 : OnlyChanges [.anchors, .cure, .sections] e.st
      (if old.stage = .lockedOff then e3.countLocked new.id (· - 1) else e3).st := by
    split
    · exact step _ _ _ [.sections] (by simp) h3 (countLocked_frame e3 _ _)
    · exact h3
  generalize (if old.stage = .lockedOff then e3.countLocked new.id (· - 1) else e3) = e4 at h4 ⊢
  have h5 : OnlyChanges [.anchors, .cure, .sections] e.st
      (if new.stage = .lockedOff then e4.countLocked new.id (· + 1) else e4).st := by
    split
    · exact step _ _ _ [.sections] (by simp) h4 (countLocked_frame e4 _ _)
    · exact h4
  generalize (if new.stage = .lockedOff then e4.countLocked new.id (· + 1) else e4) = e5 at h5 ⊢
  split
  · exact step _ _ _ [.sections] (by simp) h5 (leftSuspect_frame e5 _)
  · exact h5

/-- The anchor table after a change of stage. -/
theorem changeStage_anchors (e : Ev) (old new : AnchorRec) :
    (e.changeStage old new).st.anchors = replaceAnchor e.st.anchors new := by
  have key : ∀ e' : Ev, ∀ n src, (e'.removeHold n src).st.anchors = e'.st.anchors := fun e' n src =>
    removeHold_frame e' n src .anchors (by simp)
  unfold Ev.changeStage Ev.leftSuspect Ev.countLocked Ev.changeSection
  simp only [Ev.raise_st]
  split_ifs <;> simp [key]

theorem sectionRec_set_self (s : State) (n : Nat) (r : SectionRec) (h : n - 1 < s.sections.length) :
    sectionRec (setSection s n r) n = r := by
  simp [sectionRec, setSection, h]

theorem sectionRec_set_ne (s : State) (n m : Nat) (r : SectionRec) (hm : 1 ≤ m) (h : m ≠ n) (hn : 1 ≤ n) :
    sectionRec (setSection s n r) m = sectionRec s m := by
  have : n - 1 ≠ m - 1 := by omega
  simp [sectionRec, setSection, this]

/-- The section table after a change of one section's data. -/
theorem changeSection_rec (e : Ev) (n : Nat) (f : SectionData → SectionData) (hn : 1 ≤ n)
    (hl : n - 1 < e.st.sections.length) :
    sectionRec (e.changeSection n f).st n = { sectionRec e.st n with data := f (sectionRec e.st n).data } ∧
      (∀ m, 1 ≤ m → m ≠ n → sectionRec (e.changeSection n f).st m = sectionRec e.st m) ∧
      (e.changeSection n f).st.sections.length = e.st.sections.length := by
  refine ⟨sectionRec_set_self _ _ _ hl, fun m hm h => sectionRec_set_ne _ _ _ _ hm h hn, ?_⟩
  simp [Ev.changeSection, setSection, Ev.mod, Ev.dirtied]

/-- Counting a locked-off anchor changes the counts of its section alone. -/
theorem countLocked_rec (e : Ev) (a : AnchorId) (f : Nat → Nat) (hn : 1 ≤ a.sect) (hl : a.sect - 1 < e.st.sections.length) :
    sectionRec (e.countLocked a f).st a.sect =
        { sectionRec e.st a.sect with data := { (sectionRec e.st a.sect).data with
            counts := (sectionRec e.st a.sect).data.counts.set (a.tier - 1)
              (f ((sectionRec e.st a.sect).data.counts.getD (a.tier - 1) 0)) } } ∧
      (∀ m, 1 ≤ m → m ≠ a.sect → sectionRec (e.countLocked a f).st m = sectionRec e.st m) ∧
      (e.countLocked a f).st.sections.length = e.st.sections.length :=
  changeSection_rec e a.sect _ hn hl

/-- Removing a hold changes the holds of its section alone. -/
theorem removeHold_rec (e : Ev) (n : Nat) (src : HoldSource) (hn : 1 ≤ n) (hl : n - 1 < e.st.sections.length) :
    sectionRec (e.removeHold n src).st n =
        (if hasHold e.st n src then
          { sectionRec e.st n with data := { (sectionRec e.st n).data with
              holds := (sectionRec e.st n).data.holds.filter fun h => h.source ≠ src } }
        else sectionRec e.st n) ∧
      (∀ m, 1 ≤ m → m ≠ n → sectionRec (e.removeHold n src).st m = sectionRec e.st m) ∧
      (e.removeHold n src).st.sections.length = e.st.sections.length := by
  unfold Ev.removeHold
  split
  · exact changeSection_rec e n (fun d => { d with holds := d.holds.filter fun h => h.source ≠ src }) hn hl
  · exact ⟨rfl, fun _ _ _ => rfl, rfl⟩

theorem any_replace_suspect (l : List AnchorRec) (new : AnchorRec) (hin : ∃ r ∈ l, r.id = new.id) :
    ((replaceAnchor l new).any fun r => r.id.sect = new.id.sect && r.stage = .suspect) =
      (decide (new.stage = .suspect) ||
        l.any fun r => r.id ≠ new.id && r.id.sect = new.id.sect && r.stage = .suspect) := by
  rw [Bool.eq_iff_iff]
  simp only [List.any_eq_true, replaceAnchor, List.mem_map, Bool.and_eq_true, decide_eq_true_eq, Bool.or_eq_true, ne_eq]
  constructor
  · rintro ⟨x, ⟨y, hy, rfl⟩, hx⟩
    by_cases hid : y.id = new.id
    · rw [if_pos hid] at hx
      exact .inl hx.2
    · rw [if_neg hid] at hx
      exact .inr ⟨y, hy, ⟨hid, hx.1⟩, hx.2⟩
  · rintro (h | ⟨y, hy, ⟨h1, h2⟩, h3⟩)
    · obtain ⟨r, hr, hid⟩ := hin
      exact ⟨new, ⟨r, hr, by rw [if_pos hid]⟩, rfl, h⟩
    · exact ⟨y, ⟨y, hy, by rw [if_neg h1]⟩, h2, h3⟩

theorem leftSuspect_rec (e : Ev) (n : Nat) (hn : 1 ≤ n) (hl : n - 1 < e.st.sections.length) :
    sectionRec (e.leftSuspect n).st n =
        (if (!(e.st.anchors.any fun r => r.id.sect = n && r.stage = .suspect)) && hasHold e.st n .store then
          { sectionRec e.st n with data := { (sectionRec e.st n).data with
              holds := (sectionRec e.st n).data.holds.filter fun h => h.source ≠ .store } }
        else sectionRec e.st n) ∧
      (∀ m, 1 ≤ m → m ≠ n → sectionRec (e.leftSuspect n).st m = sectionRec e.st m) := by
  unfold Ev.leftSuspect
  split
  · rename_i h
    simp [h]
  · rename_i h
    simp only [Bool.not_eq_true] at h
    rw [h]
    exact ⟨(removeHold_rec e n .store hn hl).1, (removeHold_rec e n .store hn hl).2.1⟩

/-- What a change of stage does to the tables (R8). -/
theorem changeStage_moved (e : Ev) (old new : AnchorRec) (hold : findAnchor e.st new.id = some old)
    (hs : 1 ≤ new.id.sect) (hl : new.id.sect ≤ e.st.sections.length) :
    StageMoved old new e.st (e.changeStage old new).st := by
  have hid : old.id = new.id := findAnchor_id hold
  have hlt : new.id.sect - 1 < e.st.sections.length := by omega
  have hanch := changeStage_anchors e old new
  have hrec : findAnchor (e.changeStage old new).st new.id = some new := by
    simp only [findAnchor, hanch]
    have := find_replace_self e.st.anchors old new (by simpa [hid, findAnchor] using hold) hid.symm
    simpa [hid] using this
  have hin : ∃ r ∈ e.st.anchors, r.id = new.id := ⟨old, List.mem_of_find?_eq_some hold, hid⟩
  have hcure : (e.changeStage old new).st.cure = movedCure old new e.st.cure := by
    have k1 : ∀ e' : Ev, ∀ n, (e'.leftSuspect n).st.cure = e'.st.cure := fun e' n => leftSuspect_frame e' n .cure (by simp)
    have k2 : ∀ e' : Ev, ∀ a f, (e'.countLocked a f).st.cure = e'.st.cure := fun e' a f =>
      countLocked_frame e' a f .cure (by simp)
    unfold Ev.changeStage movedCure
    simp only [Ev.raise_st]
    by_cases h1 : old.stage = .curing <;> by_cases h2 : new.stage = .curing <;> by_cases h3 : old.stage = .lockedOff <;>
      by_cases h4 : new.stage = .lockedOff <;> by_cases h5 : old.stage = .suspect <;>
      simp_all [Ev.mod, Ev.writeAnchor, Ev.dirtied, leaveCure]
  have hsec : sectionRec (e.changeStage old new).st new.id.sect = movedSection e.st old new ∧
      ∀ m, 1 ≤ m → m ≠ new.id.sect → sectionRec (e.changeStage old new).st m = sectionRec e.st m := by
    have hany := any_replace_suspect e.st.anchors new hin
    have ha : ∀ e' : Ev, ∀ a f, (e'.countLocked a f).st.anchors = e'.st.anchors := fun e' a f =>
      countLocked_frame e' a f .anchors (by simp)
    unfold Ev.changeStage
    simp only [Ev.raise_st]
    have h3 : ∃ e3 : Ev, (if new.stage = .curing then
        (if old.stage = .curing then (e.writeAnchor new).mod fun s => { s with cure := leaveCure new.id s.cure }
          else e.writeAnchor new).mod fun s => { s with cure := joinCure { due := new.cureDue.getD 0, id := new.id } s.cure }
        else (if old.stage = .curing then (e.writeAnchor new).mod fun s => { s with cure := leaveCure new.id s.cure }
          else e.writeAnchor new)) = e3 ∧ e3.st.sections = e.st.sections ∧
          e3.st.anchors = replaceAnchor e.st.anchors new := by
      refine ⟨_, rfl, ?_, ?_⟩ <;> split_ifs <;> simp [Ev.mod, Ev.writeAnchor, Ev.dirtied]
    obtain ⟨e3, he3, hse, han⟩ := h3
    rw [he3]
    have hrec3 : ∀ m, sectionRec e3.st m = sectionRec e.st m := fun m => by simp [sectionRec, hse]
    have h4 : ∃ e4 : Ev, (if old.stage = .lockedOff then e3.countLocked new.id (· - 1) else e3) = e4 ∧
        e4.st.anchors = e3.st.anchors ∧ e4.st.sections.length = e.st.sections.length ∧
        sectionRec e4.st new.id.sect = { sectionRec e.st new.id.sect with data := { (sectionRec e.st new.id.sect).data with
          counts := if old.stage = .lockedOff then (sectionRec e.st new.id.sect).data.counts.set (new.id.tier - 1)
              ((sectionRec e.st new.id.sect).data.counts.getD (new.id.tier - 1) 0 - 1)
            else (sectionRec e.st new.id.sect).data.counts } } ∧
        ∀ m, 1 ≤ m → m ≠ new.id.sect → sectionRec e4.st m = sectionRec e.st m := by
      refine ⟨_, rfl, ?_⟩
      split
      · obtain ⟨a, b, c⟩ := countLocked_rec e3 new.id (· - 1) hs (by rw [hse]; exact hlt)
        exact ⟨ha _ _ _, by rw [c, hse], by rw [a, hrec3], fun m h1 h2 => by rw [b m h1 h2, hrec3]⟩
      · exact ⟨rfl, by rw [hse], by rw [hrec3], fun m _ _ => hrec3 m⟩
    obtain ⟨e4, he4, han4, hlen4, hrec4, hoth4⟩ := h4
    rw [he4]
    have h5 : ∃ e5 : Ev, (if new.stage = .lockedOff then e4.countLocked new.id (· + 1) else e4) = e5 ∧
        e5.st.anchors = e4.st.anchors ∧ e5.st.sections.length = e.st.sections.length ∧
        sectionRec e5.st new.id.sect = { sectionRec e.st new.id.sect with data := { (sectionRec e.st new.id.sect).data with
          counts := movedCounts old new (sectionRec e.st new.id.sect).data.counts } } ∧
        ∀ m, 1 ≤ m → m ≠ new.id.sect → sectionRec e5.st m = sectionRec e.st m := by
      refine ⟨_, rfl, ?_⟩
      unfold movedCounts
      split
      · obtain ⟨a, b, c⟩ := countLocked_rec e4 new.id (· + 1) hs (by rw [hlen4]; exact hlt)
        exact ⟨ha _ _ _, by rw [c, hlen4], by rw [a, hrec4], fun m h1 h2 => by rw [b m h1 h2, hoth4 m h1 h2]⟩
      · exact ⟨rfl, hlen4, hrec4, hoth4⟩
    obtain ⟨e5, he5, han5, hlen5, hrec5, hoth5⟩ := h5
    rw [he5]
    have hhold : hasHold e5.st new.id.sect .store = hasHold e.st new.id.sect .store := by
      simp only [hasHold, hrec5]
    have hs5 : e5.st.anchors = replaceAnchor e.st.anchors new := by rw [han5, han4, han]
    by_cases hsus : old.stage = .suspect
    · rw [if_pos hsus]
      obtain ⟨a, b⟩ := leftSuspect_rec e5 new.id.sect hs (by rw [hlen5]; exact hlt)
      refine ⟨?_, fun m h1 h2 => by rw [b m h1 h2, hoth5 m h1 h2]⟩
      rw [a, hs5, hany, hhold, hrec5]
      unfold movedSection storeHoldGoes
      by_cases hn : new.stage = .suspect
      · simp [hn, hsus]
      · simp only [hn, hsus, decide_false, decide_true, Bool.false_or, Bool.true_and, ne_eq, not_false_eq_true,
          Bool.and_comm]
        split_ifs <;> rfl
    · rw [if_neg hsus]
      refine ⟨?_, hoth5⟩
      rw [hrec5]
      unfold movedSection storeHoldGoes
      simp [hsus]
  exact ⟨hrec, fun b hb => by simp only [findAnchor, hanch]; exact find_replace_ne _ _ _ hb, hcure, hsec.1,
    fun m h1 h2 => hsec.2 m h1 h2⟩

/-- The notices a change of stage raises, at any state whose sections are those it came to (R10, R35, R38). -/
theorem changeStage_notices (e : Ev) (old new : AnchorRec) (t : State) (hold : findAnchor e.st new.id = some old)
    (ht : t.sections = (e.changeStage old new).st.sections) :
    (e.changeStage old new).notices = e.notices ++ stageNotices e.st t old new := by
  have hin : ∃ r ∈ e.st.anchors, r.id = new.id := ⟨old, List.mem_of_find?_eq_some hold, findAnchor_id hold⟩
  have hany := any_replace_suspect e.st.anchors new hin
  have heff : ∀ n, effectiveLevel t n = effectiveLevel (e.changeStage old new).st n := fun n => by
    simp only [effectiveLevel, sectionRec, ht]
  have hcount : ∀ (e' : Ev) f, (e'.countLocked new.id f).notices = e'.notices ∧
      (e'.countLocked new.id f).st.anchors = e'.st.anchors ∧
      hasHold (e'.countLocked new.id f).st new.id.sect .store = hasHold e'.st new.id.sect .store := by
    intro e' f
    refine ⟨rfl, countLocked_frame e' new.id f .anchors (by simp), ?_⟩
    by_cases hlt : new.id.sect - 1 < e'.st.sections.length
    · simp [hasHold, Ev.countLocked, Ev.changeSection, sectionRec, setSection, hlt]
    · have : e'.st.sections.length ≤ new.id.sect - 1 := by omega
      simp [hasHold, Ev.countLocked, Ev.changeSection, sectionRec, setSection, this]
  unfold stageNotices
  rw [heff]
  unfold Ev.changeStage storeHoldGoes
  simp only [Ev.raise_notices, Ev.raise_st]
  have h3 : ∃ e3 : Ev, (if new.stage = .curing then
      (if old.stage = .curing then (e.writeAnchor new).mod fun s => { s with cure := leaveCure new.id s.cure }
        else e.writeAnchor new).mod fun s => { s with cure := joinCure { due := new.cureDue.getD 0, id := new.id } s.cure }
      else (if old.stage = .curing then (e.writeAnchor new).mod fun s => { s with cure := leaveCure new.id s.cure }
        else e.writeAnchor new)) = e3 ∧ hasHold e3.st new.id.sect .store = hasHold e.st new.id.sect .store ∧
        e3.st.anchors = replaceAnchor e.st.anchors new ∧ e3.notices = e.notices := by
    refine ⟨_, rfl, ?_, ?_, ?_⟩ <;> split_ifs <;> rfl
  obtain ⟨e3, he3, hh3, ha3, hd3⟩ := h3
  rw [he3]
  have h4 : ∃ e4 : Ev, (if old.stage = .lockedOff then e3.countLocked new.id (· - 1) else e3) = e4 ∧
      hasHold e4.st new.id.sect .store = hasHold e.st new.id.sect .store ∧
      e4.st.anchors = replaceAnchor e.st.anchors new ∧ e4.notices = e.notices := by
    refine ⟨_, rfl, ?_⟩
    split
    · obtain ⟨a, b, c⟩ := hcount e3 (· - 1)
      exact ⟨c.trans hh3, b.trans ha3, a.trans hd3⟩
    · exact ⟨hh3, ha3, hd3⟩
  obtain ⟨e4, he4, hh4, ha4, hd4⟩ := h4
  rw [he4]
  have h5 : ∃ e5 : Ev, (if new.stage = .lockedOff then e4.countLocked new.id (· + 1) else e4) = e5 ∧
      hasHold e5.st new.id.sect .store = hasHold e.st new.id.sect .store ∧
      e5.st.anchors = replaceAnchor e.st.anchors new ∧ e5.notices = e.notices := by
    refine ⟨_, rfl, ?_⟩
    split
    · obtain ⟨a, b, c⟩ := hcount e4 (· + 1)
      exact ⟨c.trans hh4, b.trans ha4, a.trans hd4⟩
    · exact ⟨hh4, ha4, hd4⟩
  obtain ⟨e5, he5, hh5, ha5, hd5⟩ := h5
  rw [he5]
  by_cases hs : old.stage = .suspect
  · rw [if_pos hs]
    unfold Ev.leftSuspect Ev.removeHold
    rw [ha5, hh5, hany]
    generalize (e.st.anchors.any fun r => r.id ≠ new.id && r.id.sect = new.id.sect && r.stage = .suspect) = b
    generalize hasHold e.st new.id.sect .store = h
    by_cases hn : new.stage = .suspect <;> cases b <;> cases h <;> simp_all [Ev.changeSection]
  · rw [if_neg hs, hd5]
    simp [hs]

/-- The items a change of stage dirties. -/
theorem changeStage_items (e : Ev) (old new : AnchorRec) (hold : findAnchor e.st new.id = some old) (i : Item) :
    i ∈ (e.changeStage old new).dirty ↔ i ∈ e.dirty ∨ i ∈ stageItems e.st old new := by
  have hin : ∃ r ∈ e.st.anchors, r.id = new.id := ⟨old, List.mem_of_find?_eq_some hold, findAnchor_id hold⟩
  have hany := any_replace_suspect e.st.anchors new hin
  have hdirty : ∀ e' : Ev, e'.st.anchors = replaceAnchor e.st.anchors new →
      hasHold e'.st new.id.sect .store = hasHold e.st new.id.sect .store →
      ((e'.leftSuspect new.id.sect).dirty =
        e'.dirty ++ if (!(replaceAnchor e.st.anchors new).any fun r => r.id.sect = new.id.sect && r.stage = .suspect) &&
          hasHold e.st new.id.sect .store then [.sections] else []) := by
    intro e' ha hh
    unfold Ev.leftSuspect Ev.removeHold
    rw [ha, hh]
    by_cases h1 : ((replaceAnchor e.st.anchors new).any fun r => r.id.sect = new.id.sect && r.stage = .suspect) = true
    · rw [if_pos h1, h1]
      simp
    · rw [if_neg h1]
      simp only [Bool.not_eq_true] at h1
      rw [h1]
      cases hasHold e.st new.id.sect .store <;> simp [Ev.changeSection]
  have hcount : ∀ (e' : Ev) f, (e'.countLocked new.id f).dirty = e'.dirty ++ [.sections] ∧
      (e'.countLocked new.id f).st.anchors = e'.st.anchors ∧
      hasHold (e'.countLocked new.id f).st new.id.sect .store = hasHold e'.st new.id.sect .store := by
    intro e' f
    refine ⟨rfl, countLocked_frame e' new.id f .anchors (by simp), ?_⟩
    by_cases hlt : new.id.sect - 1 < e'.st.sections.length
    · simp [hasHold, Ev.countLocked, Ev.changeSection, sectionRec, setSection, hlt]
    · have : e'.st.sections.length ≤ new.id.sect - 1 := by omega
      simp [hasHold, Ev.countLocked, Ev.changeSection, sectionRec, setSection, this]
  unfold Ev.changeStage stageItems storeHoldGoes
  simp only [Ev.raise_dirty]
  have h3 : ∃ e3 : Ev, (if new.stage = .curing then
      (if old.stage = .curing then (e.writeAnchor new).mod fun s => { s with cure := leaveCure new.id s.cure }
        else e.writeAnchor new).mod fun s => { s with cure := joinCure { due := new.cureDue.getD 0, id := new.id } s.cure }
      else (if old.stage = .curing then (e.writeAnchor new).mod fun s => { s with cure := leaveCure new.id s.cure }
        else e.writeAnchor new)) = e3 ∧ hasHold e3.st new.id.sect .store = hasHold e.st new.id.sect .store ∧
        e3.st.anchors = replaceAnchor e.st.anchors new ∧ e3.dirty = e.dirty ++ [.image new.imageSlot] := by
    refine ⟨_, rfl, ?_, ?_, ?_⟩ <;> split_ifs <;> rfl
  obtain ⟨e3, he3, hh3, ha3, hd3⟩ := h3
  rw [he3]
  have h4 : ∃ e4 : Ev, (if old.stage = .lockedOff then e3.countLocked new.id (· - 1) else e3) = e4 ∧
      hasHold e4.st new.id.sect .store = hasHold e.st new.id.sect .store ∧
      e4.st.anchors = replaceAnchor e.st.anchors new ∧
      e4.dirty = e.dirty ++ [.image new.imageSlot] ++ if old.stage = .lockedOff then [.sections] else [] := by
    refine ⟨_, rfl, ?_⟩
    split
    · obtain ⟨a, b, c⟩ := hcount e3 (· - 1)
      exact ⟨c.trans hh3, b.trans ha3, by rw [a, hd3]⟩
    · exact ⟨hh3, ha3, by simp [hd3]⟩
  obtain ⟨e4, he4, hh4, ha4, hd4⟩ := h4
  rw [he4]
  have h5 : ∃ e5 : Ev, (if new.stage = .lockedOff then e4.countLocked new.id (· + 1) else e4) = e5 ∧
      hasHold e5.st new.id.sect .store = hasHold e.st new.id.sect .store ∧
      e5.st.anchors = replaceAnchor e.st.anchors new ∧
      e5.dirty = e.dirty ++ [.image new.imageSlot] ++ (if old.stage = .lockedOff then [.sections] else []) ++
        if new.stage = .lockedOff then [.sections] else [] := by
    refine ⟨_, rfl, ?_⟩
    split
    · obtain ⟨a, b, c⟩ := hcount e4 (· + 1)
      exact ⟨c.trans hh4, b.trans ha4, by rw [a, hd4]⟩
    · exact ⟨hh4, ha4, by simp [hd4]⟩
  obtain ⟨e5, he5, hh5, ha5, hd5⟩ := h5
  rw [he5]
  by_cases hs : old.stage = .suspect
  · rw [if_pos hs, hdirty e5 ha5 hh5, hd5, hany]
    generalize (e.st.anchors.any fun r => r.id ≠ new.id && r.id.sect = new.id.sect && r.stage = .suspect) = b
    generalize hasHold e.st new.id.sect .store = h
    by_cases hn : new.stage = .suspect <;> by_cases hl : new.stage = .lockedOff <;> cases b <;> cases h <;>
      simp_all [or_assoc]
  · rw [if_neg hs, hd5]
    simp only [hs, decide_false, Bool.false_and, Bool.false_eq_true, or_false]
    by_cases h1 : old.stage = .lockedOff <;> by_cases h2 : new.stage = .lockedOff <;> simp [h1, h2, or_assoc]

end Sys2Proof.Machine
end

