-- ==== Sys2Proof/Laws/Frames.lean ====
section
/-! SUPPORT. For every request and every event, the parts of the state it can touch at all: said once, so that a property
of an untouched part is carried through every command. -/

namespace Sys2Proof.Machine

theorem OnlyChanges.step {ps qs : List Part} {a b c : State} (h : OnlyChanges ps a b) (g : OnlyChanges qs b c)
    (hs : qs ⊆ ps) : OnlyChanges ps a c :=
  (h.trans (g.mono hs)).mono (by simp)

/-- A fold of events that each touch the same parts. -/
theorem foldl_frame {α : Type} (ps : List Part) (f : Ev → α → Ev) (hf : ∀ e a, OnlyChanges ps e.st (f e a).st)
    (l : List α) (e : Ev) : OnlyChanges ps e.st (l.foldl f e).st := by
  induction l generalizing e with
  | nil => exact OnlyChanges.refl _ _
  | cons a rest ih => exact (hf e a).step (ih (f e a)) (List.Subset.refl _)

/-! ## The anchor table -/

theorem changeStage_of (s t : State) (ps : List Part) (h : OnlyChanges ps s t) (old new : AnchorRec)
    (hs : [.anchors, .cure, .sections] ⊆ ps) : OnlyChanges ps s ((Ev.of t).changeStage old new).st :=
  h.step (changeStage_frame (Ev.of t) old new) hs

theorem defineAnchorReply_frame (pl : List Byte) (s : State) :
    OnlyChanges [.anchors] s (defineAnchorReply pl s).ev.st := by
  unfold defineAnchorReply
  split
  · exact OnlyChanges.refl _ _
  · split
    · split
      · exact writeAnchor_frame (Ev.of s) _
      · exact OnlyChanges.refl _ _
    · split
      · exact OnlyChanges.refl _ _
      · intro x hx
        cases x <;> simp_all [SamePart, createAnchor]

theorem setAnchorGeometryReply_frame (pl : List Byte) (s : State) :
    OnlyChanges [.anchors] s (setAnchorGeometryReply pl s).ev.st := by
  unfold setAnchorGeometryReply
  split
  · exact OnlyChanges.refl _ _
  · split
    · exact OnlyChanges.refl _ _
    · split
      · exact OnlyChanges.refl _ _
      · exact writeAnchor_frame (Ev.of s) _

theorem deleteAnchorReply_frame (pl : List Byte) (s : State) :
    OnlyChanges [.anchors] s (deleteAnchorReply pl s).ev.st := by
  unfold deleteAnchorReply
  split
  · exact OnlyChanges.refl _ _
  · split
    · intro x hx
      cases x <;> simp_all [SamePart]
    · exact OnlyChanges.refl _ _

theorem releaseReadings_frame (s : State) (ps : List ListPlace) : OnlyChanges [.pool] s (releaseReadings s ps) := by
  intro x hx
  cases x <;> simp_all [SamePart]

theorem abandonAnchorReply_frame (pl : List Byte) (s : State) :
    OnlyChanges [.pool, .anchors, .cure, .sections] s (abandonAnchorReply pl s).ev.st := by
  unfold abandonAnchorReply
  split
  · exact OnlyChanges.refl _ _
  · split
    · exact OnlyChanges.refl _ _
    · split
      · exact OnlyChanges.refl _ _
      · exact changeStage_of s _ _ ((releaseReadings_frame s _).mono (by simp)) _ _ (by simp)

theorem retestAnchorReply_frame (pl : List Byte) (s : State) :
    OnlyChanges [.pool, .anchors, .cure, .sections] s (retestAnchorReply pl s).ev.st := by
  unfold retestAnchorReply
  split
  · exact OnlyChanges.refl _ _
  · split
    · exact changeStage_of s _ _ ((releaseReadings_frame s _).mono (by simp)) _ _ (by simp)
    · exact OnlyChanges.refl _ _

theorem settledState_frame (s : State) (r : AnchorRec) (d : Stage) :
    OnlyChanges [.pool, .freeIdx] s (settledFree (settledPool s r d) r d) := by
  have h1 : OnlyChanges [.pool, .freeIdx] s (settledPool s r d) := by
    unfold settledPool
    split
    · exact (releaseReadings_frame s _).mono (by simp)
    · exact OnlyChanges.refl _ _
  generalize settledPool s r d = t at h1 ⊢
  unfold settledFree
  split
  · refine h1.step (qs := [.freeIdx]) ?_ (by simp)
    intro x hx
    cases x <;> simp_all [SamePart]
  · exact h1

theorem settleAnchorReply_frame (pl : List Byte) (s : State) :
    OnlyChanges [.pool, .freeIdx, .anchors, .cure, .sections] s (settleAnchorReply pl s).ev.st := by
  unfold settleAnchorReply
  split
  · exact OnlyChanges.refl _ _
  · split
    · exact OnlyChanges.refl _ _
    · split
      · exact OnlyChanges.refl _ _
      · split
        · exact OnlyChanges.refl _ _
        · split
          · exact OnlyChanges.refl _ _
          · split
            · exact OnlyChanges.refl _ _
            · exact changeStage_of s _ _ ((settledState_frame s _ _).mono (by simp)) _ _ (by simp)

theorem cureExpiryEvent_frame (s : State) (e : Ev) (h : cureExpiryEvent s = some e) :
    OnlyChanges [.anchors, .cure, .sections] s e.st := by
  unfold cureExpiryEvent at h
  split at h
  · split at h
    · obtain ⟨r, -, rfl⟩ := Option.map_eq_some_iff.1 h
      exact changeStage_frame (Ev.of s) _ _
    · cases h
  · cases h

/-! ## Sections and zones -/

theorem setHoldReply_frame (pl : List Byte) (s : State) : OnlyChanges [.sections] s (setHoldReply pl s).ev.st := by
  unfold setHoldReply
  split
  · split
    · exact OnlyChanges.refl _ _
    · exact writeHold_frame (Ev.of s) _ _ _ _
  · exact OnlyChanges.refl _ _

theorem releaseHoldReply_frame (pl : List Byte) (s : State) :
    OnlyChanges [.sections] s (releaseHoldReply pl s).ev.st := by
  unfold releaseHoldReply
  split
  · split
    · exact OnlyChanges.refl _ _
    · exact OnlyChanges.refl _ _
    · exact removeHold_frame (Ev.of s) _ _
  · exact OnlyChanges.refl _ _

theorem setZoneReply_frame (b : Bool) (pl : List Byte) (s : State) :
    OnlyChanges [.config] s (setZoneReply b pl s).ev.st := by
  unfold setZoneReply
  split
  · split
    · exact OnlyChanges.refl _ _
    · intro x hx
      cases x <;> simp_all [SamePart]
  · exact OnlyChanges.refl _ _

theorem setSectionReply_frame (pl : List Byte) (s : State) :
    OnlyChanges [.sections] s (setSectionReply pl s).ev.st := by
  unfold setSectionReply
  split
  · exact changeSection_frame (Ev.of s) _ _
  · exact OnlyChanges.refl _ _

/-! ## Measurement -/

theorem faultChange_st (e : Ev) (f : FaultId) (a b : Bool) : (e.faultChange f a b).st = e.st := by
  unfold Ev.faultChange
  split <;> rfl

theorem faultChange_dirty (e : Ev) (f : FaultId) (a b : Bool) : (e.faultChange f a b).dirty = e.dirty := by
  unfold Ev.faultChange
  split <;> rfl

theorem sampleChannel_frame (e : Ev) (c : Channel) (raw : RawWord) :
    OnlyChanges [.meas] e.st (e.sampleChannel c raw).st := by
  intro x hx
  unfold Ev.sampleChannel
  simp only [faultChange_st]
  cases x <;> simp_all [SamePart]

theorem measure_frame (e : Ev) (raw : PerChannel RawWord) : OnlyChanges [.meas] e.st (e.measure raw).st := by
  unfold Ev.measure Ev.crossCheck Ev.sampleExtension
  simp only [faultChange_st]
  have h : OnlyChanges [.meas] e.st (e.convert raw).st :=
    foldl_frame [.meas] (fun acc c => acc.sampleChannel c (channelGet raw c))
      (fun e c => sampleChannel_frame e c _) allChannels e
  refine h.step (qs := [.meas]) ?_ (by simp)
  intro x hx
  cases x <;> simp_all [SamePart, faultChange_st]

theorem setCalibrationReply_frame (pl : List Byte) (s : State) :
    OnlyChanges [.meas, .config] s (setCalibrationReply pl s).ev.st := by
  unfold setCalibrationReply
  split
  · exact OnlyChanges.refl _ _
  · split
    · exact OnlyChanges.refl _ _
    · intro x hx
      simp only [doneWith_ev, calibrateEvent, faultChange_st]
      cases x <;> simp_all [SamePart]

theorem setClockReply_frame (pl : List Byte) (s : State) : OnlyChanges [.clock] s (setClockReply pl s).ev.st := by
  unfold setClockReply
  split
  · exact OnlyChanges.refl _ _
  · intro x hx
    cases x <;> simp_all [SamePart]

theorem sampleSupply_frame (v : Nat) (s : State) : OnlyChanges [.supply, .recorder] s (sampleSupply v s) := by
  intro x hx
  unfold sampleSupply
  split_ifs <;> cases x <;> simp_all [SamePart]

/-! ## The rig and the grout lines -/

theorem tendonStartReply_frame (pl : List Byte) (s : State) :
    OnlyChanges [.rig, .meas, .anchors, .cure, .sections] s (tendonStartReply pl s).ev.st := by
  unfold tendonStartReply
  split
  · exact OnlyChanges.refl _ _
  split
  · exact OnlyChanges.refl _ _
  split
  · exact OnlyChanges.refl _ _
  split
  · exact OnlyChanges.refl _ _
  split
  · exact OnlyChanges.refl _ _
  split
  · exact OnlyChanges.refl _ _
  split
  · exact OnlyChanges.refl _ _
  split
  · exact OnlyChanges.refl _ _
  refine changeStage_of s _ _ ?_ _ _ (by simp)
  intro x hx
  cases x <;> simp_all [SamePart]

theorem rigClosed_frame (s : State) : OnlyChanges [.rig] s { s with rig := none } := by
  intro x hx
  cases x <;> simp_all [SamePart]

theorem tendonDoneReply_frame (pl : List Byte) (s : State) :
    OnlyChanges [.rig, .anchors, .cure, .sections] s (tendonDoneReply pl s).ev.st := by
  unfold tendonDoneReply
  split
  · exact OnlyChanges.refl _ _
  split
  · exact OnlyChanges.refl _ _
  exact changeStage_of s _ _ ((rigClosed_frame s).mono (by simp)) _ _ (by simp)

theorem tendonWithdrawReply_frame (pl : List Byte) (s : State) :
    OnlyChanges [.rig, .anchors, .cure, .sections] s (tendonWithdrawReply pl s).ev.st := by
  unfold tendonWithdrawReply
  split
  · exact OnlyChanges.refl _ _
  split
  · exact OnlyChanges.refl _ _
  exact changeStage_of s _ _ ((rigClosed_frame s).mono (by simp)) _ _ (by simp)

theorem judgeRig_frame (e : Ev) : OnlyChanges [.rig] e.st e.judgeRig.st := by
  unfold Ev.judgeRig
  split
  · exact OnlyChanges.refl _ _
  · intro x hx
    simp only
    split_ifs <;> cases x <;> simp_all [SamePart]

theorem openLine_frame (s : State) (l : GLine) (c : LineCtx) :
    OnlyChanges [.grout, .meas, .time] s (openLine s l c) := by
  intro x hx
  cases x <;> simp_all [SamePart]

theorem injectStartReply_frame (pl : List Byte) (s : State) :
    OnlyChanges [.grout, .meas, .time, .anchors, .cure, .sections] s (injectStartReply pl s).ev.st := by
  unfold injectStartReply
  split
  · unfold injectStartOn
    split
    · exact OnlyChanges.refl _ _
    split
    · exact OnlyChanges.refl _ _
    split
    · exact OnlyChanges.refl _ _
    split
    · exact OnlyChanges.refl _ _
    split
    · exact OnlyChanges.refl _ _
    split
    · exact OnlyChanges.refl _ _
    split
    · exact OnlyChanges.refl _ _
    split
    · exact OnlyChanges.refl _ _
    split
    · exact OnlyChanges.refl _ _
    split
    · exact OnlyChanges.refl _ _
    exact changeStage_of s _ _ ((openLine_frame s _ _).mono (by simp)) _ _ (by simp)
  · exact OnlyChanges.refl _ _

theorem setLineCtx_frame (s : State) (l : GLine) (c : Option LineCtx) : OnlyChanges [.grout] s (setLineCtx s l c) := by
  intro x hx
  cases x <;> simp_all [SamePart]

theorem injectEndReply_frame (pl : List Byte) (s : State) :
    OnlyChanges [.grout, .anchors, .cure, .sections] s (injectEndReply pl s).ev.st := by
  unfold injectEndReply
  split
  · exact OnlyChanges.refl _ _
  split
  · exact OnlyChanges.refl _ _
  split
  · exact OnlyChanges.refl _ _
  exact changeStage_of s _ _ ((setLineCtx_frame s _ _).mono (by simp)) _ _ (by simp)

theorem changeOpenEntry_frame (e : Ev) (c : LineCtx) (f : PassEntry → PassEntry) :
    OnlyChanges [.anchors] e.st (e.changeOpenEntry c f).st := by
  unfold Ev.changeOpenEntry
  split
  · exact OnlyChanges.refl _ _
  · exact writeAnchor_frame e _

theorem judgeLineLimit_frame (e : Ev) (l : GLine) (c : LineCtx) (v : Nat) :
    OnlyChanges [.grout, .anchors] e.st (e.judgeLineLimit l c v).st := by
  have h1 : OnlyChanges [.grout, .anchors] e.st (e.mod fun s => setLineCtx s l (some (c.judgeLimit v))).st :=
    (setLineCtx_frame e.st l _).mono (by simp)
  unfold Ev.judgeLineLimit
  simp only
  generalize (e.mod fun s => setLineCtx s l (some (c.judgeLimit v))) = e1 at h1 ⊢
  split
  · exact h1.step (changeOpenEntry_frame e1 _ _) (by simp)
  · exact h1

theorem judgeLineRefusal_frame (e : Ev) (l : GLine) (c : LineCtx) (v : Nat) :
    OnlyChanges [.grout, .anchors] e.st (e.judgeLineRefusal l c v).st := by
  have h1 : OnlyChanges [.grout, .anchors] e.st (e.mod fun s => setLineCtx s l (some (c.judgeRefusal v))).st :=
    (setLineCtx_frame e.st l _).mono (by simp)
  unfold Ev.judgeLineRefusal
  simp only
  generalize (e.mod fun s => setLineCtx s l (some (c.judgeRefusal v))) = e1 at h1 ⊢
  split
  · exact h1.step (changeOpenEntry_frame e1 _ _) (by simp)
  · exact h1

theorem judgeLine_frame (e : Ev) (l : GLine) : OnlyChanges [.grout, .anchors] e.st (e.judgeLine l).st := by
  unfold Ev.judgeLine
  split
  · exact OnlyChanges.refl _ _
  · exact (judgeLineLimit_frame e _ _ _).step (judgeLineRefusal_frame _ _ _ _) (by simp)

theorem refreshEvent_frame (l : GLine) (s : State) (e : Ev) (h : refreshEvent l s = some e) :
    OnlyChanges [.time, .anchors] s e.st := by
  have hu : OnlyChanges [.time, .anchors] s (useRefresh s l) := by
    intro x hx
    cases x <;> simp_all [SamePart]
  unfold refreshEvent at h
  split at h
  · cases h
  · split at h
    · cases h
    · split at h
      · cases h
        exact hu.step (changeOpenEntry_frame _ _ _) (by simp)
      · cases h
        exact hu

/-! ## Schedules and parameters -/

theorem editSchedule_frame (s : State) (sch : ScheduleData) :
    OnlyChanges [.schedule, .results] s (editSchedule s sch).ev.st := by
  intro x hx
  cases x <;> simp_all [SamePart, editSchedule]

theorem writeStepReply_frame (pl : List Byte) (s : State) :
    OnlyChanges [.schedule, .results] s (writeStepReply pl s).ev.st := by
  unfold writeStepReply
  split
  · exact OnlyChanges.refl _ _
  split
  · exact OnlyChanges.refl _ _
  split
  · exact OnlyChanges.refl _ _
  exact editSchedule_frame s _

theorem setScheduleHeadReply_frame (pl : List Byte) (s : State) :
    OnlyChanges [.schedule, .results] s (setScheduleHeadReply pl s).ev.st := by
  unfold setScheduleHeadReply
  split
  · split
    · exact OnlyChanges.refl _ _
    · exact editSchedule_frame s _
  · exact OnlyChanges.refl _ _

theorem setSections_frame (ns : List Nat) (r : SectionRec) (s : State) :
    OnlyChanges [.sections] s (ns.foldl (fun acc n => setSection acc n r) s) := by
  induction ns generalizing s with
  | nil => exact OnlyChanges.refl _ _
  | cons n rest ih =>
    refine OnlyChanges.step (b := setSection s n r) ?_ (ih _) (List.Subset.refl _)
    intro x hx
    cases x <;> simp_all [SamePart]

theorem setParameterReply_frame (pl : List Byte) (s : State) :
    OnlyChanges [.config, .sections] s (setParameterReply pl s).ev.st := by
  unfold setParameterReply
  split
  · exact OnlyChanges.refl _ _
  split
  · exact OnlyChanges.refl _ _
  rename_i k _ _ _
  generalize clampParam k (fieldInt pl 1 4) = v
  have h : OnlyChanges [.config, .sections] s
      { s with config := { s.config with params := s.config.params.set k v } } := by
    intro x hx
    cases x <;> simp_all [SamePart]
  unfold storeParam Ev.paramEffect
  split
  · unfold Ev.defaultSections
    split
    · exact h
    · exact h.step (setSections_frame _ _ _) (by simp)
  · refine h.step (qs := [.sections]) ?_ (by simp)
    intro x hx
    cases x <;> simp_all [SamePart, restale]
  · exact h

/-! ## The stressing session -/

theorem changeSession_frame (e : Ev) (f : Session → Session) : OnlyChanges [.session] e.st (e.changeSession f).st := by
  intro x hx
  cases x <;> simp_all [SamePart, Ev.changeSession]

theorem changeResult_frame (e : Ev) (f : TestResult → TestResult) :
    OnlyChanges [.anchors] e.st (e.changeResult f).st := by
  unfold Ev.changeResult
  split
  · exact OnlyChanges.refl _ _
  · exact writeAnchor_frame e _

theorem takeReading_frame (e : Ev) (b : ReadingBody) :
    OnlyChanges [.session, .pool, .anchors] e.st (e.takeReading b).st := by
  unfold Ev.takeReading
  split
  · intro x hx
    cases x <;> simp_all [SamePart, Ev.changeSession, Ev.writeAnchor]
  · exact OnlyChanges.refl _ _

theorem returnReadings_frame (e : Ev) (back : List Nat) :
    OnlyChanges [.session, .pool, .anchors] e.st (e.returnReadings back).st := by
  unfold Ev.returnReadings
  split
  · exact OnlyChanges.refl _ _
  · intro x hx
    cases x <;> simp_all [SamePart, Ev.changeSession, Ev.writeAnchor]

theorem announceStep_st (e : Ev) : e.announceStep.st = e.st := by
  unfold Ev.announceStep
  split <;> rfl

theorem moveOn_frame (e : Ev) : OnlyChanges [.session] e.st e.moveOn.st := by
  unfold Ev.moveOn
  rw [announceStep_st]
  exact changeSession_frame e _

theorem closeSession_frame (s : State) : OnlyChanges [.session, .pool] s (closeSession s) := by
  intro x hx
  cases x <;> simp_all [SamePart]

theorem endWith_frame (e : Ev) (v : Verdict) : OnlyChanges stressParts e.st (e.endWith v).st := by
  unfold Ev.endWith
  split
  · exact OnlyChanges.refl _ _
  · exact ((closeSession_frame e.st).mono (by simp)).step (changeStage_frame (e.mod closeSession) _ _) (by simp)

theorem interruptReply_frame (how : SessionEnd) (s : State) :
    OnlyChanges stressParts s (interruptReply how s).ev.st := by
  unfold interruptReply
  split
  · exact OnlyChanges.refl _ _
  · rename_i o _
    have h : OnlyChanges stressParts s (interruptedPool s o) := by
      unfold interruptedPool
      split
      · exact (closeSession_frame s).mono (by simp)
      · exact ((releaseReadings_frame s _).mono (by simp)).step (closeSession_frame _) (by simp)
    exact changeStage_of s _ _ h _ _ (by simp)

theorem stressOpenReply_frame (pl : List Byte) (s : State) :
    OnlyChanges stressParts s (stressOpenReply pl s).ev.st := by
  unfold stressOpenReply
  split
  · exact OnlyChanges.refl _ _
  split
  · exact OnlyChanges.refl _ _
  split
  · exact OnlyChanges.refl _ _
  split
  · exact OnlyChanges.refl _ _
  split
  · exact OnlyChanges.refl _ _
  split
  · exact OnlyChanges.refl _ _
  split
  · exact OnlyChanges.refl _ _
  split
  · exact OnlyChanges.refl _ _
  split
  · exact OnlyChanges.refl _ _
  unfold stressOpenOn
  split
  · exact OnlyChanges.refl _ _
  split
  · exact OnlyChanges.refl _ _
  split
  · exact OnlyChanges.refl _ _
  split
  · exact OnlyChanges.refl _ _
  split
  · exact OnlyChanges.refl _ _
  unfold stressOpenDone
  simp only [doneWith_ev, announceStep_st]
  refine changeStage_of s _ _ ?_ _ _ (by simp)
  intro x hx
  cases x <;> simp_all [SamePart]

theorem takeSummaries_frame (e : Ev) (fs : List StageFrame) (q : Option Int) :
    OnlyChanges [.session, .pool, .anchors] e.st (e.takeSummaries fs q).st := by
  unfold Ev.takeSummaries
  split
  · exact OnlyChanges.refl _ _
  · exact (takeReading_frame e _).step
      (foldl_frame [.session, .pool, .anchors] (fun (acc : Ev) g => acc.takeReading (summaryBody acc.st g none))
        (fun a _ => takeReading_frame a _) _ _) (by simp)

theorem evaluate_frame (e : Ev) (v : Evaluated) : OnlyChanges stressParts e.st (e.evaluate v).st := by
  obtain ⟨lapp, verdict⟩ := v
  have hm : ∀ e' : Ev, OnlyChanges stressParts e'.st e'.moveOn.st := fun e' => (moveOn_frame e').mono (by simp)
  have hc : ∀ f, OnlyChanges stressParts e.st (e.changeResult f).st := fun f => (changeResult_frame e f).mono (by simp)
  cases lapp <;> cases verdict
  · exact hm e
  · exact endWith_frame e _
  · exact (hc _).step (hm _) (List.Subset.refl _)
  · exact (hc _).step (endWith_frame _ _) (List.Subset.refl _)

theorem unload_frame (e : Ev) (o : OpenTest) (f : Nat) : OnlyChanges stressParts e.st (e.unload o f).st := by
  unfold Ev.unload
  simp only
  have h : ∀ q g, OnlyChanges stressParts e.st (((e.takeSummaries (poppedFrames f o.sess) q).changeSession g)).st :=
    fun q g => ((takeSummaries_frame e _ _).mono (by simp)).step (changeSession_frame _ _) (by simp)
  split
  · exact (h _ _).step (evaluate_frame _ _) (by simp)
  · exact (h _ _).step (moveOn_frame _) (by simp)

theorem carryOut_frame (e : Ev) (o : OpenTest) (i : Nat) : OnlyChanges stressParts e.st (e.carryOut o i).st := by
  unfold Ev.carryOut
  split
  · exact ((changeSession_frame e _).mono (by simp)).step (moveOn_frame _) (by simp)
  · exact ((changeSession_frame e _).mono (by simp)).step (moveOn_frame _) (by simp)
  · exact unload_frame e o _
  · exact (changeSession_frame e _).mono (by simp)
  all_goals exact OnlyChanges.refl _ _

theorem advanceReply_frame (s : State) : OnlyChanges stressParts s (advanceReply s).ev.st := by
  have hdone : ∀ o k, OnlyChanges stressParts s (advanceDone s o k).ev.st := fun o k =>
    ((takeReading_frame (Ev.of s) _).mono (by simp)).step (carryOut_frame _ _ _) (by simp)
  unfold advanceReply
  split
  · exact OnlyChanges.refl _ _
  split
  · exact OnlyChanges.refl _ _
  · exact OnlyChanges.refl _ _
  · exact OnlyChanges.refl _ _
  all_goals
    split
    · exact OnlyChanges.refl _ _
    unfold advanceOn
    split
    · exact OnlyChanges.refl _ _
    split
    · exact OnlyChanges.refl _ _
    split
    · exact OnlyChanges.refl _ _
    split
    · exact OnlyChanges.refl _ _
    split
    · exact OnlyChanges.refl _ _
    exact hdone _ _

theorem releaseReply_frame (s : State) : OnlyChanges stressParts s (releaseReply s).ev.st := by
  unfold releaseReply
  split
  · exact OnlyChanges.refl _ _
  split
  · split
    · exact OnlyChanges.refl _ _
    · unfold releaseDone
      simp only [doneWith_ev, announceStep_st]
      exact (((changeResult_frame (Ev.of s) _).mono (by simp)).step (takeReading_frame _ _) (by simp)).step
        (changeSession_frame _ _) (by simp)
  · exact OnlyChanges.refl _ _

theorem voidHold_frame (e : Ev) (x : Session) (top : StageFrame) (h : HoldCtx) (c : VoidCause) :
    OnlyChanges stressParts e.st (e.voidHold x top h c).st := by
  unfold Ev.voidHold
  have h1 : OnlyChanges stressParts e.st (e.returnReadings top.holdReadings).st :=
    (returnReadings_frame e _).mono (by simp)
  simp only
  split
  · exact (h1.step (changeSession_frame _ _) (by simp)).step (endWith_frame _ _) (by simp)
  · exact h1.step (changeSession_frame _ _) (by simp)

theorem writeCreep_frame (e : Ev) (b : Bool) (k : Int) : OnlyChanges [.anchors] e.st (e.writeCreep b k).st := by
  unfold Ev.writeCreep
  split
  · exact changeResult_frame e _
  · exact OnlyChanges.refl _ _

theorem completeHold_frame (e : Ev) (top : StageFrame) (k : Option Int) :
    OnlyChanges stressParts e.st (e.completeHold top k).st := by
  unfold Ev.completeHold
  have h : OnlyChanges stressParts e.st
      (match k with | none => e | some k => e.writeCreep top.critical k).st := by
    split
    · exact OnlyChanges.refl _ _
    · exact (writeCreep_frame e _ _).mono (by simp)
  simp only
  split
  · exact h
  · exact (h.step (changeSession_frame _ _) (by simp)).step (moveOn_frame _) (by simp)

theorem failCreep_frame (e : Ev) (top : StageFrame) (k : Int) :
    OnlyChanges stressParts e.st (e.failCreep top k).st :=
  ((writeCreep_frame e _ _).mono (by simp)).step (endWith_frame _ _) (by simp)

theorem decideAtD_frame (e : Ev) (top : StageFrame) (h : HoldCtx) :
    OnlyChanges stressParts e.st (e.decideAtD top h).st := by
  unfold Ev.decideAtD
  split
  · exact completeHold_frame _ _ _
  simp only
  split
  · exact ((changeSession_frame e _).mono (by simp)).step (completeHold_frame _ _ _) (by simp)
  split
  · exact ((changeSession_frame e _).mono (by simp)).step (changeSession_frame _ _) (by simp)
  · exact ((changeSession_frame e _).mono (by simp)).step (failCreep_frame _ _ _) (by simp)

theorem decideAt10D_frame (e : Ev) (top : StageFrame) (h : HoldCtx) :
    OnlyChanges stressParts e.st (e.decideAt10D top h).st := by
  unfold Ev.decideAt10D
  simp only
  split
  · exact ((changeSession_frame e _).mono (by simp)).step (completeHold_frame _ _ _) (by simp)
  · exact ((changeSession_frame e _).mono (by simp)).step (failCreep_frame _ _ _) (by simp)

theorem reachPoint_frame (e : Ev) (x : Session) (h : HoldCtx) (i : Nat) :
    OnlyChanges stressParts e.st (e.reachPoint x h i).st := by
  unfold Ev.reachPoint
  simp only
  have h1 : ∀ g, OnlyChanges stressParts e.st ((e.takeReading (readingNow e.st .holdPoint)).changeSession g).st :=
    fun g => ((takeReading_frame e _).mono (by simp)).step (changeSession_frame _ _) (by simp)
  split
  · exact h1 _
  split
  · exact (h1 _).step (decideAtD_frame _ _ _) (by simp)
  split
  · exact (h1 _).step (decideAt10D_frame _ _ _) (by simp)
  · exact h1 _

theorem judgeHold_frame (e : Ev) (x : Session) (top : StageFrame) (h : HoldCtx) :
    OnlyChanges stressParts e.st (e.judgeHold x top h).st := by
  have hcount : ∀ b c h', OnlyChanges stressParts e.st (e.countHold x top h' b c).st := by
    intro b c h'
    unfold Ev.countHold
    split
    · exact voidHold_frame _ _ _ _ _
    · exact (changeSession_frame e _).mono (by simp)
  unfold Ev.judgeHold
  split
  · split
    · exact voidHold_frame _ _ _ _ _
    · exact OnlyChanges.refl _ _
  split
  · split
    · exact hcount _ _ _
    · exact OnlyChanges.refl _ _
  split
  · split
    · exact hcount _ _ _
    · exact OnlyChanges.refl _ _
  unfold Ev.runHold
  simp only
  split
  · split
    · exact (changeSession_frame e _).mono (by simp)
    · exact ((changeSession_frame e _).mono (by simp)).step (reachPoint_frame _ _ _ _) (by simp)
  · exact (changeSession_frame e _).mono (by simp)

theorem failLift_frame (e : Ev) (x : Session) : OnlyChanges stressParts e.st (e.failLift x).st := by
  unfold Ev.failLift
  split
  · rw [announceStep_st]
    exact (changeSession_frame e _).mono (by simp)
  · exact endWith_frame _ _

theorem judgeLift_frame (e : Ev) (x : Session) (l : LiftCtx) : OnlyChanges stressParts e.st (e.judgeLift x l).st := by
  unfold Ev.judgeLift
  split
  · exact OnlyChanges.refl _ _
  simp only
  split
  · unfold Ev.captureLift
    simp only
    have h1 : ∀ g f b n, OnlyChanges stressParts e.st
        ((((e.changeSession g).changeResult f).takeReading b).raise n).st := fun g f b n =>
      (((changeSession_frame e g).mono (by simp)).step (changeResult_frame _ f) (by simp)).step
        (takeReading_frame _ b) (by simp)
    split
    · exact (h1 _ _ _ _).step (endWith_frame _ _) (by simp)
    · exact (h1 _ _ _ _).step (failLift_frame _ _) (by simp)
  split
  · exact (((changeSession_frame e _).mono (by simp)).step (takeReading_frame _ _) (by simp)).step
      (failLift_frame _ _) (by simp)
  · exact (changeSession_frame e _).mono (by simp)

theorem judgeSession_frame (e : Ev) : OnlyChanges stressParts e.st e.judgeSession.st := by
  unfold Ev.judgeSession
  split
  · exact OnlyChanges.refl _ _
  split
  · exact judgeHold_frame _ _ _ _
  · exact judgeLift_frame _ _ _
  · exact OnlyChanges.refl _ _

/-! ## The watch unit -/

theorem changeWatch_frame (e : Ev) (w : WatchId) (f : WatchState → WatchState) :
    OnlyChanges [.watch] e.st (e.changeWatch w f).st := by
  intro x hx
  cases x <;> simp_all [SamePart, Ev.changeWatch]

theorem actionHold_frame (e : Ev) (w : WatchId) (n : Option Nat) :
    OnlyChanges watchParts e.st (e.actionHold w n).st := by
  unfold Ev.actionHold
  split
  · exact (writeHold_frame _ _ _ _ _).mono (by simp)
  · exact OnlyChanges.refl _ _

theorem actionTrip_frame (e : Ev) (w : WatchId) (v : Int) : OnlyChanges watchParts e.st (e.actionTrip w v).st := by
  have h : ∀ f n g, OnlyChanges watchParts e.st (((e.changeWatch w f).actionHold w n).changeWatch w g).st :=
    fun f n g => (((changeWatch_frame e w f).mono (by simp)).step (actionHold_frame _ _ _) (by simp)).step
      (changeWatch_frame _ _ _) (by simp)
  exact h WatchState.trip (relatedSection e.st (e.st.config.watch.get w).source)
    fun x => { x with latch := x.latch || (e.st.config.watch.get w).drop.isSome }

theorem tripWatch_frame (e : Ev) (w : WatchId) (v : Int) : OnlyChanges watchParts e.st (e.tripWatch w v).st := by
  unfold Ev.tripWatch
  split
  · exact ((changeWatch_frame e _ _).mono (by simp)).step (changeWatch_frame _ _ _) (by simp)
  · exact actionTrip_frame _ _ _

theorem countWatch_frame (e : Ev) (w : WatchId) (b : Bool) (v : Int) :
    OnlyChanges watchParts e.st (e.countWatch w b v).st := by
  unfold Ev.countWatch
  split
  · split
    · exact tripWatch_frame _ _ _
    · exact (changeWatch_frame e _ _).mono (by simp)
  · exact (changeWatch_frame e _ _).mono (by simp)

theorem evaluateWatch_frame (e : Ev) (w : WatchId) : OnlyChanges watchParts e.st (e.evaluateWatch w).st := by
  unfold Ev.evaluateWatch
  simp only
  split
  · exact OnlyChanges.refl _ _
  · exact countWatch_frame _ _ _ _

theorem feedWatches_frame (e : Ev) (fed : WatchSource → Bool) : OnlyChanges watchParts e.st (e.feedWatches fed).st :=
  foldl_frame watchParts (fun acc w => acc.evaluateWatch w) (fun a w => evaluateWatch_frame a w) _ e

theorem evaluateRise_frame (e : Ev) (w : WatchId) : OnlyChanges watchParts e.st (e.evaluateRise w).st := by
  unfold Ev.evaluateRise
  simp only
  split
  · exact (changeWatch_frame e _ _).mono (by simp)
  · exact ((changeWatch_frame e _ _).mono (by simp)).step (countWatch_frame _ _ _ _) (by simp)

theorem flowRateEvent_frame (s : State) (e : Ev) (h : flowRateEvent s = some e) :
    OnlyChanges [.meas, .time, .watch, .sections] s e.st := by
  unfold flowRateEvent at h
  split at h
  · cases h
  · cases h
    refine OnlyChanges.step (b := flowSecond s) ?_ (feedWatches_frame (Ev.of (flowSecond s)) _) (by simp)
    intro x hx
    cases x <;> simp_all [SamePart]

theorem riseEvent_frame (s : State) (e : Ev) (h : riseEvent s = some e) :
    OnlyChanges [.time, .watch, .sections] s e.st := by
  unfold riseEvent at h
  split at h
  · cases h
  · cases h
    refine OnlyChanges.step (b := { s with time := { s.time with riseDue := s.time.riseDue - 1 } }) ?_
      (foldl_frame watchParts (fun acc w => acc.evaluateRise w) (fun a w => evaluateRise_frame a w) _ _) (by simp)
    intro x hx
    cases x <;> simp_all [SamePart]

theorem resetWatches_frame (e : Ev) (ws : List WatchId) : OnlyChanges [.watch] e.st (e.resetWatches ws).st :=
  foldl_frame [.watch] (fun acc w => acc.changeWatch w WatchState.reset) (fun a w => changeWatch_frame a w _) ws e

theorem armIfEnabled_frame (e : Ev) (w : Option WatchId) : OnlyChanges [.watch] e.st (e.armIfEnabled w).st := by
  unfold Ev.armIfEnabled
  split
  · exact OnlyChanges.refl _ _
  · exact changeWatch_frame _ _ _

theorem chainLapseEvent_frame (s : State) (e : Ev) (h : chainLapseEvent s = some e) :
    OnlyChanges [.watch] s e.st := by
  unfold chainLapseEvent at h
  split at h
  · cases h
    exact (resetWatches_frame (Ev.of s) _).step (armIfEnabled_frame _ _) (by simp)
  · cases h

theorem reportedSection_frame (s : State) (n : Nat) (v : Int) :
    OnlyChanges [.sections] s (reportedSection s n v) := by
  intro x hx
  cases x <;> simp_all [SamePart]

theorem reportDeflectionReply_frame (pl : List Byte) (s : State) :
    OnlyChanges watchParts s (reportDeflectionReply pl s).ev.st := by
  unfold reportDeflectionReply
  split
  · have hc : ∀ (e : Ev) n v, OnlyChanges [.sections] e.st (e.compareLimit n v).st := by
      intro e n v
      unfold Ev.compareLimit
      simp only
      split
      · exact writeHold_frame _ _ _ _ _
      · exact OnlyChanges.refl _ _
    exact (((reportedSection_frame s _ _).mono (by simp)).step (hc _ _ _) (by simp)).step (feedWatches_frame _ _)
      (by simp)
  · exact OnlyChanges.refl _ _

theorem configureWatch_frame (e : Ev) (w : WatchId) (c : WatchConfig) :
    OnlyChanges [.config] e.st (e.configureWatch w c).st := by
  intro x hx
  cases x <;> simp_all [SamePart, Ev.configureWatch]

theorem watchConfigureReply_frame (pl : List Byte) (s : State) :
    OnlyChanges [.config] s (watchConfigureReply pl s).ev.st := by
  unfold watchConfigureReply
  split
  · exact OnlyChanges.refl _ _
  split
  · exact OnlyChanges.refl _ _
  split
  · exact OnlyChanges.refl _ _
  exact configureWatch_frame (Ev.of s) _ _

theorem watchThresholdReply_frame (pl : List Byte) (s : State) :
    OnlyChanges [.config, .watch] s (watchThresholdReply pl s).ev.st := by
  unfold watchThresholdReply
  split
  · exact OnlyChanges.refl _ _
  split
  · exact OnlyChanges.refl _ _
  unfold acceptThreshold
  split
  · exact (changeWatch_frame (Ev.of s) _ _).mono (by simp)
  · exact (configureWatch_frame (Ev.of s) _ _).mono (by simp)

theorem watchEnableReply_frame (pl : List Byte) (s : State) :
    OnlyChanges [.watch] s (watchEnableReply pl s).ev.st := by
  unfold watchEnableReply
  split
  · exact OnlyChanges.refl _ _
  split
  · exact OnlyChanges.refl _ _
  split
  · exact OnlyChanges.refl _ _
  exact changeWatch_frame (Ev.of s) _ _

theorem swapThreshold_frame (e : Ev) (w : WatchId) : OnlyChanges [.config, .watch] e.st (e.swapThreshold w).st := by
  unfold Ev.swapThreshold
  split
  · exact OnlyChanges.refl _ _
  · exact ((configureWatch_frame e _ _).mono (by simp)).step (changeWatch_frame _ _ _) (by simp)

theorem restartChain_frame (e : Ev) (w : WatchId) (b : Bool) : OnlyChanges [.watch] e.st (e.restartChain w b).st := by
  unfold Ev.restartChain
  split
  · exact (resetWatches_frame e _).step (armIfEnabled_frame _ _) (by simp)
  · exact OnlyChanges.refl _ _

theorem watchDisableReply_frame (pl : List Byte) (s : State) :
    OnlyChanges [.config, .watch] s (watchDisableReply pl s).ev.st := by
  unfold watchDisableReply
  split
  · exact OnlyChanges.refl _ _
  split
  · exact (((((resetWatches_frame (Ev.of s) _).mono (by simp)).step (changeWatch_frame _ _ _) (by simp)).step
      (swapThreshold_frame _ _) (by simp)).step (changeWatch_frame _ _ _) (by simp)).step (restartChain_frame _ _ _)
      (by simp)
  · exact OnlyChanges.refl _ _

theorem watchRearmReply_frame (pl : List Byte) (s : State) :
    OnlyChanges [.config, .watch] s (watchRearmReply pl s).ev.st := by
  unfold watchRearmReply
  split
  · exact OnlyChanges.refl _ _
  · have h : ∀ (l : List WatchId) (e : Ev), OnlyChanges [.config, .watch] e.st
        (l.foldl (fun acc v => (acc.swapThreshold v).releaseLatch v) e).st := fun l e =>
      foldl_frame [.config, .watch] (fun acc v => (acc.swapThreshold v).releaseLatch v)
        (fun a v => (swapThreshold_frame a v).step (changeWatch_frame _ _ _) (by simp)) l e
    exact ((h _ (Ev.of s)).step (resetWatches_frame _ _) (by simp)).step (armIfEnabled_frame _ _) (by simp)

/-! ## The sample set -/

theorem measuredEvent_frame (x : SampleIn) (s : State) :
    OnlyChanges [.supply, .recorder, .meas] s (measuredEvent x s).st :=
  ((sampleSupply_frame x.supply s).mono (by simp)).step
    (measure_frame ((Ev.of s).mod (sampleSupply x.supply)) x.raw) (by simp)

theorem monitoredEvent_frame (x : SampleIn) (s : State) :
    OnlyChanges [.supply, .recorder, .meas, .rig, .grout, .anchors] s (monitoredEvent x s).st :=
  ((((measuredEvent_frame x s).mono (by simp)).step (judgeRig_frame _) (by simp)).step (judgeLine_frame _ _)
    (by simp)).step (judgeLine_frame _ _) (by simp)

theorem watchedEvent_frame (x : SampleIn) (s : State) :
    OnlyChanges [.supply, .recorder, .meas, .rig, .grout, .anchors, .watch, .sections] s (watchedEvent x s).st :=
  ((monitoredEvent_frame x s).mono (by simp)).step (feedWatches_frame _ _) (by simp)

theorem tick_frame (s : State) : OnlyChanges [.clock, .time, .watch, .sections] s (tickTime (tickClock s)) := by
  intro x hx
  unfold tickTime tickClock
  split_ifs <;> cases x <;> simp_all [SamePart]

theorem sampleEvent_frame (x : SampleIn) (s : State) : OnlyChanges sampleParts s (sampleEvent x s).st :=
  (((watchedEvent_frame x s).mono (by simp)).step (judgeSession_frame _) (by simp)).step (tick_frame _) (by simp)

end Sys2Proof.Machine
end

