-- ==== Sys2Proof/Laws/Requests.lean ====
section
/-! SUPPORT. The taking of a request, said once for each way it can be answered: refused by the port unit, refused by
the owning block, read, accepted. -/

namespace Sys2Proof.Machine

theorem takeFrame_frame (s : State) (p : Port) : OnlyChanges [.ports] s (takeFrame s p) := by
  intro x hx
  cases x <;> simp_all [SamePart]

theorem setFlags_frame (s : State) (p : Port) (f : PortFlags → PortFlags) : OnlyChanges [.ports] s (setFlags s p f) := by
  intro x hx
  cases x <;> simp_all [SamePart, setFlags]

/-- The port that takes a request keeps the flags the reply left it, but for NOTICE_DROPPED. -/
theorem putAnswer_flags (k : Byte) (p : Port) (r : Reply) :
    ((commit (putAnswer k p r)).ports.get p).flags =
      { (r.ev.st.ports.get p).flags with
        noticeDropped := ((commit (putAnswer k p r)).ports.get p).flags.noticeDropped } := by
  have h := (commit_keeps (putAnswer k p r) p).2
  unfold FlagsKept at h
  rw [h]
  simp [putAnswer]

/-- What a taking does to the ports, for a reply that changed the flags of the sending port alone. -/
theorem taken_flags {k : Byte} {p : Port} {s : State} (r : Reply) (f : PortFlags → PortFlags)
    (hl : (s.ports.get p).link = .onBus) (hp : r.ev.st.ports = (setFlags (takeFrame s p) p f).ports) :
    Taken p (answerFrames k r.body) s (commit (putAnswer k p r)) := by
  obtain ⟨ns, h⟩ := commit_ports (putAnswer k p r)
  have hself : (putAnswer k p r).st.ports.get p =
      { s.ports.get p with inbound := (s.ports.get p).inbound.drop 1, inHand := (s.ports.get p).inbound.head?,
                           flags := f (s.ports.get p).flags, slot := answerFrames k r.body } := by
    simp [putAnswer, hp, takeFrame, setFlags]
  have hother : ∀ q, q ≠ p → (putAnswer k p r).st.ports.get q = s.ports.get q := by
    intro q hq
    simp [putAnswer, hp, takeFrame, setFlags, PerPort.get_set_ne _ _ hq]
  have hkeep := commit_keeps (putAnswer k p r) p
  rw [hself] at hkeep
  refine ⟨?_, hkeep.1.2.2.1, hkeep.1.2.1, hkeep.1.1, hkeep.1.2.2.2, ?_⟩
  · rw [h, hself]
    obtain ⟨a, -, c, d⟩ := offerAll_keeps p ns
      { s.ports.get p with inbound := (s.ports.get p).inbound.drop 1, inHand := (s.ports.get p).inbound.head?,
                           flags := f (s.ports.get p).flags, slot := answerFrames k r.body }
    have hne : ∃ g rest, answerFrames k r.body = g :: rest := by
      unfold answerFrames
      split <;> exact ⟨_, _, rfl⟩
    obtain ⟨g, rest, hf⟩ := hne
    exact pump_answers _ _ _ g rest hf (by rw [a.1]; exact hl) c d
  · intro q hq
    have := commit_keeps (putAnswer k p r) q
    rwa [hother q hq] at this

theorem putAnswer_frame {k : Byte} {p : Port} {s : State} {r : Reply} {parts : List Part}
    (hf : OnlyChanges (.ports :: parts) s r.ev.st) :
    OnlyChanges (parts ++ [.watch, .permits, .recorder, .ports]) s (commit (putAnswer k p r)) := by
  have : OnlyChanges (.ports :: parts) s (putAnswer k p r).st := by
    intro x hx
    have := hf x hx
    cases x <;> simp_all [SamePart]
  intro x hx
  have hx' : x ∉ (Part.ports :: parts) ++ [.watch, .permits, .recorder, .ports] := by
    simp only [List.mem_append, List.mem_cons, List.not_mem_nil, or_false, not_or] at hx ⊢
    tauto
  exact commit_frame _ s _ this x hx'

theorem putAnswer_dirties {k : Byte} {p : Port} {s : State} {r : Reply} (hr : r.ev.st.recorder = s.recorder) :
    Dirties r.ev.dirty s (commit (putAnswer k p r)) := by
  have := commit_dirties (putAnswer k p r)
  unfold Dirties at *
  simpa [hr] using this

theorem putAnswer_watches {k : Byte} {p : Port} {s : State} {r : Reply} (hw : r.ev.st.watch = s.watch) :
    WatchFlagsSame s (commit (putAnswer k p r)) := by
  have := commit_watchFlags (putAnswer k p r)
  unfold WatchFlagsSame at *
  simpa [hw] using this

/-- A frame that a check of the port unit turns away, setting flags of the port. -/
theorem turnedAway_commit {k : Byte} {p : Port} {s : State} (c : Code) (f : PortFlags → PortFlags)
    (hl : (s.ports.get p).link = .onBus) :
    TurnedAway k p c f s (commit (putAnswer k p (refuse (setFlags (takeFrame s p) p f) c))) := by
  refine ⟨taken_flags (k := k) _ f hl rfl, ?_, ?_,
    putAnswer_dirties (r := refuse (setFlags (takeFrame s p) p f) c) rfl, commit_exact _, putAnswer_watches rfl,
    putAnswer_frame (parts := []) ((takeFrame_frame s p).step (setFlags_frame _ p f) (by simp))⟩
  · have := putAnswer_flags k p (refuse (setFlags (takeFrame s p) p f) c)
    rw [this]
    simp [refuse, Ev.of, setFlags, takeFrame]
  · have h := commit_told (putAnswer k p (refuse (setFlags (takeFrame s p) p f) c)) s rfl
    have hbase : (fun q => (putAnswer k p (refuse (setFlags (takeFrame s p) p f) c)).st.ports.get q) = fun q =>
        if q = p then { tookRequest p [.single k c .none] s p with flags := f (s.ports.get p).flags }
        else s.ports.get q := by
      funext q
      by_cases hqp : q = p
      · subst hqp
        simp [putAnswer, refuse, Ev.of, setFlags, takeFrame, tookRequest, answerFrames]
      · simp [putAnswer, refuse, Ev.of, setFlags, takeFrame, PerPort.get_set_ne _ _ hqp, hqp]
    rw [hbase] at h
    exact h

/-- A request that the owning block refuses sets no flag of its port. -/
theorem refused_flagsKept {k : ReqKind} {p : Port} {s : State} (c : Code) :
    FlagsKept (s.ports.get p) ((commit (putAnswer k.code p (refuse (takeFrame s p) c))).ports.get p) := by
  have := putAnswer_flags k.code p (refuse (takeFrame s p) c)
  unfold FlagsKept
  rw [this]
  simp [refuse, Ev.of, takeFrame]

/-- A request that the owning block refuses. -/
theorem refused_body {k : ReqKind} {p : Port} {pl : List Byte} {s : State} (c : Code) (h : Asked k p pl s) :
    Refused k.code p c s (commit (putAnswer k.code p (refuse (takeFrame s p) c))) :=
  ⟨taken_commit (k := k.code) (refuse (takeFrame s p) c) (canTake_link h.1) rfl, refused_flagsKept c,
    taken_told k.code (refuse (takeFrame s p) c) rfl rfl,
    putAnswer_dirties (r := refuse (takeFrame s p) c) rfl, commit_exact _, putAnswer_watches rfl,
    putAnswer_frame (parts := []) (takeFrame_frame s p)⟩

/-- A read that is answered. -/
theorem read_commit {k : ReqKind} {p : Port} {pl : List Byte} {s : State} {r : Reply} {content : ReadContent} {n : Nat}
    {parts : List Part} (h : Asked k p pl s) (hb : r.body = .read content n) (hd : r.ev.dirty = [])
    (hn : r.ev.notices = []) (hq : r.ev.st.permits = s.permits)
    (hp : r.ev.st.ports = (takeFrame s p).ports) (hr : r.ev.st.recorder = s.recorder) (hw : r.ev.st.watch = s.watch)
    (hf : OnlyChanges (.ports :: parts) s r.ev.st) :
    ReadOut k p content n parts s (commit (putAnswer k.code p r)) := by
  refine ⟨?_, ?_, by simpa [hb, hn] using taken_told k.code r hp hq, ?_, commit_exact _, putAnswer_watches hw,
    putAnswer_frame hf⟩
  · have := taken_commit (k := k.code) r (canTake_link h.1) hp
    rwa [hb] at this
  · have := putAnswer_flags k.code p r
    unfold FlagsKept
    rw [this]
    simp [hp, takeFrame]
  · have := putAnswer_dirties (k := k.code) (p := p) hr
    rwa [hd] at this

/-- An accepted request whose owning block's reply touches the parts listed, the ports not among them. -/
theorem accepted_body {k : ReqKind} {p : Port} {pl : List Byte} {s : State} {r : Reply} {d : AnswerData}
    {parts : List Part} {items : List Item} (h : Asked k p pl s) (hb : r.body = .single .done d)
    (hd : r.ev.dirty = items) (hf : OnlyChanges parts (takeFrame s p) r.ev.st) (hp : .ports ∉ parts)
    (hr : .recorder ∉ parts) (hq : .permits ∉ parts) :
    Accepted k p d items r.ev.notices parts s (commit (putAnswer k.code p r)) := by
  refine accepted_commit h hb hd (hf .ports hp) ?_ (hf .permits hq) ?_
  · have := hf .recorder hr
    simpa [SamePart] using this
  · exact ((takeFrame_frame s p).trans hf).mono (by simp)

/-! ## Requests that change a stage -/

theorem Dirties.congr {a b : List Item} {s t : State} (h : Dirties a s t) (hab : ∀ i, i ∈ a ↔ i ∈ b) :
    Dirties b s t :=
  ⟨fun i hi => h.1 i ((hab i).2 hi), h.2.1, fun i hi => (h.2.2.1 i hi).imp id (hab i).1, h.2.2.2⟩

theorem Accepted.congr {k : ReqKind} {p : Port} {d : AnswerData} {a b : List Item} {ns : List Notice} {ps : List Part}
    {s t : State} (h : Accepted k p d a ns ps s t) (hab : ∀ i, i ∈ a ↔ i ∈ b) : Accepted k p d b ns ps s t :=
  ⟨h.taken, h.flags, h.told, h.items.congr hab, h.lines, h.frame⟩

theorem Occurred.congr {a b : List Item} {ns : List Notice} {ps : List Part} {s t : State} (h : Occurred a ns ps s t)
    (hab : ∀ i, i ∈ a ↔ i ∈ b) : Occurred b ns ps s t :=
  ⟨h.ports, h.told, h.items.congr hab, h.lines, h.frame⟩

/-- What a change of stage moved depends on the three tables alone. -/
theorem StageMoved.congr {old new : AnchorRec} {s s' t t' : State} (h : StageMoved old new s t)
    (h1 : s'.anchors = s.anchors) (h2 : s'.cure = s.cure) (h3 : s'.sections = s.sections) (h4 : t'.anchors = t.anchors)
    (h5 : t'.cure = t.cure) (h6 : t'.sections = t.sections) : StageMoved old new s' t' := by
  obtain ⟨a, b, c, d, e⟩ := h
  have hs : ∀ n, sectionRec s' n = sectionRec s n := fun n => by simp [sectionRec, h3]
  have ht : ∀ n, sectionRec t' n = sectionRec t n := fun n => by simp [sectionRec, h6]
  refine ⟨?_, ?_, ?_, ?_, ?_⟩
  · simpa [findAnchor, h4] using a
  · intro x hx
    have := b x hx
    simpa [findAnchor, h4, h1] using this
  · rw [h5, h2, c]
  · rw [ht, d]
    unfold movedSection storeHoldGoes
    simp only [hs, hasHold, h1]
    rfl
  · intro m h7 h8
    rw [ht, hs]
    exact e m h7 h8

theorem stageItems_congr {old new : AnchorRec} {s s' : State} (h1 : s'.anchors = s.anchors)
    (h3 : s'.sections = s.sections) : stageItems s' old new = stageItems s old new := by
  unfold stageItems storeHoldGoes hasHold sectionRec
  rw [h1, h3]

theorem beNat_lt (l : List Byte) : beNat l < 256 ^ l.length := by
  have gen : ∀ (l : List Byte) (acc : Nat), l.foldl (fun acc b => acc * 256 + b.toNat) acc < (acc + 1) * 256 ^ l.length := by
    intro l
    induction l with
    | nil => simp
    | cons b rest ih =>
      intro acc
      simp only [List.foldl_cons, List.length_cons]
      have h := ih (acc * 256 + b.toNat)
      have hb : b.toNat < 256 := b.isLt
      calc _ < (acc * 256 + b.toNat + 1) * 256 ^ rest.length := h
        _ ≤ ((acc + 1) * 256) * 256 ^ rest.length := Nat.mul_le_mul_right _ (by omega)
        _ = _ := by rw [Nat.pow_succ]; ring
  simpa [beNat] using gen l 0

/-- A field of `len` bytes is below 256 to the power `len`. -/
theorem fieldNat_lt (pl : List Byte) (at_ len : Nat) : fieldNat pl at_ len < 256 ^ len := by
  unfold fieldNat bytesAt
  refine lt_of_lt_of_le (beNat_lt _) (Nat.pow_le_pow_right (by norm_num) ?_)
  simp

theorem anchorField_sect (pl : List Byte) : 1 ≤ (anchorField pl).sect ∧ (anchorField pl).sect ≤ 64 := by
  have := fieldNat_lt pl 0 2
  unfold anchorField
  simp only
  omega

theorem stageNotices_congr {old new : AnchorRec} {s s' t : State} (h1 : s'.anchors = s.anchors)
    (h3 : s'.sections = s.sections) : stageNotices s' t old new = stageNotices s t old new := by
  unfold stageNotices storeHoldGoes hasHold sectionRec
  rw [h1, h3]

/-- An accepted request that changes a stage, on a state it prepared without touching the anchor table, the cure list or
the sections; `extra` are the notices it raises after those of the change. -/
theorem accepted_stage {k : ReqKind} {p : Port} {pl : List Byte} {s u : State} {r : Reply} {d : AnswerData}
    {parts : List Part} {old new : AnchorRec} {extra : List Notice} (h : Asked k p pl s)
    (hb : r.body = .single .done d) (hst : r.ev.st = ((Ev.of u).changeStage old new).st)
    (hd : r.ev.dirty = ((Ev.of u).changeStage old new).dirty)
    (hn : r.ev.notices = ((Ev.of u).changeStage old new).notices ++ extra)
    (hu : OnlyChanges parts (takeFrame s p) u)
    (hparts : .ports ∉ parts ∧ .recorder ∉ parts ∧ .anchors ∉ parts ∧ .cure ∉ parts ∧ .sections ∉ parts ∧ .watch ∉ parts ∧
      .permits ∉ parts)
    (hold : findAnchor s (anchorField pl) = some old) (hid : new.id = old.id) (hz : s.sections.length = 64) :
    Accepted k p d (stageItems s old new) (stageNotices s (commit (putAnswer k.code p r)) old new ++ extra)
        (parts ++ [.anchors, .cure, .sections]) s (commit (putAnswer k.code p r)) ∧
      StageMoved old new s (commit (putAnswer k.code p r)) ∧ WatchFlagsSame s (commit (putAnswer k.code p r)) := by
  have ha : new.id = anchorField pl := hid.trans (findAnchor_id hold)
  obtain ⟨h1, h2⟩ := anchorField_sect pl
  have hua : u.anchors = s.anchors := hu .anchors hparts.2.2.1
  have huc : u.cure = s.cure := hu .cure hparts.2.2.2.1
  have hus : u.sections = s.sections := hu .sections hparts.2.2.2.2.1
  have hold' : findAnchor (Ev.of u).st new.id = some old := by
    rw [ha]
    simpa [findAnchor, hua] using hold
  have hm := changeStage_moved (Ev.of u) old new hold' (by rw [ha]; exact h1) (by rw [ha]; simp [hus, hz, h2])
  have hf : OnlyChanges (parts ++ [.anchors, .cure, .sections]) (takeFrame s p) r.ev.st := by
    rw [hst]
    exact hu.trans (changeStage_frame (Ev.of u) old new)
  have hno : r.ev.notices = stageNotices s (commit (putAnswer k.code p r)) old new ++ extra := by
    rw [hn, changeStage_notices (Ev.of u) old new (commit (putAnswer k.code p r)) hold' (by simp [putAnswer, hst]),
      ← stageNotices_congr (s' := u) (s := s) hua hus]
    simp
  refine ⟨?_, ?_, ?_⟩
  · rw [← hno]
    refine (accepted_body h hb hd hf ?_ ?_ ?_).congr ?_
    · simp [hparts.1]
    · simp [hparts.2.1]
    · simp [hparts.2.2.2.2.2.2]
    · intro i
      rw [changeStage_items (Ev.of u) old new hold' i, ← stageItems_congr (s' := u) (s := s) hua hus]
      simp
  · refine hm.congr hua.symm huc.symm hus.symm ?_ ?_ ?_
    · simp [putAnswer, hst]
    · simp [putAnswer, hst]
    · simp [putAnswer, hst]
  · refine putAnswer_watches ?_
    have := hf .watch (by simp [hparts.2.2.2.2.2.1])
    simpa [SamePart] using this

/-- An event, no request, that changes a stage on a state it prepared without touching the tables. -/
theorem occurred_stage {s u : State} {e : Ev} {parts : List Part} {old new : AnchorRec} {extra : List Notice}
    (hst : e.st = ((Ev.of u).changeStage old new).st) (hd : e.dirty = ((Ev.of u).changeStage old new).dirty)
    (hn : e.notices = ((Ev.of u).changeStage old new).notices ++ extra) (hu : OnlyChanges parts s u)
    (hparts : .ports ∉ parts ∧ .recorder ∉ parts ∧ .anchors ∉ parts ∧ .cure ∉ parts ∧ .sections ∉ parts ∧ .watch ∉ parts ∧
      .permits ∉ parts)
    (hold : findAnchor s new.id = some old) (hsect : 1 ≤ new.id.sect) (hl : new.id.sect ≤ s.sections.length) :
    Occurred (stageItems s old new) (stageNotices s (commit e) old new ++ extra) (parts ++ [.anchors, .cure, .sections]) s
        (commit e) ∧
      StageMoved old new s (commit e) ∧ WatchFlagsSame s (commit e) := by
  have hua : u.anchors = s.anchors := hu .anchors hparts.2.2.1
  have huc : u.cure = s.cure := hu .cure hparts.2.2.2.1
  have hus : u.sections = s.sections := hu .sections hparts.2.2.2.2.1
  have hold' : findAnchor (Ev.of u).st new.id = some old := by simpa [findAnchor, hua] using hold
  have hm := changeStage_moved (Ev.of u) old new hold' hsect (by simpa [hus] using hl)
  have hf : OnlyChanges (parts ++ [.anchors, .cure, .sections]) s e.st := by
    rw [hst]
    exact hu.trans (changeStage_frame (Ev.of u) old new)
  have hno : e.notices = stageNotices s (commit e) old new ++ extra := by
    rw [hn, changeStage_notices (Ev.of u) old new (commit e) hold' (by simp [hst]),
      ← stageNotices_congr (s' := u) (s := s) hua hus]
    simp
  refine ⟨?_, ?_, ?_⟩
  · rw [← hno]
    refine (occurred_commit hd ?_ ?_ ?_ hf).congr ?_
    · exact hf .ports (by simp [hparts.1])
    · exact hf .recorder (by simp [hparts.2.1])
    · exact hf .permits (by simp [hparts.2.2.2.2.2.2])
    · intro i
      rw [changeStage_items (Ev.of u) old new hold' i, ← stageItems_congr (s' := u) (s := s) hua hus]
      simp
  · refine hm.congr hua.symm huc.symm hus.symm ?_ ?_ ?_ <;> simp [hst]
  · have := commit_watchFlags e
    have hw : e.st.watch = s.watch := hf .watch (by simp [hparts.2.2.2.2.2.1])
    unfold WatchFlagsSame at *
    simpa [hw] using this

end Sys2Proof.Machine
end

