-- ==== Sys2Proof/Laws/Touch.lean ====
section
/-! SUPPORT. Which parts of the state each command can touch at all: one list per command, and the proof that nothing else
changes. -/

namespace Sys2Proof.Machine

/-- The parts the owning block of a request can touch. -/
def reqTouches : ReqKind → List Part
  | .identify | .clearPortFlags => []
  | .readStatus | .readAnchor | .readSection | .readSession => [.freeIdx]
  | .tendonStart => [.rig, .meas, .anchors, .cure, .sections]
  | .tendonDone | .tendonWithdraw => [.rig, .anchors, .cure, .sections]
  | .injectStart => [.grout, .meas, .time, .anchors, .cure, .sections]
  | .injectEnd => [.grout, .anchors, .cure, .sections]
  | .stressOpen | .advance | .release | .stressAbort | .stopSession => stressParts
  | .defineAnchor | .setAnchorGeometry | .deleteAnchor => [.anchors]
  | .abandonAnchor | .retestAnchor => [.pool, .anchors, .cure, .sections]
  | .settleAnchor => [.pool, .freeIdx, .anchors, .cure, .sections]
  | .setHold | .releaseHold | .setSection => [.sections]
  | .openZone | .closeZone | .watchConfigure => [.config]
  | .reportDeflection => watchParts
  | .setClock => [.clock]
  | .setParameter => [.config, .sections]
  | .setCalibration => [.meas, .config]
  | .writeStep | .setScheduleHead => [.schedule, .results]
  | .watchThreshold | .watchDisable | .watchRearm => [.config, .watch]
  | .watchEnable => [.watch]
  | .restart => []

/-- A reply of an owning block that touches parts, leaves the rest of the request to the port unit. -/
theorem take_touches {k : ReqKind} {p : Port} {pl : List Byte} {s t : State} {body : State → Reply} {parts : List Part}
    (hb : ∀ u, OnlyChanges (.ports :: .recorder :: parts) u (body u).ev.st) (h : take k p pl body s = .next t) :
    OnlyChanges (parts ++ endParts) s t := by
  simp only [take, takeEvent] at h
  split at h
  · simp only [occurs, Host.Outcome.next.injEq] at h
    subst h
    have hd : OnlyChanges (.ports :: .recorder :: parts) s (decide_ k p pl body (takeFrame s p)).ev.st := by
      unfold decide_
      split_ifs
      · exact ((takeFrame_frame s p).trans (hb _)).mono (by simp)
      · exact ((takeFrame_frame s p).trans (setFlags_frame _ p _)).mono (by simp)
      · exact ((takeFrame_frame s p).trans (setFlags_frame _ p _)).mono (by simp)
    exact (putAnswer_frame (parts := .recorder :: parts) hd).mono (by simp)
  · simp only [occurs, Host.Outcome.next.injEq] at h
    subst h
    exact OnlyChanges.refl _ _

theorem occurs_touches {s t : State} {e : Option Ev} {parts : List Part}
    (he : ∀ x, e = some x → OnlyChanges parts s x.st) (h : occurs e s = .next t) :
    OnlyChanges (parts ++ endParts) s t := by
  cases e with
  | none =>
    simp only [occurs, Host.Outcome.next.injEq] at h
    subst h
    exact OnlyChanges.refl _ _
  | some x =>
    simp only [occurs, Host.Outcome.next.injEq] at h
    subst h
    exact commit_frame x s parts (he x rfl)

theorem restartReply_frame (s : State) : OnlyChanges [.ports, .recorder] s (restartReply s).ev.st := by
  unfold restartReply
  split_ifs
  · exact OnlyChanges.refl _ _
  all_goals
    intro x hx
    cases x <;> simp_all [SamePart, drain, Ev.of]

theorem readReply_frame (s : State) (c : ReadContent) : OnlyChanges [.freeIdx] s (readReply s c).ev.st := by
  intro x hx
  cases x <;> simp_all [SamePart, readReply, Ev.of]

theorem clearPortFlagsReply_frame (p : Port) (pl : List Byte) (s : State) :
    OnlyChanges [.ports] s (clearPortFlagsReply p pl s).ev.st := by
  unfold clearPortFlagsReply
  split
  · exact OnlyChanges.refl _ _
  · split_ifs
    · exact setFlags_frame _ _ _
    · exact setFlags_frame _ _ _

/-- A taken request touches the ports, the write list and what its owning block can touch. -/
theorem request_touches (k : ReqKind) (p : Port) (pl : List Byte) (s t : State)
    (h : exec (requestOf k p pl) s = .next t) : OnlyChanges (reqTouches k ++ endParts) s t := by
  have hm : ∀ {parts : List Part} {u v : State}, OnlyChanges parts u v → OnlyChanges (.ports :: .recorder :: parts) u v :=
    fun g => g.mono (by simp)
  have hr : ∀ {parts : List Part} (u : State), OnlyChanges parts u u := fun u => OnlyChanges.refl _ u
  cases k
  case identify => exact take_touches (fun u => hr u) h
  case readStatus =>
    refine take_touches (fun u => hm ?_) h
    unfold readStatusReply
    split_ifs
    · exact hr u
    · exact readReply_frame _ _
    · exact readReply_frame _ _
  case readAnchor =>
    refine take_touches (fun u => hm ?_) h
    unfold readAnchorReply
    split
    · exact hr u
    · exact readReply_frame _ _
  case readSection =>
    refine take_touches (fun u => hm ?_) h
    unfold readSectionReply
    split
    · exact readReply_frame _ _
    · exact hr u
  case readSession =>
    refine take_touches (fun u => hm ?_) h
    unfold readSessionReply
    split
    · exact hr u
    · exact readReply_frame _ _
  case clearPortFlags => exact take_touches (fun u => (clearPortFlagsReply_frame p pl u).mono (by simp)) h
  case tendonStart => exact take_touches (fun u => hm (tendonStartReply_frame pl u)) h
  case tendonDone => exact take_touches (fun u => hm (tendonDoneReply_frame pl u)) h
  case tendonWithdraw => exact take_touches (fun u => hm (tendonWithdrawReply_frame pl u)) h
  case injectStart => exact take_touches (fun u => hm (injectStartReply_frame pl u)) h
  case injectEnd => exact take_touches (fun u => hm (injectEndReply_frame pl u)) h
  case stressOpen => exact take_touches (fun u => hm (stressOpenReply_frame pl u)) h
  case advance => exact take_touches (fun u => hm (advanceReply_frame u)) h
  case release => exact take_touches (fun u => hm (releaseReply_frame u)) h
  case stressAbort => exact take_touches (fun u => hm (interruptReply_frame .abort u)) h
  case stopSession => exact take_touches (fun u => hm (interruptReply_frame .stop u)) h
  case defineAnchor => exact take_touches (fun u => hm (defineAnchorReply_frame pl u)) h
  case setAnchorGeometry => exact take_touches (fun u => hm (setAnchorGeometryReply_frame pl u)) h
  case deleteAnchor => exact take_touches (fun u => hm (deleteAnchorReply_frame pl u)) h
  case abandonAnchor => exact take_touches (fun u => hm (abandonAnchorReply_frame pl u)) h
  case retestAnchor => exact take_touches (fun u => hm (retestAnchorReply_frame pl u)) h
  case settleAnchor => exact take_touches (fun u => hm (settleAnchorReply_frame pl u)) h
  case setHold => exact take_touches (fun u => hm (setHoldReply_frame pl u)) h
  case releaseHold => exact take_touches (fun u => hm (releaseHoldReply_frame pl u)) h
  case openZone => exact take_touches (fun u => hm (setZoneReply_frame true pl u)) h
  case closeZone => exact take_touches (fun u => hm (setZoneReply_frame false pl u)) h
  case reportDeflection => exact take_touches (fun u => hm (reportDeflectionReply_frame pl u)) h
  case setSection => exact take_touches (fun u => hm (setSectionReply_frame pl u)) h
  case setClock => exact take_touches (fun u => hm (setClockReply_frame pl u)) h
  case setParameter => exact take_touches (fun u => hm (setParameterReply_frame pl u)) h
  case setCalibration => exact take_touches (fun u => hm (setCalibrationReply_frame pl u)) h
  case writeStep => exact take_touches (fun u => hm (writeStepReply_frame pl u)) h
  case setScheduleHead => exact take_touches (fun u => hm (setScheduleHeadReply_frame pl u)) h
  case watchConfigure => exact take_touches (fun u => hm (watchConfigureReply_frame pl u)) h
  case watchThreshold => exact take_touches (fun u => hm (watchThresholdReply_frame pl u)) h
  case watchEnable => exact take_touches (fun u => hm (watchEnableReply_frame pl u)) h
  case watchDisable => exact take_touches (fun u => hm (watchDisableReply_frame pl u)) h
  case watchRearm => exact take_touches (fun u => hm (watchRearmReply_frame pl u)) h
  case restart => exact take_touches (fun u => (restartReply_frame u).mono (by simp)) h

/-! ## Events that are no requests -/

/-- The parts a command that is no request and no reset can touch, beside those every event can. -/
def eventTouches : Instr → List Part
  | .sampleSet _ | .notReadyCleared _ _ | .faultCleared _ _ | .rigLimitLatchSet _ | .groutLimitLatchSet _ _
  | .refusalReached _ _ | .holdPointReading _ | .holdVoid _ | .powerWarningCleared _ => sampleParts
  | .watchStepTrip _ _ | .watchActionTrip _ _ => sampleParts
  | .chainLapse => [.watch]
  | .riseOverEvaluation => [.time, .watch, .sections]
  | .flowRateUpdate => [.meas, .time, .watch, .sections]
  | .passEntryRefresh _ => [.time, .anchors]
  | .sectionStale _ => [.sections]
  | .worksClockSecond | .clockMarkDue => [.clock]
  | .cureExpiry => [.anchors, .cure, .sections]
  | .winchEncStep _ | .flowPulse _ | .valveChanged _ _ => [.meas]
  | .powerWarningRaised _ => [.supply, .recorder]
  | .itemWriteBegin => [.recorder]
  | .itemWriteComplete | .warningMarkWritten | .resetCauseWritten => [.store, .recorder]
  | _ => []

theorem sampleIn_touches {x : SampleIn} {s t : State} {f : Ev → Bool} (h : occurs (sampleIn x s f) s = .next t) :
    OnlyChanges (sampleParts ++ endParts) s t := by
  refine occurs_touches (fun e he => ?_) h
  unfold sampleIn at he
  split at he
  · cases he; exact sampleEvent_frame x s
  · cases he

theorem tripIn_touches {w : WatchId} {b : Bool} {tr : Trigger} {s t : State}
    (h : occurs (tripIn w b tr s) s = .next t) : OnlyChanges (sampleParts ++ endParts) s t := by
  have key : ∀ e, triggerEvent tr s = some e → OnlyChanges (.ports :: sampleParts) s e.st := by
    intro e he
    cases tr
    · cases he; exact (sampleEvent_frame _ s).mono (by simp)
    · exact (flowRateEvent_frame s e he).mono (by simp)
    · rename_i p pl
      simp only [triggerEvent, takeEvent] at he
      split at he
      · cases he
        have h1 : OnlyChanges (.ports :: watchParts) s
            (decide_ .reportDeflection p pl (reportDeflectionReply pl) (takeFrame s p)).ev.st := by
          unfold decide_
          split_ifs
          · exact ((takeFrame_frame s p).trans (reportDeflectionReply_frame pl _)).mono (by simp)
          · exact ((takeFrame_frame s p).trans (setFlags_frame _ p _)).mono (by simp)
          · exact ((takeFrame_frame s p).trans (setFlags_frame _ p _)).mono (by simp)
        intro x hx
        have := h1 x (by simp only [List.mem_cons, List.not_mem_nil, or_false, not_or] at hx ⊢; tauto)
        simp only [putAnswer]
        cases x <;> simp_all [SamePart]
      · cases he
    · exact (riseEvent_frame s e he).mono (by simp)
  refine (occurs_touches (parts := .ports :: sampleParts) (fun e he => ?_) h).mono (by simp)
  unfold tripIn at he
  split at he
  · cases he
  · split at he
    · cases he; exact key _ ‹_›
    · cases he

theorem raiseWarning_frame (s : State) : OnlyChanges [.supply, .recorder] s (raiseWarning s) := by
  intro x hx
  cases x <;> simp_all [SamePart]

/-- A command that is no request and no reset touches what its list says. -/
theorem event_touches (c : Instr) (s t : State) (hq : ∀ k p pl, c ≠ requestOf k p pl) (hr : ¬ IsReset c)
    (h : exec c s = .next t) : OnlyChanges (eventTouches c ++ endParts) s t := by
  have hn : ∀ {u v : State}, (Host.Outcome.next u : Host.Outcome State Fault Refusal) = .next v → u = v := by
    intro u v e; cases e; rfl
  cases c
  case identify p pl => exact absurd rfl (hq .identify p pl)
  case readStatus p pl => exact absurd rfl (hq .readStatus p pl)
  case readAnchor p pl => exact absurd rfl (hq .readAnchor p pl)
  case readSection p pl => exact absurd rfl (hq .readSection p pl)
  case readSession p pl => exact absurd rfl (hq .readSession p pl)
  case clearPortFlags p pl => exact absurd rfl (hq .clearPortFlags p pl)
  case tendonStart p pl => exact absurd rfl (hq .tendonStart p pl)
  case tendonDone p pl => exact absurd rfl (hq .tendonDone p pl)
  case tendonWithdraw p pl => exact absurd rfl (hq .tendonWithdraw p pl)
  case injectStart p pl => exact absurd rfl (hq .injectStart p pl)
  case injectEnd p pl => exact absurd rfl (hq .injectEnd p pl)
  case stressOpen p pl => exact absurd rfl (hq .stressOpen p pl)
  case advance p pl => exact absurd rfl (hq .advance p pl)
  case release p pl => exact absurd rfl (hq .release p pl)
  case stressAbort p pl => exact absurd rfl (hq .stressAbort p pl)
  case stopSession p pl => exact absurd rfl (hq .stopSession p pl)
  case defineAnchor p pl => exact absurd rfl (hq .defineAnchor p pl)
  case setAnchorGeometry p pl => exact absurd rfl (hq .setAnchorGeometry p pl)
  case deleteAnchor p pl => exact absurd rfl (hq .deleteAnchor p pl)
  case abandonAnchor p pl => exact absurd rfl (hq .abandonAnchor p pl)
  case retestAnchor p pl => exact absurd rfl (hq .retestAnchor p pl)
  case settleAnchor p pl => exact absurd rfl (hq .settleAnchor p pl)
  case setHold p pl => exact absurd rfl (hq .setHold p pl)
  case releaseHold p pl => exact absurd rfl (hq .releaseHold p pl)
  case openZone p pl => exact absurd rfl (hq .openZone p pl)
  case closeZone p pl => exact absurd rfl (hq .closeZone p pl)
  case reportDeflection p pl => exact absurd rfl (hq .reportDeflection p pl)
  case setClock p pl => exact absurd rfl (hq .setClock p pl)
  case setParameter p pl => exact absurd rfl (hq .setParameter p pl)
  case setSection p pl => exact absurd rfl (hq .setSection p pl)
  case setCalibration p pl => exact absurd rfl (hq .setCalibration p pl)
  case writeStep p pl => exact absurd rfl (hq .writeStep p pl)
  case setScheduleHead p pl => exact absurd rfl (hq .setScheduleHead p pl)
  case watchConfigure p pl => exact absurd rfl (hq .watchConfigure p pl)
  case watchThreshold p pl => exact absurd rfl (hq .watchThreshold p pl)
  case watchEnable p pl => exact absurd rfl (hq .watchEnable p pl)
  case watchDisable p pl => exact absurd rfl (hq .watchDisable p pl)
  case watchRearm p pl => exact absurd rfl (hq .watchRearm p pl)
  case restart p pl => exact absurd rfl (hq .restart p pl)
  case powerOnReset => exact absurd (.inl rfl) hr
  case resetLineReset => exact absurd (.inr (.inl rfl)) hr
  case restartReset => exact absurd (.inr (.inr rfl)) hr
  case sampleSet x =>
    have := hn h
    subst this
    exact commit_frame _ s _ (sampleEvent_frame x s)
  case notReadyCleared => exact sampleIn_touches h
  case faultCleared => exact sampleIn_touches h
  case rigLimitLatchSet => exact sampleIn_touches h
  case groutLimitLatchSet => exact sampleIn_touches h
  case refusalReached => exact sampleIn_touches h
  case holdPointReading => exact sampleIn_touches h
  case holdVoid => exact sampleIn_touches h
  case powerWarningCleared => exact sampleIn_touches h
  case watchStepTrip => exact tripIn_touches h
  case watchActionTrip => exact tripIn_touches h
  case chainLapse => exact occurs_touches (fun e he => chainLapseEvent_frame s e he) h
  case riseOverEvaluation => exact occurs_touches (fun e he => riseEvent_frame s e he) h
  case flowRateUpdate => exact occurs_touches (fun e he => flowRateEvent_frame s e he) h
  case passEntryRefresh l => exact occurs_touches (fun e he => refreshEvent_frame l s e he) h
  case cureExpiry => exact occurs_touches (fun e he => cureExpiryEvent_frame s e he) h
  case clockMarkDue =>
    refine occurs_touches (fun e he => ?_) h
    unfold clockMarkEvent at he
    split at he
    · cases he
      intro x hx
      cases x <;> simp_all [SamePart, eventTouches]
    · cases he
  case powerWarningRaised v =>
    refine occurs_touches (fun e he => ?_) h
    unfold powerWarningEvent at he
    split at he
    · cases he; exact raiseWarning_frame s
    · cases he
  case resetCauseWritten =>
    refine (occurs_touches (parts := [.store, .recorder, .ports]) (fun e he => ?_) h).mono (by simp [eventTouches])
    unfold causeWrittenEvent at he
    split at he
    · cases he
      intro x hx
      cases x <;> simp_all [SamePart]
    · cases he
  case unknownRequestTaken p k pl =>
    refine (occurs_touches (parts := [.ports]) (fun e he => ?_) h).mono (by simp)
    unfold unknownEvent at he
    split at he
    · cases he
    · split at he
      · cases he
        intro x hx
        cases x <;> simp_all [SamePart, putAnswer, refuse, Ev.of, setFlags]
      · cases he
  case frameReceived p f =>
    have := hn h
    subst this
    intro x hx
    cases x <;> simp_all [SamePart]
  case frameSent p =>
    have := hn h
    subst this
    intro x hx
    cases x <;> simp_all [SamePart]
  case busOffEntered p =>
    refine (occurs_touches (parts := [.ports]) (fun e he => ?_) h).mono (by simp)
    unfold busOffEvent at he
    split at he
    · cases he
      intro x hx
      cases x <;> simp_all [SamePart]
    · cases he
  case busOffRecovered p =>
    refine (occurs_touches (parts := [.ports]) (fun e he => ?_) h).mono (by simp)
    unfold rejoinEvent at he
    split at he
    · cases he
      intro x hx
      cases x <;> simp_all [SamePart]
    · cases he
  case sectionStale n =>
    have := hn h
    subst this
    split
    · intro x hx
      cases x <;> simp_all [SamePart, eventTouches]
    · exact OnlyChanges.refl _ _
  case worksClockSecond =>
    simp only [exec, execWorksClockSecond] at h
    split at h
    · have := hn h; subst this; exact OnlyChanges.refl _ _
    · have := hn h
      subst this
      split
      · intro x hx
        cases x <;> simp_all [SamePart, eventTouches]
      · exact OnlyChanges.refl _ _
  case winchEncStep d =>
    have := hn h
    subst this
    intro x hx
    cases x <;> simp_all [SamePart, eventTouches]
  case flowPulse l =>
    have := hn h
    subst this
    split
    · intro x hx
      cases x <;> simp_all [SamePart, eventTouches]
    · exact OnlyChanges.refl _ _
  case valveChanged l b =>
    have := hn h
    subst this
    intro x hx
    cases x <;> simp_all [SamePart, eventTouches]
  case itemWriteBegin =>
    have := hn h
    subst this
    split
    · exact OnlyChanges.refl _ _
    · split
      · intro x hx
        cases x <;> simp_all [SamePart, eventTouches, beginWrite]
      · exact OnlyChanges.refl _ _
  case itemWriteComplete =>
    simp only [exec, execItemWriteComplete] at h
    split at h
    · have := hn h
      subst this
      intro x hx
      cases x <;> simp_all [SamePart, eventTouches]
    · have := hn h; subst this; exact OnlyChanges.refl _ _
  case warningMarkWritten =>
    have := hn h
    subst this
    split
    · intro x hx
      cases x <;> simp_all [SamePart, eventTouches]
    · exact OnlyChanges.refl _ _

end Sys2Proof.Machine
end

