-- ==== Sys2Proof/Laws/Agreement.lean ====
section
/-! SUPPORT. What each operation does to the agreement of the tables: the anchor table and its identity order, the cure
list, the hold records and the locked-off counts, and their recovery at a reset. -/

namespace Sys2Proof.Machine

/-- What the size of the tables gives every lemma here: 64 sections of 8 counts, identities in their ranges. -/
structure TablesInShape (s : State) : Prop where
  len : s.sections.length = 64
  eight : ∀ r ∈ s.sections, r.data.counts.length = 8
  ids : ∀ r ∈ s.anchors, IdInRange r.id

theorem TablesSized.inShape {s : State} (h : TablesSized s) : TablesInShape s :=
  ⟨h.1, h.2.1, h.2.2.2.2.2.2.2.2.1⟩

theorem before_trans {a b c : AnchorId} (h : a.before b = true) (g : b.before c = true) : a.before c = true := by
  unfold AnchorId.before at *; simp only [Bool.or_eq_true, Bool.and_eq_true, decide_eq_true_eq] at *; omega

theorem before_irrefl (a : AnchorId) : a.before a = false := by
  unfold AnchorId.before; simp

theorem before_total {a b : AnchorId} (h : a ≠ b) : a.before b = true ∨ b.before a = true := by
  unfold AnchorId.before; simp only [Bool.or_eq_true, Bool.and_eq_true, decide_eq_true_eq]
  by_contra hc
  apply h
  cases a; cases b; simp_all; omega

theorem ordered_nodup {l : List AnchorRec} (h : AnchorsOrdered l) : (l.map (·.id)).Nodup := by
  rw [List.Nodup, List.pairwise_map]
  refine h.imp fun {a b} hab he => ?_
  rw [he, before_irrefl] at hab; cases hab

theorem find_of_mem {l : List AnchorRec} (h : (l.map (·.id)).Nodup) {r} (hr : r ∈ l) :
    l.find? (fun x => x.id = r.id) = some r := by
  induction l with
  | nil => cases hr
  | cons x rest ih =>
    simp only [List.map_cons, List.nodup_cons] at h
    rcases List.mem_cons.1 hr with rfl | hr
    · simp
    · have : x.id ≠ r.id := fun he => h.1 (by rw [he]; exact List.mem_map_of_mem (f := (·.id)) hr)
      simp [this, ih h.2 hr]

theorem findAnchor_mem_iff {s : State} (h : AnchorsOrdered s.anchors) (r : AnchorRec) : r ∈ s.anchors ↔
    findAnchor s r.id = some r :=
  ⟨fun hr => find_of_mem (ordered_nodup h) hr, fun hf => List.mem_of_find?_eq_some hf⟩

theorem replace_ids (l : List AnchorRec) (new : AnchorRec) : (replaceAnchor l new).map (·.id) = l.map (·.id) := by
  unfold replaceAnchor
  rw [List.map_map]
  apply List.map_congr_left
  intro x _
  simp only [Function.comp]
  split
  · rename_i h; exact h.symm
  · rfl

theorem ordered_iff (l : List AnchorRec) : AnchorsOrdered l ↔
    (l.map (·.id)).Pairwise (fun a b => a.before b = true) := by
  unfold AnchorsOrdered; rw [List.pairwise_map]

theorem replace_ordered {l : List AnchorRec} (new) (h : AnchorsOrdered l) : AnchorsOrdered (replaceAnchor l new) := by
  rw [ordered_iff, replace_ids, ← ordered_iff]; exact h

theorem mem_replace {l : List AnchorRec} (hn : (l.map (·.id)).Nodup) {old new : AnchorRec}
    (ho : l.find? (fun x => x.id = new.id) = some old) (q : AnchorRec) : q ∈ replaceAnchor l new ↔ q = new ∨
    (q ∈ l ∧ q.id ≠ new.id) := by
  unfold replaceAnchor
  simp only [List.mem_map]
  have hmem := List.mem_of_find?_eq_some ho
  have hid : old.id = new.id := by simpa using List.find?_some ho
  constructor
  · rintro ⟨x, hx, rfl⟩
    split
    · exact .inl rfl
    · exact .inr ⟨hx, by assumption⟩
  · rintro (rfl | ⟨hq, hne⟩)
    · exact ⟨old, hmem, by simp [hid]⟩
    · exact ⟨q, hq, by simp [hne]⟩

/-- Counting under replacement. -/
theorem count_replace {l : List AnchorRec} (hn : (l.map (·.id)).Nodup) {old new : AnchorRec}
    (ho : l.find? (fun x => x.id = new.id) = some old) (p : AnchorRec → Bool) :
    ((replaceAnchor l new).filter p).length + (if p old then 1 else 0) =
    (l.filter p).length + (if p new then 1 else 0) := by
  induction l with
  | nil => simp at ho
  | cons x rest ih =>
    simp only [List.map_cons, List.nodup_cons] at hn
    by_cases hx : x.id = new.id
    · have : x = old := by simpa [hx] using ho
      subst this
      have hrest : replaceAnchor rest new = rest := by
        unfold replaceAnchor
        conv_rhs => rw [← List.map_id rest]
        apply List.map_congr_left
        intro y hy
        have : y.id ≠ new.id := fun he => hn.1 (by rw [hx, ← he]; exact List.mem_map_of_mem (f := (·.id)) hy)
        simp [this]
      have h1 : replaceAnchor (x :: rest) new = new :: rest := by
        have := hrest
        unfold replaceAnchor at this ⊢
        simp [hx, this]
      rw [h1]
      simp only [List.filter_cons]
      split_ifs <;> simp_all
    · have ho' : rest.find? (fun y => y.id = new.id) = some old := by simpa [hx] using ho
      have h1 : replaceAnchor (x :: rest) new = x :: replaceAnchor rest new := by
        unfold replaceAnchor; simp [hx]
      rw [h1]
      have := ih hn.2 ho'
      simp only [List.filter_cons]
      split_ifs <;> simp_all

/-! ## Cure list -/
theorem keyLe_total (a b : List Nat) : keyLe a b = true ∨ keyLe b a = true := by
  induction a generalizing b with
  | nil => simp [keyLe]
  | cons x xs ih =>
    cases b with
    | nil => simp [keyLe]
    | cons y ys =>
      simp only [keyLe, Bool.or_eq_true, Bool.and_eq_true, decide_eq_true_eq]
      rcases ih ys with h | h <;> rcases Nat.lt_trichotomy x y with h' | h' | h' <;> simp [h', h]

theorem keyLe_trans {a b c : List Nat} (h : keyLe a b = true) (g : keyLe b c = true) : keyLe a c = true := by
  induction a generalizing b c with
  | nil => simp [keyLe]
  | cons x xs ih =>
    cases b with
    | nil => simp [keyLe] at h
    | cons y ys =>
      cases c with
      | nil => simp [keyLe] at g
      | cons z zs =>
        simp only [keyLe, Bool.or_eq_true, Bool.and_eq_true, decide_eq_true_eq] at *
        rcases h with h | ⟨h, h'⟩ <;> rcases g with g | ⟨g, g'⟩
        · left; omega
        · left; omega
        · left; omega
        · right; exact ⟨by omega, ih h' g'⟩

theorem insertByKey_sorted {α} (key : α → List Nat) (x : α) (l : List α)
    (h : l.Pairwise fun a b => keyLe (key a) (key b) = true) :
    (insertByKey key x l).Pairwise fun a b => keyLe (key a) (key b) = true := by
  induction l with
  | nil => simp [insertByKey]
  | cons y rest ih =>
    simp only [insertByKey]
    rw [List.pairwise_cons] at h
    split
    · rename_i hk
      rw [List.pairwise_cons]
      refine ⟨fun z hz => ?_, ih h.2⟩
      rcases (mem_insertByKey ..).1 hz with rfl | hz
      · exact hk
      · exact h.1 z hz
    · rename_i hk
      have hxy : keyLe (key x) (key y) = true := (keyLe_total _ _).resolve_right hk
      rw [List.pairwise_cons, List.pairwise_cons]
      refine ⟨fun z hz => ?_, h⟩
      rcases List.mem_cons.1 hz with rfl | hz
      · exact hxy
      · exact keyLe_trans hxy (h.1 z hz)

theorem insertByKey_perm {α} (key : α → List Nat) (x : α) (l : List α) : (insertByKey key x l).Perm (x :: l) := by
  induction l with
  | nil => exact .refl _
  | cons y rest ih =>
    simp only [insertByKey]
    split
    · exact (ih.cons y).trans (.swap x y rest)
    · exact .refl _

/-- A change of stage keeps the cure list. -/
theorem movedCure_sound {s : State} (hs : CureSound s) (ho : AnchorsOrdered s.anchors) {old new : AnchorRec}
    (hf : findAnchor s new.id = some old) {t : State} (ha : t.anchors = replaceAnchor s.anchors new)
    (hc : t.cure = movedCure old new s.cure) : CureSound t := by
  have hmem := fun q => mem_replace (ordered_nodup ho) hf q
  have hid : old.id = new.id := findAnchor_id hf
  have hold : old ∈ s.anchors := List.mem_of_find?_eq_some hf
  obtain ⟨h1, h2, h3⟩ := hs
  have hleft : ∀ c : CureEntry, c ∈ (if old.stage = .curing then s.cure.filter fun c => c.id ≠ new.id else s.cure) ↔
      ∃ r ∈ s.anchors, r.id = c.id ∧ r.stage = .curing ∧ r.cureDue.getD 0 = c.due ∧ r.id ≠ new.id := by
    intro c
    have huniq : ∀ r ∈ s.anchors, r.id = new.id → r = old := by
      intro r hr he
      have h5 := find_of_mem (ordered_nodup ho) hr
      rw [he] at h5
      unfold findAnchor at hf
      rw [hf] at h5
      cases h5; rfl
    split
    · simp only [List.mem_filter, ne_eq, decide_eq_true_eq, h3]
      constructor
      · rintro ⟨⟨r, hr, e1, e2, e3⟩, hne⟩
        exact ⟨r, hr, e1, e2, e3, e1 ▸ hne⟩
      · rintro ⟨r, hr, e1, e2, e3, hne⟩
        exact ⟨⟨r, hr, e1, e2, e3⟩, e1 ▸ hne⟩
    · rename_i hst
      rw [h3]
      constructor
      · rintro ⟨r, hr, e1, e2, e3⟩
        exact ⟨r, hr, e1, e2, e3, fun he => hst (huniq r hr he ▸ e2)⟩
      · rintro ⟨r, hr, e1, e2, e3, _⟩
        exact ⟨r, hr, e1, e2, e3⟩
  have hsort : (if old.stage = .curing then s.cure.filter fun c => c.id ≠ new.id else s.cure).Pairwise (fun a b =>
      keyLe a.key b.key = true) := by
    split
    · exact h1.filter _
    · exact h1
  have hnod : ((if old.stage = .curing then s.cure.filter fun c => c.id ≠ new.id else s.cure).map (·.id)).Nodup := by
    split
    · exact h2.sublist ((List.filter_sublist).map _)
    · exact h2
  unfold movedCure at hc
  simp only at hc
  generalize (if old.stage = .curing then s.cure.filter fun c => c.id ≠ new.id else s.cure) =
      left at hc hleft hsort hnod
  unfold CureSound
  rw [ha, hc]
  by_cases hn : new.stage = .curing
  · rw [if_pos hn]
    have hp := insertByKey_perm CureEntry.key { due := new.cureDue.getD 0, id := new.id } left
    refine ⟨insertByKey_sorted _ _ _ hsort, ?_, fun c => ?_⟩
    · have := (hp.map (·.id)).nodup_iff
      unfold joinCure
      rw [this]
      simp only [List.map_cons, List.nodup_cons]
      refine ⟨?_, hnod⟩
      intro hm
      obtain ⟨c, hc1, hc2⟩ := List.mem_map.1 hm
      obtain ⟨r, hr, e1, e2, e3, e4⟩ := (hleft c).1 hc1
      exact e4 (e1.trans hc2)
    · unfold joinCure
      rw [hp.mem_iff, List.mem_cons, hleft]
      constructor
      · rintro (rfl | ⟨r, hr, e1, e2, e3, e4⟩)
        · exact ⟨new, (hmem new).2 (.inl rfl), rfl, hn, rfl⟩
        · exact ⟨r, (hmem r).2 (.inr ⟨hr, e4⟩), e1, e2, e3⟩
      · rintro ⟨r, hr, e1, e2, e3⟩
        rcases (hmem r).1 hr with rfl | ⟨hr', hne⟩
        · left; cases c; simp_all
        · exact .inr ⟨r, hr', e1, e2, e3, hne⟩
  · rw [if_neg hn]
    refine ⟨hsort, hnod, fun c => ?_⟩
    rw [hleft]
    constructor
    · rintro ⟨r, hr, e1, e2, e3, e4⟩
      exact ⟨r, (hmem r).2 (.inr ⟨hr, e4⟩), e1, e2, e3⟩
    · rintro ⟨r, hr, e1, e2, e3⟩
      rcases (hmem r).1 hr with rfl | ⟨hr', hne⟩
      · exact absurd e2 hn
      · exact ⟨r, hr', e1, e2, e3, hne⟩

/-! ## Holds -/
theorem putHold_rising {l : List Hold} (h : HoldsRising l) (x : Hold) : HoldsRising (putHold l x) := by
  unfold putHold HoldsRising at *
  have hl := h.filter (fun y => decide (y.source ≠ x.source))
  have hne : ∀ y ∈ l.filter (fun y => decide (y.source ≠ x.source)), y.source ≠ x.source := by
    intro y hy; simpa using (List.mem_filter.1 hy).2
  generalize l.filter (fun y => decide (y.source ≠ x.source)) = m at hl hne
  have hrank : ∀ a b : HoldSource, sourceRank a = sourceRank b → a = b := by
    intro a b; cases a <;> cases b <;> decide
  induction m with
  | nil => simp [insertByKey]
  | cons y rest ih =>
    rw [List.pairwise_cons] at hl
    have hy := hne y (by simp)
    simp only [insertByKey]
    split
    · rename_i hk
      have hlt : sourceRank y.source < sourceRank x.source := by
        have hle : sourceRank y.source < sourceRank x.source ∨ sourceRank y.source = sourceRank
            x.source := by simpa [keyLe] using hk
        have hne' : sourceRank y.source ≠ sourceRank x.source := fun he => hy (hrank _ _ he)
        omega
      rw [List.pairwise_cons]
      refine ⟨fun z hz => ?_, ih hl.2 fun z hz => hne z (by simp [hz])⟩
      rcases (mem_insertByKey ..).1 hz with rfl | hz
      · exact hlt
      · exact hl.1 z hz
    · rename_i hk
      have hlt : sourceRank x.source < sourceRank y.source := by
        by_contra hc
        apply hk
        have : sourceRank y.source < sourceRank x.source ∨ sourceRank y.source = sourceRank x.source := by omega
        simpa [keyLe] using this
      rw [List.pairwise_cons, List.pairwise_cons]
      refine ⟨fun z hz => ?_, hl⟩
      rcases List.mem_cons.1 hz with rfl | hz
      · exact hlt
      · exact Nat.lt_trans hlt (hl.1 z hz)

theorem changeSection_holds (e : Ev) (n : Nat) (f : SectionData → SectionData)
    (hf : ∀ d, HoldsRising d.holds → HoldsRising (f d).holds) (h : ∀ r ∈ e.st.sections, HoldsRising r.data.holds) :
    ∀ r ∈ (e.changeSection n f).st.sections, HoldsRising r.data.holds := by
  intro r hr
  simp only [Ev.changeSection, setSection, Ev.dirtied, Ev.mod] at hr
  rcases List.mem_or_eq_of_mem_set hr with hr | rfl
  · exact h r hr
  · apply hf
    unfold sectionRec
    by_cases hl : n - 1 < e.st.sections.length
    · rw [List.getD_eq_getElem?_getD, List.getElem?_eq_getElem hl]
      exact h _ (List.getElem_mem hl)
    · rw [List.getD_eq_getElem?_getD, List.getElem?_eq_none (by omega)]
      simp [SectionRec.default, SectionData.default, HoldsRising]

theorem changeSection_eight (e : Ev) (n : Nat) (f : SectionData → SectionData)
    (hf : ∀ d, d.counts.length = 8 → (f d).counts.length = 8) (h : ∀ r ∈ e.st.sections, r.data.counts.length = 8) :
    ∀ r ∈ (e.changeSection n f).st.sections, r.data.counts.length = 8 := by
  intro r hr
  simp only [Ev.changeSection, setSection, Ev.dirtied, Ev.mod] at hr
  rcases List.mem_or_eq_of_mem_set hr with hr | rfl
  · exact h r hr
  · apply hf
    unfold sectionRec
    by_cases hl : n - 1 < e.st.sections.length
    · rw [List.getD_eq_getElem?_getD, List.getElem?_eq_getElem hl]
      exact h _ (List.getElem_mem hl)
    · rw [List.getD_eq_getElem?_getD, List.getElem?_eq_none (by omega)]
      rfl

theorem changeSection_len (e : Ev) (n : Nat) (f : SectionData → SectionData) :
    (e.changeSection n f).st.sections.length = e.st.sections.length := by
  simp [Ev.changeSection, setSection, Ev.mod, Ev.dirtied]

/-- The tables have their shape and agree: what every operation keeps. -/
def TablesInOrder (s : State) : Prop := TablesInShape s ∧ TablesAgree s

theorem TablesInOrder.of_same {s t : State} (h1 : t.anchors = s.anchors) (h2 : t.cure = s.cure)
    (h3 : t.sections = s.sections) (h : TablesInOrder s) : TablesInOrder t := by
  obtain ⟨⟨a, b, c⟩, ⟨d, e, f, g⟩⟩ := h
  refine ⟨⟨h3 ▸ a, h3 ▸ b, h1 ▸ c⟩, ⟨h1 ▸ d, ?_, ?_, h3 ▸ g⟩⟩
  · unfold CureSound; rw [h1, h2]; exact e
  · unfold CountsExact lockedCount sectionRec; rw [h1, h3]; exact f

theorem TablesInOrder.of_frame {s t : State} {ps : List Part} (hf : OnlyChanges ps s t) (h1 : Part.anchors ∉ ps)
    (h2 : Part.cure ∉ ps) (h3 : Part.sections ∉ ps) (h : TablesInOrder s) : TablesInOrder t :=
  h.of_same (hf _ h1) (hf _ h2) (hf _ h3)

/-- Sections changed, data's counts kept. -/
theorem TablesInOrder.section {e : Ev} (n : Nat) (f : SectionData → SectionData) (hc : ∀ d, (f d).counts = d.counts)
    (hh : ∀ d, HoldsRising d.holds → HoldsRising (f d).holds) (h : TablesInOrder e.st) :
    TablesInOrder (e.changeSection n f).st := by
  obtain ⟨⟨a, b, c⟩, ⟨d, g, k, l⟩⟩ := h
  have hfr := changeSection_frame e n f
  refine ⟨⟨(changeSection_len e n f).trans a, changeSection_eight e n f (fun d hd => by rw [hc]; exact hd) b, ?_⟩,
      ⟨?_, ?_, ?_, changeSection_holds e n f hh l⟩⟩
  · rw [show (e.changeSection n f).st.anchors = e.st.anchors from rfl]; exact c
  · exact d
  · exact g
  · intro m tier h1 h2 h3 h4
    have := k m tier h1 h2 h3 h4
    rw [show (e.changeSection n f).st.anchors = e.st.anchors from rfl, ← this]
    unfold lockedCount sectionRec Ev.changeSection setSection
    simp only [Ev.dirtied_st, Ev.mod_st]
    by_cases hm : n - 1 = m - 1
    · have hlt : n - 1 < e.st.sections.length := by omega
      rw [← hm]
      have : (e.st.sections.set (n - 1)
          { data := f (sectionRec e.st n).data, age := (sectionRec e.st n).age, stale := (sectionRec e.st n).stale }).getD (n - 1) SectionRec.default = { data := f (sectionRec e.st n).data, age := (sectionRec e.st n).age, stale := (sectionRec e.st n).stale } := by
        rw [List.getD_eq_getElem?_getD, List.getElem?_set_self hlt]; rfl
      rw [this]
      simp only [hc]
      rfl
    · simp [hm]

theorem TablesInOrder.write {s : State} {r new : AnchorRec} (hf : findAnchor s new.id = some r) (h1 : new.stage =
    r.stage) (h2 : new.cureDue = r.cureDue)
    (h : TablesInOrder s) : TablesInOrder { s with anchors := replaceAnchor s.anchors new } := by
  obtain ⟨⟨a, b, c⟩, ⟨d, g, k, l⟩⟩ := h
  have hid : r.id = new.id := findAnchor_id hf
  have hmem := fun q => mem_replace (ordered_nodup d) hf q
  have hrm : r ∈ s.anchors := List.mem_of_find?_eq_some hf
  refine ⟨⟨a, b, ?_⟩, ⟨replace_ordered new d, ⟨g.1, g.2.1, fun c => ?_⟩, ?_, l⟩⟩
  · intro q hq
    rcases (hmem q).1 hq with rfl | ⟨hq, _⟩
    · exact hid ▸ c r hrm
    · exact c q hq
  · show c ∈ s.cure ↔ ∃ q ∈ replaceAnchor s.anchors new, _
    rw [g.2.2]
    constructor
    · rintro ⟨q, hq, e1, e2, e3⟩
      by_cases hqn : q.id = new.id
      · have h5 := find_of_mem (ordered_nodup d) hq
        rw [hqn] at h5; unfold findAnchor at hf; rw [hf] at h5; cases h5
        exact ⟨new, (hmem _).2 (.inl rfl), by rw [← hid]; exact e1, h1.trans e2, by rw [h2]; exact e3⟩
      · exact ⟨q, (hmem _).2 (.inr ⟨hq, hqn⟩), e1, e2, e3⟩
    · rintro ⟨q, hq, e1, e2, e3⟩
      rcases (hmem q).1 hq with rfl | ⟨hq, hne⟩
      · exact ⟨r, hrm, hid.trans e1, h1 ▸ e2, by rw [← h2]; exact e3⟩
      · exact ⟨q, hq, e1, e2, e3⟩
  · intro n tier m1 m2 m3 m4
    have h7 := count_replace (ordered_nodup d) hf (fun r => r.id.sect = n && r.id.tier = tier && r.stage = .lockedOff)
    have h8 := k n tier m1 m2 m3 m4
    show lockedCount s n tier = _
    rw [h8]
    simp only [hid, h1] at h7
    exact (Nat.add_right_cancel h7).symm

theorem TablesInOrder.writeAnchor {e : Ev} {r new : AnchorRec} (hf : findAnchor e.st new.id = some r)
    (h1 : new.stage = r.stage) (h2 : new.cureDue = r.cureDue) (h : TablesInOrder e.st) :
    TablesInOrder (e.writeAnchor new).st :=
  TablesInOrder.write hf h1 h2 h

theorem removeHold_inOrder {e : Ev} (n src) (h : TablesInOrder e.st) : TablesInOrder (e.removeHold n src).st := by
  unfold Ev.removeHold
  split
  · exact h.section n (fun d => { d with holds := d.holds.filter fun h => h.source ≠ src }) (fun _ => rfl) fun d
      hd => List.Pairwise.filter _ hd
  · exact h

theorem writeHold_inOrder {e : Ev} (n src lv re) (h : TablesInOrder e.st) :
    TablesInOrder (e.writeHold n src lv re).st :=
  h.section n (fun d =>
      { d with holds := putHold d.holds { source := src, level := lv, time := stampTime e.st, reason := re } }) (fun
      _ => rfl) fun d hd => putHold_rising hd _

theorem leftSuspect_inOrder {e : Ev} (n) (h : TablesInOrder e.st) : TablesInOrder (e.leftSuspect n).st := by
  unfold Ev.leftSuspect
  split
  · exact h
  · exact removeHold_inOrder _ _ h

/-- The holds part through changeStage. -/
theorem leftSuspect_holds (e : Ev) (n) (h : ∀ r ∈ e.st.sections, HoldsRising r.data.holds) :
    ∀ r ∈ (e.leftSuspect n).st.sections, HoldsRising r.data.holds := by
  unfold Ev.leftSuspect
  split
  · exact h
  · unfold Ev.removeHold
    split
    · exact changeSection_holds _ _ (fun d => { d with holds := d.holds.filter fun h => h.source ≠ .store }) (fun d
        hd => List.Pairwise.filter _ hd) h
    · exact h

theorem leftSuspect_sized (e : Ev) (n) (h1 : e.st.sections.length = 64)
    (h : ∀ r ∈ e.st.sections, r.data.counts.length = 8) : (e.leftSuspect n).st.sections.length = 64 ∧
    ∀ r ∈ (e.leftSuspect n).st.sections, r.data.counts.length = 8 := by
  unfold Ev.leftSuspect
  split
  · exact ⟨h1, h⟩
  · unfold Ev.removeHold
    split
    · exact ⟨(changeSection_len e n (fun d => { d with holds := d.holds.filter fun h => h.source ≠ .store })).trans
        h1, changeSection_eight _ _ (fun d => { d with holds := d.holds.filter fun h => h.source ≠ .store }) (fun d
        hd => hd) h⟩
    · exact ⟨h1, h⟩

/-- The section table has its shape and one record per source (R29, R34). -/
def SectionsInOrder (s : State) : Prop := s.sections.length = 64 ∧ (∀ r ∈ s.sections, r.data.counts.length = 8) ∧ ∀
    r ∈ s.sections, HoldsRising r.data.holds

theorem leftSuspect_ok (e : Ev) (n) (h : SectionsInOrder e.st) : SectionsInOrder (e.leftSuspect n).st :=
  ⟨(leftSuspect_sized e n h.1 h.2.1).1, (leftSuspect_sized e n h.1 h.2.1).2, leftSuspect_holds e n h.2.2⟩

theorem countLocked_ok (e : Ev) (a f) (h : SectionsInOrder e.st) : SectionsInOrder (e.countLocked a f).st :=
  ⟨(changeSection_len _ _ _).trans h.1, changeSection_eight _ _ _ (fun d hd => by simpa using hd) h.2.1,
      changeSection_holds _ _ _ (fun d hd => hd) h.2.2⟩

theorem changeStage_ok (e : Ev) (old new) (h : SectionsInOrder e.st) :
    SectionsInOrder (e.changeStage old new).st := by
  unfold Ev.changeStage
  simp only [Ev.raise_st]
  have h3 : ∃ e3 : Ev, (if new.stage = .curing then
      (if old.stage = .curing then (e.writeAnchor new).mod fun s => { s with cure := leaveCure new.id s.cure }
        else e.writeAnchor new).mod fun s =>
            { s with cure := joinCure { due := new.cureDue.getD 0, id := new.id } s.cure }
      else (if old.stage = .curing then (e.writeAnchor new).mod fun s => { s with cure := leaveCure new.id s.cure }
        else e.writeAnchor new)) = e3 ∧ SectionsInOrder e3.st := by
    refine ⟨_, rfl, ?_⟩; split_ifs <;> exact h
  obtain ⟨e3, he3, h3⟩ := h3
  rw [he3]
  have h4 : ∃ e4 : Ev, (if old.stage = .lockedOff then e3.countLocked new.id (· - 1) else e3) = e4 ∧ SectionsInOrder
      e4.st := by
    refine ⟨_, rfl, ?_⟩
    split
    · exact countLocked_ok _ _ _ h3
    · exact h3
  obtain ⟨e4, he4, h4⟩ := h4
  rw [he4]
  have h5 : ∃ e5 : Ev, (if new.stage = .lockedOff then e4.countLocked new.id (· + 1) else e4) = e5 ∧ SectionsInOrder
      e5.st := by
    refine ⟨_, rfl, ?_⟩
    split
    · exact countLocked_ok _ _ _ h4
    · exact h4
  obtain ⟨e5, he5, h5⟩ := h5
  rw [he5]
  split
  · exact leftSuspect_ok _ _ h5
  · exact h5

theorem changeStage_inOrder {e : Ev} {old new : AnchorRec} (hf : findAnchor e.st new.id = some old)
    (h : TablesInOrder e.st) : TablesInOrder (e.changeStage old new).st := by
  obtain ⟨⟨a, b, c⟩, ⟨d, g, k, l⟩⟩ := h
  have hid : old.id = new.id := findAnchor_id hf
  have hrm : old ∈ e.st.anchors := List.mem_of_find?_eq_some hf
  have hir : IdInRange new.id := hid ▸ c old hrm
  have hok := changeStage_ok e old new ⟨a, b, l⟩
  have hmv := changeStage_moved e old new hf hir.1.1 (by rw [a]; exact hir.1.2)
  have ha := changeStage_anchors e old new
  have hmem := fun q => mem_replace (ordered_nodup d) hf q
  refine ⟨⟨hok.1, hok.2.1, ?_⟩, ⟨by rw [ha]; exact replace_ordered new d, movedCure_sound g d hf ha hmv.cure, ?_,
      hok.2.2⟩⟩
  · rw [ha]
    intro q hq
    rcases (hmem q).1 hq with rfl | ⟨hq, _⟩
    · exact hir
    · exact c q hq
  · intro n tier m1 m2 m3 m4
    rw [ha]
    have h7 := count_replace (ordered_nodup d) hf (fun r => r.id.sect = n && r.id.tier = tier && r.stage = .lockedOff)
    have h8 := k n tier m1 m2 m3 m4
    simp only [hid] at h7
    by_cases hn : n = new.id.sect
    · subst hn
      unfold lockedCount at h8 ⊢
      rw [hmv.section_]
      have hcl : (sectionRec e.st new.id.sect).data.counts.length = 8 := by
        unfold sectionRec
        have hl : new.id.sect - 1 < e.st.sections.length := by omega
        rw [List.getD_eq_getElem?_getD, List.getElem?_eq_getElem hl]
        exact b _ (List.getElem_mem hl)
      unfold movedSection movedCounts
      simp only
      have hpos : old.stage = .lockedOff → tier = new.id.tier → 0 < (sectionRec e.st new.id.sect).data.counts.getD
          (tier - 1) 0 := by
        intro ho ht
        rw [h8]
        apply List.length_pos_of_mem (a := old)
        simp [hrm, hid, ho, ht]
      generalize (sectionRec e.st new.id.sect).data.counts = cs at h8 hcl hpos ⊢
      obtain ⟨_, ⟨ht1, ht2⟩, _⟩ := hir
      by_cases ht : tier = new.id.tier
      · subst ht
        have hlt : new.id.tier - 1 < cs.length := by omega
        by_cases h1 : old.stage = .lockedOff <;> by_cases h2 : new.stage = .lockedOff <;> simp [h1, h2,
            hlt] at h7 hpos h8 ⊢ <;> omega
      · have hne : new.id.tier - 1 ≠ tier - 1 := by omega
        have hne' : ¬ new.id.tier = tier := fun h => ht h.symm
        by_cases h1 : old.stage = .lockedOff <;> by_cases h2 : new.stage = .lockedOff <;> simp [h1, h2, hne,
            hne'] at h7 h8 ⊢ <;> omega
    · unfold lockedCount at h8 ⊢
      rw [hmv.sections n m1 hn, h8]
      have : ¬ new.id.sect = n := fun h => hn h.symm
      simp [this] at h7 ⊢
      exact h7.symm

theorem openTest_find' {s : State} {o : OpenTest} (h : openTest s = some o) : findAnchor s o.rec_.id = some o.rec_ ∧
    s.session = some o.sess ∧ o.rec_.id = o.sess.anchor ∧ o.rec_.result = some o.result := by
  unfold openTest at h
  split at h
  · cases h
  · rename_i x hx
    split at h
    · cases h
    · rename_i r hr
      cases hres : r.result with
      | none => rw [hres] at h; cases h
      | some t =>
        rw [hres] at h
        simp only [Option.map_some, Option.some.injEq] at h
        subst h
        have := findAnchor_id hr
        exact ⟨by rw [← this] at hr; exact hr, hx, this, hres⟩

theorem changeResult_inOrder (e : Ev) (f) (h : TablesInOrder e.st) : TablesInOrder (e.changeResult f).st := by
  unfold Ev.changeResult
  split
  · exact h
  · rename_i o ho
    have := openTest_find' ho
    exact TablesInOrder.writeAnchor (r := o.rec_) this.1 rfl rfl h

theorem changeSession_inOrder (e : Ev) (f) (h : TablesInOrder e.st) : TablesInOrder (e.changeSession f).st :=
  TablesInOrder.of_same (s := e.st) rfl rfl rfl h

theorem raise_inOrder {e : Ev} (n) (h : TablesInOrder e.st) : TablesInOrder (e.raise n).st := h

theorem dirtied_inOrder {e : Ev} (n) (h : TablesInOrder e.st) : TablesInOrder (e.dirtied n).st := h

theorem takeReading_inOrder (e : Ev) (b) (h : TablesInOrder e.st) : TablesInOrder (e.takeReading b).st := by
  unfold Ev.takeReading
  split
  · rename_i o i ho hi
    have := openTest_find' ho
    refine TablesInOrder.writeAnchor (r := o.rec_) ?_ rfl rfl ?_
    · exact this.1
    · exact TablesInOrder.of_same (s := e.st) rfl rfl rfl h
  · exact h

theorem returnReadings_inOrder (e : Ev) (b) (h : TablesInOrder e.st) : TablesInOrder (e.returnReadings b).st := by
  unfold Ev.returnReadings
  split
  · exact h
  · rename_i o ho
    have := openTest_find' ho
    refine TablesInOrder.writeAnchor (r := o.rec_) ?_ rfl rfl ?_
    · exact this.1
    · exact TablesInOrder.of_same (s := e.st) rfl rfl rfl h

theorem announceStep_inOrder (e : Ev) (h : TablesInOrder e.st) : TablesInOrder e.announceStep.st := by
  rw [announceStep_st]; exact h

theorem moveOn_inOrder (e : Ev) (h : TablesInOrder e.st) : TablesInOrder e.moveOn.st :=
  announceStep_inOrder _ (changeSession_inOrder _ _ h)

theorem endWith_inOrder (e : Ev) (v) (h : TablesInOrder e.st) : TablesInOrder (e.endWith v).st := by
  unfold Ev.endWith
  split
  · exact h
  · rename_i o ho
    refine changeStage_inOrder (e := e.mod closeSession) ?_ ?_
    · exact (openTest_find' ho).1
    · exact TablesInOrder.of_same (s := e.st) rfl rfl rfl h

theorem takeSummaries_inOrder (e : Ev) (l p) (h : TablesInOrder e.st) : TablesInOrder (e.takeSummaries l p).st := by
  unfold Ev.takeSummaries
  split
  · exact h
  · rename_i f rest
    have h1 := takeReading_inOrder e (summaryBody e.st f p) h
    generalize e.takeReading (summaryBody e.st f p) = e1 at h1
    induction rest generalizing e1 with
    | nil => exact h1
    | cons g more ih =>
      simp only [List.foldl_cons]
      exact ih _ (takeReading_inOrder _ _ h1)

theorem evaluate_inOrder (e : Ev) (v) (h : TablesInOrder e.st) : TablesInOrder (e.evaluate v).st := by
  unfold Ev.evaluate
  have h1 : TablesInOrder
      ((match v.lapp with | none => e | some l => e.changeResult fun t => { t with lapp := some l }) : Ev).st := by
    split
    · exact h
    · exact changeResult_inOrder _ _ h
  simp only
  split
  · exact moveOn_inOrder _ h1
  · exact endWith_inOrder _ _ h1

theorem unload_inOrder (e : Ev) (o f) (h : TablesInOrder e.st) : TablesInOrder (e.unload o f).st := by
  unfold Ev.unload
  simp only
  have := fun p => changeSession_inOrder _ (fun x =>
      { x with stages := x.stages.dropWhile fun g => decide (f < g.fraction) }) (takeSummaries_inOrder e
      (poppedFrames f o.sess) p h)
  split
  · exact evaluate_inOrder _ _ (this _)
  · exact moveOn_inOrder _ (this _)

theorem carryOut_inOrder (e : Ev) (o a) (h : TablesInOrder e.st) : TablesInOrder (e.carryOut o a).st := by
  unfold Ev.carryOut
  split
  · exact moveOn_inOrder _ (changeSession_inOrder _ _ h)
  · exact moveOn_inOrder _ (changeSession_inOrder _ _ h)
  · exact unload_inOrder _ _ _ h
  · exact changeSession_inOrder _ _ h
  all_goals exact h

theorem voidHold_inOrder (e : Ev) (x top hh c) (h : TablesInOrder e.st) :
    TablesInOrder (e.voidHold x top hh c).st := by
  unfold Ev.voidHold
  simp only
  have := returnReadings_inOrder e top.holdReadings h
  split
  · exact endWith_inOrder _ _ (raise_inOrder _ (changeSession_inOrder _ _ this))
  · exact raise_inOrder _ (changeSession_inOrder _ _ this)

theorem writeCreep_inOrder (e : Ev) (b k) (h : TablesInOrder e.st) : TablesInOrder (e.writeCreep b k).st := by
  unfold Ev.writeCreep
  split
  · exact changeResult_inOrder _ _ h
  · exact h

theorem completeHold_inOrder (e : Ev) (top k) (h : TablesInOrder e.st) : TablesInOrder (e.completeHold top k).st := by
  unfold Ev.completeHold
  have h1 : TablesInOrder ((match k with | none => e | some k => e.writeCreep top.critical k) : Ev).st := by
    split
    · exact h
    · exact writeCreep_inOrder _ _ _ h
  simp only
  split
  · exact h1
  · exact moveOn_inOrder _ (raise_inOrder _ (changeSession_inOrder _ _ h1))

theorem failCreep_inOrder (e : Ev) (top k) (h : TablesInOrder e.st) : TablesInOrder (e.failCreep top k).st :=
  endWith_inOrder _ _ (writeCreep_inOrder _ _ _ h)

theorem decideAtD_inOrder (e : Ev) (top hh) (h : TablesInOrder e.st) : TablesInOrder (e.decideAtD top hh).st := by
  unfold Ev.decideAtD
  split
  · exact completeHold_inOrder _ _ _ h
  · simp only
    split
    · exact completeHold_inOrder _ _ _ (changeSession_inOrder _ _ h)
    · split
      · exact changeSession_inOrder _ _ (changeSession_inOrder _ _ h)
      · exact failCreep_inOrder _ _ _ (changeSession_inOrder _ _ h)

theorem decideAt10D_inOrder (e : Ev) (top hh) (h : TablesInOrder e.st) : TablesInOrder (e.decideAt10D top hh).st := by
  unfold Ev.decideAt10D
  simp only
  split
  · exact completeHold_inOrder _ _ _ (changeSession_inOrder _ _ h)
  · exact failCreep_inOrder _ _ _ (changeSession_inOrder _ _ h)

theorem reachPoint_inOrder (e : Ev) (x hh i) (h : TablesInOrder e.st) : TablesInOrder (e.reachPoint x hh i).st := by
  unfold Ev.reachPoint
  simp only
  have := changeSession_inOrder _ (fun y => setHoldCtx (changeTop y fun f =>
      { f with holdReadings := f.holdReadings ++ [i] }) { hh with nextPoint := hh.nextPoint + 1 })
      (takeReading_inOrder e (readingNow e.st .holdPoint) h)
  split
  · exact this
  · split_ifs
    · exact decideAtD_inOrder _ _ _ (raise_inOrder _ this)
    · exact decideAt10D_inOrder _ _ _ (raise_inOrder _ this)
    · exact raise_inOrder _ this

theorem runHold_inOrder (e : Ev) (x hh) (h : TablesInOrder e.st) : TablesInOrder (e.runHold x hh).st := by
  unfold Ev.runHold
  simp only
  have := changeSession_inOrder e (fun y => setHoldCtx y
      { hh with begun := true, elapsed := hh.elapsed + 1, pause := 0 }) h
  split
  · split
    · exact this
    · exact reachPoint_inOrder _ _ _ _ this
  · exact this

theorem countHold_inOrder (e : Ev) (x top hh b c) (h : TablesInOrder e.st) :
    TablesInOrder (e.countHold x top hh b c).st := by
  unfold Ev.countHold
  split
  · exact voidHold_inOrder _ _ _ _ _ h
  · exact changeSession_inOrder _ _ h

theorem judgeHold_inOrder (e : Ev) (x top hh) (h : TablesInOrder e.st) : TablesInOrder (e.judgeHold x top hh).st := by
  unfold Ev.judgeHold
  split_ifs <;> first
    | exact h
    | exact voidHold_inOrder _ _ _ _ _ h
    | exact countHold_inOrder _ _ _ _ _ _ h
    | exact runHold_inOrder _ _ _ h

theorem failLift_inOrder (e : Ev) (x) (h : TablesInOrder e.st) : TablesInOrder (e.failLift x).st := by
  unfold Ev.failLift
  split
  · exact announceStep_inOrder _ (changeSession_inOrder _ _ h)
  · exact endWith_inOrder _ _ h

theorem judgeLift_inOrder (e : Ev) (x l) (h : TablesInOrder e.st) : TablesInOrder (e.judgeLift x l).st := by
  unfold Ev.judgeLift
  split
  · exact h
  · simp only
    split
    · unfold Ev.captureLift
      simp only
      split
      · exact endWith_inOrder _ _ (raise_inOrder _ (takeReading_inOrder _ _ (changeResult_inOrder _ _
          (changeSession_inOrder _ _ h))))
      · exact failLift_inOrder _ _ (raise_inOrder _ (takeReading_inOrder _ _ (changeResult_inOrder _ _
          (changeSession_inOrder _ _ h))))
    · split
      · exact failLift_inOrder _ _ (takeReading_inOrder _ _ (changeSession_inOrder _ _ h))
      · exact changeSession_inOrder _ _ h

theorem judgeSession_inOrder (e : Ev) (h : TablesInOrder e.st) : TablesInOrder e.judgeSession.st := by
  unfold Ev.judgeSession
  split
  · exact h
  · split
    · exact judgeHold_inOrder _ _ _ _ h
    · exact judgeLift_inOrder _ _ _ h
    · exact h

/-! ## Lines -/
theorem changeOpenEntry_inOrder (e : Ev) (c f) (h : TablesInOrder e.st) :
    TablesInOrder (e.changeOpenEntry c f).st := by
  unfold Ev.changeOpenEntry
  split
  · exact h
  · rename_i r hr
    have := findAnchor_id hr
    refine TablesInOrder.writeAnchor (r := r) ?_ rfl rfl h
    rw [← this] at hr; exact hr

theorem modLine_inOrder (e : Ev) (l c) (h : TablesInOrder e.st) :
    TablesInOrder (e.mod fun s => setLineCtx s l c).st :=
  TablesInOrder.of_same (s := e.st) rfl rfl rfl h

theorem judgeLine_inOrder (e : Ev) (l) (h : TablesInOrder e.st) : TablesInOrder (e.judgeLine l).st := by
  unfold Ev.judgeLine
  split
  · exact h
  · simp only
    have h1 : ∀ c v, TablesInOrder (e.judgeLineLimit l c v).st := by
      intro c v
      unfold Ev.judgeLineLimit
      simp only
      split
      · exact raise_inOrder _ (changeOpenEntry_inOrder _ _ _ (modLine_inOrder _ _ _ h))
      · exact modLine_inOrder _ _ _ h
    rename_i c hc
    have h1 := h1 c (channelValue e.st.meas (lineChannel l))
    generalize e.judgeLineLimit l c (channelValue e.st.meas (lineChannel l)) = e1 at h1
    unfold Ev.judgeLineRefusal
    simp only
    split
    · exact raise_inOrder _ (changeOpenEntry_inOrder _ _ _ (modLine_inOrder _ _ _ h1))
    · exact modLine_inOrder _ _ _ h1

/-! ## Watch -/
theorem changeWatch_inOrder (e : Ev) (w f) (h : TablesInOrder e.st) : TablesInOrder (e.changeWatch w f).st :=
  TablesInOrder.of_same (s := e.st) rfl rfl rfl h

theorem actionHold_inOrder (e : Ev) (w n) (h : TablesInOrder e.st) : TablesInOrder (e.actionHold w n).st := by
  unfold Ev.actionHold
  split
  · exact writeHold_inOrder _ _ _ _ h
  · exact h

theorem tripWatch_inOrder (e : Ev) (w v) (h : TablesInOrder e.st) : TablesInOrder (e.tripWatch w v).st := by
  unfold Ev.tripWatch
  split
  · unfold Ev.stepTrip; exact raise_inOrder _ (changeWatch_inOrder _ _ _ (changeWatch_inOrder _ _ _ h))
  · unfold Ev.actionTrip; exact raise_inOrder _ (changeWatch_inOrder _ _ _ (actionHold_inOrder _ _ _
      (changeWatch_inOrder _ _ _ h)))

theorem countWatch_inOrder (e : Ev) (w b v) (h : TablesInOrder e.st) : TablesInOrder (e.countWatch w b v).st := by
  unfold Ev.countWatch
  split_ifs
  · exact tripWatch_inOrder _ _ _ h
  all_goals exact changeWatch_inOrder _ _ _ h

theorem evaluateWatch_inOrder (e : Ev) (w) (h : TablesInOrder e.st) : TablesInOrder (e.evaluateWatch w).st := by
  unfold Ev.evaluateWatch
  simp only
  split
  · exact h
  · exact countWatch_inOrder _ _ _ _ h

theorem foldl_inOrder {α} (l : List α) (f : Ev → α → Ev) (hf : ∀ e x, TablesInOrder e.st → TablesInOrder (f e x).st)
    (e : Ev) (h : TablesInOrder e.st) : TablesInOrder (l.foldl f e).st := by
  induction l generalizing e with
  | nil => exact h
  | cons a r ih => exact ih _ (hf _ _ h)

theorem feedWatches_inOrder (e : Ev) (f) (h : TablesInOrder e.st) : TablesInOrder (e.feedWatches f).st := by
  unfold Ev.feedWatches
  exact foldl_inOrder _ _ (fun e w h => evaluateWatch_inOrder e w h) _ h

theorem evaluateRise_inOrder (e : Ev) (w) (h : TablesInOrder e.st) : TablesInOrder (e.evaluateRise w).st := by
  unfold Ev.evaluateRise
  simp only
  split
  · exact changeWatch_inOrder _ _ _ h
  · exact countWatch_inOrder _ _ _ _ (changeWatch_inOrder _ _ _ h)

theorem getD_map_data (l : List SectionRec) (f : SectionRec → SectionRec) (hf : ∀ r, (f r).data = r.data) (n : Nat) :
    ((l.map f).getD n SectionRec.default).data = (l.getD n SectionRec.default).data := by
  by_cases h : n < l.length
  · simp [List.getD_eq_getElem?_getD, h, hf]
  · simp [List.getD_eq_getElem?_getD, h]

theorem mapData_inOrder {s t : State} (f : SectionRec → SectionRec) (hf : ∀ r, (f r).data = r.data)
    (hs : t.sections = s.sections.map f) (ha : t.anchors = s.anchors) (hc : t.cure = s.cure) (h : TablesInOrder s) :
    TablesInOrder t := by
  obtain ⟨⟨a, b, c⟩, ⟨d, e, k, g⟩⟩ := h
  refine ⟨⟨by rw [hs]; simpa using a, ?_, ha ▸ c⟩, ⟨ha ▸ d, ?_, ?_, ?_⟩⟩
  · intro r hr
    rw [hs] at hr
    obtain ⟨q, hq, rfl⟩ := List.mem_map.1 hr
    rw [hf]; exact b q hq
  · unfold CureSound; rw [ha, hc]; exact e
  · intro n t h1 h2 h3 h4
    refine Eq.trans ?_ ((k n t h1 h2 h3 h4).trans (by rw [ha]))
    unfold lockedCount sectionRec
    rw [hs, getD_map_data _ f hf]
  · intro r hr
    rw [hs] at hr
    obtain ⟨q, hq, rfl⟩ := List.mem_map.1 hr
    rw [hf]; exact g q hq

theorem tick_inOrder (s : State) (h : TablesInOrder s) : TablesInOrder (tickTime (tickClock s)) := by
  have h1 : TablesInOrder (tickClock s) := by
    unfold tickClock; split
    · exact TablesInOrder.of_same (s := s) rfl rfl rfl h
    · exact h
  generalize tickClock s = u at h1
  unfold tickTime
  split
  · exact TablesInOrder.of_same (s := u) rfl rfl rfl h1
  · obtain ⟨⟨a, b, c⟩, ⟨d, e, f, g⟩⟩ := h1
    refine ⟨⟨by simpa [wholeSecond] using a, ?_, c⟩, ⟨d, e, ?_, ?_⟩⟩
    · intro r hr
      simp only [wholeSecond, List.mem_map] at hr
      obtain ⟨q, hq, rfl⟩ := hr
      exact b q hq
    · intro n t h1 h2 h3 h4
      rw [show (wholeSecond u).anchors = u.anchors from rfl, ← f n t h1 h2 h3 h4]
      unfold lockedCount sectionRec
      simp only [wholeSecond]
      rw [getD_map_data _ SectionRec.older (fun _ => rfl)]
    · intro r hr
      simp only [wholeSecond, List.mem_map] at hr
      obtain ⟨q, hq, rfl⟩ := hr
      exact g q hq

theorem sampleEvent_inOrder (x) (s : State) (h : TablesInOrder s) : TablesInOrder (sampleEvent x s).st := by
  unfold sampleEvent
  simp only [Ev.mod_st]
  apply tick_inOrder
  apply judgeSession_inOrder
  unfold watchedEvent
  apply feedWatches_inOrder
  unfold monitoredEvent
  apply judgeLine_inOrder
  apply judgeLine_inOrder
  refine TablesInOrder.of_frame (judgeRig_frame _) (by simp) (by simp) (by simp) ?_
  exact TablesInOrder.of_frame (measuredEvent_frame x s) (by simp) (by simp) (by simp) h

theorem commit_inOrder (e : Ev) (h : TablesInOrder e.st) : TablesInOrder (commit e) :=
  TablesInOrder.of_frame (commit_frame e e.st [] (OnlyChanges.refl _ _)) (by simp) (by simp) (by simp) h

/-! ## Requests -/
theorem find_self {s : State} {a r} (h : findAnchor s a = some r) : findAnchor s r.id = some r := by
  rw [findAnchor_id h]; exact h

theorem decided_id (s r d c) : (decidedRecord s r d c).id = r.id := by
  unfold decidedRecord; split <;> rfl

/-- A created record. -/
theorem insert_inOrder {s : State} {r : AnchorRec} (hn : findAnchor s r.id = none) (hr : IdInRange r.id) (hst :
    r.stage = .planned)
    (h : TablesInOrder s) : TablesInOrder { s with anchors := insertAnchor r s.anchors } := by
  obtain ⟨⟨a, b, c⟩, ⟨d, g, k, l⟩⟩ := h
  have hp : ∀ (q : AnchorRec) (l : List AnchorRec), (insertAnchor q l).Perm (q :: l) := by
    intro q l
    induction l with
    | nil => exact .refl _
    | cons y rest ih =>
      simp only [insertAnchor]
      split
      · exact .refl _
      · exact (ih.cons y).trans (.swap q y rest)
  have hnm : ∀ q ∈ s.anchors, q.id ≠ r.id := by
    intro q hq he
    have := find_of_mem (ordered_nodup d) hq
    rw [he] at this
    unfold findAnchor at hn
    rw [hn] at this; cases this
  refine ⟨⟨a, b, ?_⟩, ⟨?_, ⟨g.1, g.2.1, fun x => ?_⟩, ?_, l⟩⟩
  · intro q hq
    rcases List.mem_cons.1 ((hp r s.anchors).mem_iff.1 hq) with rfl | hq
    · exact hr
    · exact c q hq
  · show AnchorsOrdered (insertAnchor r s.anchors)
    clear hn k g c a b l
    revert d hnm
    generalize s.anchors = l
    intro d hnm
    induction l with
    | nil => simp [insertAnchor, AnchorsOrdered]
    | cons y rest ih =>
      unfold AnchorsOrdered at d ih ⊢
      rw [List.pairwise_cons] at d
      simp only [insertAnchor]
      split
      · rename_i hb
        rw [List.pairwise_cons, List.pairwise_cons]
        refine ⟨fun z hz => ?_, d⟩
        rcases List.mem_cons.1 hz with rfl | hz
        · exact hb
        · exact before_trans hb (d.1 z hz)
      · rename_i hb
        have hyr : y.id.before r.id = true := (before_total (hnm y (by simp))).resolve_right hb
        rw [List.pairwise_cons]
        refine ⟨fun z hz => ?_, ih d.2 fun q hq => hnm q (by simp [hq])⟩
        rcases List.mem_cons.1 ((hp r rest).mem_iff.1 hz) with rfl | hz
        · exact hyr
        · exact d.1 z hz
  · show x ∈ s.cure ↔ ∃ q ∈ insertAnchor r s.anchors, _
    rw [g.2.2]
    constructor
    · rintro ⟨q, hq, e1⟩
      exact ⟨q, (hp r s.anchors).mem_iff.2 (List.mem_cons_of_mem _ hq), e1⟩
    · rintro ⟨q, hq, e1, e2, e3⟩
      rcases List.mem_cons.1 ((hp r s.anchors).mem_iff.1 hq) with rfl | hq
      · rw [hst] at e2; cases e2
      · exact ⟨q, hq, e1, e2, e3⟩
  · intro n t h1 h2 h3 h4
    show lockedCount s n t = _
    rw [k n t h1 h2 h3 h4]
    have := ((hp r s.anchors).filter (fun r => r.id.sect = n && r.id.tier = t && r.stage = .lockedOff)).length_eq
    rw [this]
    simp [hst]

theorem erase_inOrder {s : State} {r : AnchorRec} (hf : findAnchor s r.id = some r) (hst : r.stage = .planned ∨
    r.stage = .abandoned) (h : TablesInOrder s) : TablesInOrder { s with anchors := eraseAnchor s.anchors r.id } := by
  obtain ⟨⟨a, b, c⟩, ⟨d, g, k, l⟩⟩ := h
  have huniq : ∀ q ∈ s.anchors, q.id = r.id → q = r := by
    intro q hq he
    have := find_of_mem (ordered_nodup d) hq
    rw [he] at this; unfold findAnchor at hf; rw [hf] at this; cases this; rfl
  have hm : ∀ q, q ∈ eraseAnchor s.anchors r.id ↔ q ∈ s.anchors ∧ q.id ≠ r.id := by
    intro q; unfold eraseAnchor; simp
  refine ⟨⟨a, b, fun q hq => c q ((hm q).1 hq).1⟩, ⟨List.Pairwise.filter _ d, ⟨g.1, g.2.1, fun x => ?_⟩, ?_, l⟩⟩
  · show x ∈ s.cure ↔ ∃ q ∈ eraseAnchor s.anchors r.id, _
    rw [g.2.2]
    constructor
    · rintro ⟨q, hq, e1, e2, e3⟩
      refine ⟨q, (hm q).2 ⟨hq, fun he => ?_⟩, e1, e2, e3⟩
      rw [huniq q hq he] at e2
      rcases hst with hst | hst <;> rw [hst] at e2 <;> cases e2
    · rintro ⟨q, hq, e1⟩
      exact ⟨q, ((hm q).1 hq).1, e1⟩
  · intro n t h1 h2 h3 h4
    show lockedCount s n t = _
    rw [k n t h1 h2 h3 h4]
    unfold eraseAnchor
    rw [List.filter_filter]
    congr 1
    apply List.filter_congr
    intro q hq
    by_cases he : q.id = r.id
    · rw [huniq q hq he]
      rcases hst with hst | hst <;> simp [hst]
    · simp [he]

theorem anchorField_range (pl : List Byte) : IdInRange (anchorField pl) := by
  have := anchorField_sect pl
  unfold IdInRange
  refine ⟨this, ?_, ?_⟩ <;> simp only [anchorField] <;> omega

theorem defineAnchorReply_inOrder (pl) (s : State) (h : TablesInOrder s) :
    TablesInOrder (defineAnchorReply pl s).ev.st := by
  unfold defineAnchorReply
  split
  · exact h
  · split
    · split
      · rename_i r hr _
        exact TablesInOrder.writeAnchor (e := Ev.of s) (r := r) (find_self hr) rfl rfl h
      · exact h
    · split
      · exact h
      · rename_i hn _
        exact insert_inOrder (r := plannedRecord _ _ _) hn (anchorField_range pl) rfl h

theorem setAnchorGeometryReply_inOrder (pl) (s : State) (h : TablesInOrder s) :
    TablesInOrder (setAnchorGeometryReply pl s).ev.st := by
  unfold setAnchorGeometryReply
  split
  · exact h
  · rename_i r hr
    split
    · exact h
    · split
      · exact h
      · exact TablesInOrder.writeAnchor (e := Ev.of s) (r := r) (find_self hr) rfl rfl h

theorem deleteAnchorReply_inOrder (pl) (s : State) (h : TablesInOrder s) :
    TablesInOrder (deleteAnchorReply pl s).ev.st := by
  unfold deleteAnchorReply
  split
  · exact h
  · rename_i r hr
    split
    · rename_i hst
      exact erase_inOrder (find_self hr) hst h
    · exact h

theorem stage_of_same {s u : State} (old new : AnchorRec) (hid : new.id = old.id)
    (hf : findAnchor s old.id = some old) (h1 : u.anchors = s.anchors) (h2 : u.cure = s.cure)
    (h3 : u.sections = s.sections) (h : TablesInOrder s) : TablesInOrder ((Ev.of u).changeStage old new).st := by
  refine changeStage_inOrder (e := Ev.of u) ?_ (TablesInOrder.of_same (s := s) h1 h2 h3 h)
  rw [hid]; simpa [findAnchor, h1] using hf

theorem abandonAnchorReply_inOrder (pl) (s : State) (h : TablesInOrder s) :
    TablesInOrder (abandonAnchorReply pl s).ev.st := by
  unfold abandonAnchorReply
  split
  · exact h
  · rename_i r hr
    split
    · exact h
    · split
      · exact h
      · exact stage_of_same r _ rfl (find_self hr) rfl rfl rfl h

theorem retestAnchorReply_inOrder (pl) (s : State) (h : TablesInOrder s) :
    TablesInOrder (retestAnchorReply pl s).ev.st := by
  unfold retestAnchorReply
  split
  · exact h
  · rename_i r hr
    split
    · exact stage_of_same r _ rfl (find_self hr) rfl rfl rfl h
    · exact h

theorem settleAnchorReply_inOrder (pl) (s : State) (h : TablesInOrder s) :
    TablesInOrder (settleAnchorReply pl s).ev.st := by
  unfold settleAnchorReply
  split
  · exact h
  · rename_i r hr
    split
    · exact h
    · split
      · exact h
      · split
        · exact h
        · split
          · exact h
          · split
            · exact h
            · refine stage_of_same r _ ?_ (find_self hr) ?_ ?_ ?_ h
              · unfold settledRecord; exact decided_id _ _ _ _
              all_goals unfold settledFree settledPool; split_ifs <;> rfl

theorem cureExpiry_inOrder (s : State) (e) (he : cureExpiryEvent s = some e) (h : TablesInOrder s) :
    TablesInOrder e.st := by
  unfold cureExpiryEvent at he
  split at he
  · split at he
    · simp only [Option.map_eq_some_iff] at he
      obtain ⟨r, hr, rfl⟩ := he
      exact stage_of_same r _ rfl (find_self hr) rfl rfl rfl h
    · cases he
  · cases he

theorem setHoldReply_inOrder (pl) (s : State) (h : TablesInOrder s) : TablesInOrder (setHoldReply pl s).ev.st := by
  unfold setHoldReply
  split
  · split
    · exact h
    · exact writeHold_inOrder (e := Ev.of s) _ _ _ _ h
  · exact h

theorem releaseHoldReply_inOrder (pl) (s : State) (h : TablesInOrder s) :
    TablesInOrder (releaseHoldReply pl s).ev.st := by
  unfold releaseHoldReply
  split
  · split
    · exact h
    · exact h
    · exact removeHold_inOrder (e := Ev.of s) _ _ h
  · exact h

theorem setSectionReply_inOrder (pl) (s : State) (h : TablesInOrder s) :
    TablesInOrder (setSectionReply pl s).ev.st := by
  unfold setSectionReply
  split
  · exact TablesInOrder.section (e := Ev.of s) _ (fun d =>
      { d with pressLimit := clampNat 50 5000 (fieldNat pl 1 2), refusalPress := clampNat 50 5000 (fieldNat pl 3 2), deflLimit := clampNat 0 50000 (fieldNat pl 5 2) }) (fun _ => rfl) (fun _ hd => hd) h
  · exact h

theorem tendonStartReply_inOrder (pl) (s : State) (h : TablesInOrder s) :
    TablesInOrder (tendonStartReply pl s).ev.st := by
  unfold tendonStartReply
  split
  · exact h
  · rename_i r hr
    split
    · exact h
    split
    · exact h
    split
    · exact h
    split
    · exact h
    split
    · exact h
    split
    · exact h
    split
    · exact h
    exact stage_of_same r _ rfl (find_self hr) rfl rfl rfl h

theorem tendonDoneReply_inOrder (pl) (s : State) (h : TablesInOrder s) :
    TablesInOrder (tendonDoneReply pl s).ev.st := by
  unfold tendonDoneReply
  split
  · exact h
  · rename_i r hr
    split
    · exact h
    · exact stage_of_same r _ rfl (find_self hr) rfl rfl rfl h

theorem tendonWithdrawReply_inOrder (pl) (s : State) (h : TablesInOrder s) :
    TablesInOrder (tendonWithdrawReply pl s).ev.st := by
  unfold tendonWithdrawReply
  split
  · exact h
  · rename_i r hr
    split
    · exact h
    · exact stage_of_same r _ rfl (find_self hr) rfl rfl rfl h

theorem injectStartReply_inOrder (pl) (s : State) (h : TablesInOrder s) :
    TablesInOrder (injectStartReply pl s).ev.st := by
  unfold injectStartReply
  split
  · unfold injectStartOn
    split
    · exact h
    · rename_i r hr
      split
      · exact h
      split
      · exact h
      split
      · exact h
      split
      · exact h
      split
      · exact h
      split
      · exact h
      split
      · exact h
      split
      · exact h
      split
      · exact h
      exact stage_of_same r _ rfl (find_self hr) rfl rfl rfl h
  · exact h

theorem injectEndReply_inOrder (pl) (s : State) (h : TablesInOrder s) :
    TablesInOrder (injectEndReply pl s).ev.st := by
  unfold injectEndReply
  split
  · exact h
  split
  · exact h
  rename_i r hr
  split
  · exact h
  unfold injectEndDone
  refine stage_of_same r _ ?_ (find_self hr) rfl rfl rfl h
  unfold injectedRecord; split <;> rfl

theorem interruptReply_inOrder (how) (s : State) (h : TablesInOrder s) :
    TablesInOrder (interruptReply how s).ev.st := by
  unfold interruptReply
  split
  · exact h
  · rename_i o ho
    have := openTest_find' ho
    refine stage_of_same o.rec_ (interruptedRecord o) ?_ this.1 ?_ ?_ ?_ h
    · unfold interruptedRecord; split <;> rfl
    all_goals unfold interruptedPool; split <;> rfl

theorem stressOpenReply_inOrder (pl) (s : State) (h : TablesInOrder s) :
    TablesInOrder (stressOpenReply pl s).ev.st := by
  unfold stressOpenReply
  split
  · exact h
  rename_i r hr
  split
  · exact h
  split
  · exact h
  split
  · exact h
  split
  · exact h
  split
  · exact h
  split
  · exact h
  split
  · exact h
  split
  · exact h
  unfold stressOpenOn
  split
  · exact h
  split
  · exact h
  split
  · exact h
  split
  · exact h
  split
  · exact h
  unfold stressOpenDone
  refine announceStep_inOrder _ ?_
  exact stage_of_same r _ rfl (find_self hr) rfl rfl rfl h

theorem advanceReply_inOrder (s : State) (h : TablesInOrder s) : TablesInOrder (advanceReply s).ev.st := by
  unfold advanceReply
  split
  · exact h
  split
  · exact h
  · exact h
  · exact h
  all_goals
    split
    · exact h
    unfold advanceOn
    split_ifs <;> first | exact h | skip
    unfold advanceDone
    exact carryOut_inOrder _ _ _ (takeReading_inOrder _ _ h)

theorem releaseReply_inOrder (s : State) (h : TablesInOrder s) : TablesInOrder (releaseReply s).ev.st := by
  unfold releaseReply
  split
  · exact h
  split
  · split
    · exact h
    · unfold releaseDone
      exact announceStep_inOrder _ (changeSession_inOrder _ _ (takeReading_inOrder _ _ (changeResult_inOrder _ _ h)))
  · exact h

theorem reported_inOrder (s : State) (n v) (h : TablesInOrder s) : TablesInOrder (reportedSection s n v) := by
  have h1 : TablesInOrder ((Ev.of s).changeSection n fun d =>
      { d with lastDeflection := some { value := v, time := stampTime s } }).st :=
    TablesInOrder.section (e := Ev.of s) n (fun d =>
        { d with lastDeflection := some { value := v, time := stampTime s } }) (fun _ => rfl) (fun _ hd => hd) h
  obtain ⟨⟨a, b, c⟩, ⟨d, g, k, l⟩⟩ := h1
  -- ages and flags do not matter
  have hset : ∀ (age stale), (setSection s n
      { data := { (sectionRec s n).data with lastDeflection := some { value := v, time := stampTime s } }, age := age, stale := stale }).sections.map (·.data)
     = ((Ev.of s).changeSection n fun d =>
         { d with lastDeflection := some { value := v, time := stampTime s } }).st.sections.map (·.data) := by
    intro age stale
    simp [setSection, Ev.changeSection, List.map_set]
  have hmap := hset (some 0) false
  have hdata : ∀ r ∈ (reportedSection s n v).sections, ∃ q ∈ ((Ev.of s).changeSection n fun d =>
      { d with lastDeflection := some { value := v, time := stampTime s } }).st.sections, q.data = r.data := by
    intro r hr
    have : r.data ∈ (reportedSection s n v).sections.map (·.data) := List.mem_map_of_mem (f := (·.data)) hr
    unfold reportedSection at this
    rw [hmap] at this
    simpa using this
  refine ⟨⟨?_, ?_, c⟩, ⟨d, g, ?_, ?_⟩⟩
  · rw [← a]; unfold reportedSection; simpa using congrArg List.length hmap
  · intro r hr; obtain ⟨q, hq, e⟩ := hdata r hr; rw [← e]; exact b q hq
  · intro m t h1 h2 h3 h4
    have := k m t h1 h2 h3 h4
    refine Eq.trans ?_ this
    unfold lockedCount
    have hs : (sectionRec (reportedSection s n v) m).data = (sectionRec ((Ev.of s).changeSection n fun d =>
        { d with lastDeflection := some { value := v, time := stampTime s } }).st m).data := by
      unfold sectionRec
      have h9 : ∀ l : List SectionRec, (l.getD (m-1) SectionRec.default).data = (l.map (·.data)).getD (m-1)
          SectionRec.default.data := by
        intro l; rw [List.getD_eq_getElem?_getD, List.getD_eq_getElem?_getD, List.getElem?_map]; cases l[m-1]? <;> rfl
      rw [h9, h9]
      unfold reportedSection
      rw [hmap]
    rw [hs]
  · intro r hr; obtain ⟨q, hq, e⟩ := hdata r hr; rw [← e]; exact l q hq

theorem reportDeflectionReply_inOrder (pl) (s : State) (h : TablesInOrder s) :
    TablesInOrder (reportDeflectionReply pl s).ev.st := by
  unfold reportDeflectionReply
  split
  · unfold reportEvent
    refine feedWatches_inOrder _ _ ?_
    unfold Ev.compareLimit
    simp only
    split
    · exact writeHold_inOrder _ _ _ _ (dirtied_inOrder _ (reported_inOrder _ _ _ h))
    · exact dirtied_inOrder _ (reported_inOrder _ _ _ h)
  · exact h

theorem setParameterReply_inOrder (pl) (s : State) (h : TablesInOrder s) :
    TablesInOrder (setParameterReply pl s).ev.st := by
  unfold setParameterReply
  split
  · exact h
  split
  · exact h
  rename_i k hk _ hp
  unfold storeParam Ev.paramEffect
  simp only
  split
  · -- section count
    unfold paramRefusal at hp
    simp only at hp
    split at hp
    · cases hp
    · rename_i hany
      generalize clampParam .sectionCount (fieldInt pl 1 4) = new at *
      have hno : ∀ r ∈ s.anchors, r.id.sect ≤ new := by
        intro r hr
        by_contra hc
        apply hany
        simp only [List.any_eq_true, decide_eq_true_eq]
        exact ⟨r, hr, by omega⟩
      unfold Ev.defaultSections
      split
      · exact TablesInOrder.of_same (s := s) rfl rfl rfl h
      · simp only [Ev.dirtied_st, Ev.of_st, Ev.mod_st]
        have key : ∀ (ns : List Nat) (u : State), u.anchors = s.anchors → (∀ n ∈ ns, new < n) → TablesInOrder u →
            TablesInOrder (ns.foldl (fun acc n => setSection acc n SectionRec.default) u) := by
          intro ns
          induction ns with
          | nil => intro u _ _ hu; exact hu
          | cons n rest ih =>
            intro u hua hn hu
            refine ih (setSection u n SectionRec.default) (by simpa using hua) (fun m hm => hn m (by simp [hm])) ?_
            obtain ⟨⟨a, b, c⟩, ⟨d, g, k, l⟩⟩ := hu
            refine ⟨⟨by simpa [setSection] using a, ?_, c⟩, ⟨d, g, ?_, ?_⟩⟩
            · intro r hr
              rcases List.mem_or_eq_of_mem_set hr with hr | rfl
              · exact b r hr
              · rfl
            · intro m t h1 h2 h3 h4
              have hb := k m t h1 h2 h3 h4
              rw [show (setSection u n SectionRec.default).anchors = u.anchors from rfl, ← hb]
              unfold lockedCount
              by_cases hm : n - 1 = m - 1
              · have hnn := hn n (by simp)
                have hmn : m = n := by omega
                rw [hmn] at hb ⊢
                rw [sectionRec_set_self _ _ _ (by omega)]
                have : (u.anchors.filter fun r => r.id.sect = n && r.id.tier = t && r.stage = .lockedOff) = [] := by
                  rw [List.filter_eq_nil_iff]
                  intro r hr
                  rw [hua] at hr
                  have := hno r hr
                  have : ¬ r.id.sect = n := by omega
                  simp [this]
                rw [this] at hb
                unfold lockedCount at hb
                rw [hb]
                have ht : t - 1 < 8 := by omega
                simp only [SectionRec.default, SectionData.default]
                generalize t - 1 = j at ht
                have : ∀ j < 8, ([0, 0, 0, 0, 0, 0, 0, 0] : List Nat).getD j 0 = 0 := by decide
                exact this j ht
              · have : sectionRec (setSection u n SectionRec.default) m = sectionRec u m := by
                  simp [sectionRec, setSection, hm]
                rw [this]
            · intro r hr
              rcases List.mem_or_eq_of_mem_set hr with hr | rfl
              · exact l r hr
              · simp [SectionRec.default, SectionData.default, HoldsRising]
        refine key _ _ rfl ?_ (TablesInOrder.of_same (s := s) rfl rfl rfl h)
        intro n hn
        unfold droppedSections at hn
        have := (List.mem_filter.1 hn).2
        simp at this
        exact this.1
  · -- stale period
    exact mapData_inOrder (s := s) (fun r =>
        { r with stale := ageStale (clampParam .stalePeriod (fieldInt pl 1 4)) r.age }) (fun _ => rfl) rfl rfl rfl h
  · exact TablesInOrder.of_same (s := s) rfl rfl rfl h

/-- A write in progress is one of before, up to its note (R183). -/
def WriteKept (s t : State) : Prop := ∀ j n, t.recorder.writer = .writing j n → ∃ m, s.recorder.writer = .writing j m

/-- The store is the same, and no write has begun. -/
def StoreKept (s t : State) : Prop := t.store = s.store ∧ WriteKept s t

theorem StoreKept.refl (s) : StoreKept s s := ⟨rfl, fun j n h => ⟨n, h⟩⟩

theorem StoreKept.of_frame {s t ps} (h : OnlyChanges ps s t) (h1 : Part.store ∉ ps) (h2 : Part.recorder ∉ ps) :
    StoreKept s t :=
  ⟨h _ h1, fun j n hj => ⟨n, by have := h _ h2; simp only [SamePart] at this; rw [← this]; exact hj⟩⟩

theorem StoreKept.trans {a b c} (h : StoreKept a b) (g : StoreKept b c) : StoreKept a c :=
  ⟨g.1.trans h.1, fun j n hj => by obtain ⟨m, hm⟩ := g.2 j n hj; exact h.2 j m hm⟩

theorem StoreKept.good {s t} (h : StoreKept s t) (g : StoreAgrees s) : StoreAgrees t := by
  obtain ⟨h1, h2⟩ := h
  refine ⟨fun c hc => g.first c (h1 ▸ hc), fun c hc => g.second c (h1 ▸ hc), fun b c n hj => ?_, fun l hl => g.secs
      l (h1 ▸ hl), fun l n hj => ?_⟩
  · obtain ⟨m, hm⟩ := h2 _ _ hj; exact g.dirJob b c m hm
  · obtain ⟨m, hm⟩ := h2 _ _ hj; exact g.secJob l m hm

theorem commit_kept (e : Ev) : StoreKept e.st (commit e) := by
  refine ⟨commit_frame e e.st [] (OnlyChanges.refl _ _) .store (by simp), fun j n hj => ?_⟩
  have := (commit_dirties e).2.2.2.1
  rw [hj] at this
  unfold SameWrite at this
  split at this
  · rename_i j' n' k m h1 h2
    cases h2
    exact ⟨n', by rw [h1, this.1]⟩
  · exact ⟨n, this.symm⟩

theorem putAnswer_kept (k p r) : StoreKept r.ev.st (putAnswer k p r).st := ⟨rfl, fun j n h => ⟨n, h⟩⟩

theorem TablesInOrder.ports {s : State} (p) (h : TablesInOrder s) : TablesInOrder { s with ports := p } :=
    TablesInOrder.of_same (s := s) rfl rfl rfl h

theorem decide_keeps {k p pl s} {body : State → Reply}
    (hb : ∀ u, TablesInOrder u → TablesInOrder (body u).ev.st ∧ StoreKept u (body u).ev.st) (hs : TablesInOrder s) :
    TablesInOrder (decide_ k p pl body (takeFrame s p)).ev.st ∧
    StoreKept s (decide_ k p pl body (takeFrame s p)).ev.st := by
  have ht : TablesInOrder (takeFrame s p) := hs.ports _
  have hk : StoreKept s (takeFrame s p) := StoreKept.of_frame (takeFrame_frame s p) (by simp) (by simp)
  unfold decide_
  split_ifs
  · exact ⟨(hb _ ht).1, hk.trans (hb _ ht).2⟩
  · exact ⟨ht.ports _, hk.trans (StoreKept.of_frame (setFlags_frame _ _ _) (by simp) (by simp))⟩
  · exact ⟨ht.ports _, hk.trans (StoreKept.of_frame (setFlags_frame _ _ _) (by simp) (by simp))⟩

theorem take_keeps {k p pl s x} {body : State → Reply}
    (hb : ∀ u, TablesInOrder u → TablesInOrder (body u).ev.st ∧ StoreKept u (body u).ev.st) (hs : TablesInOrder s)
    (he : takeEvent k p pl body s = some x) : TablesInOrder x.st ∧ StoreKept s x.st := by
  unfold takeEvent at he
  split at he
  · cases he
    have := decide_keeps (k := k) (p := p) (pl := pl) hb hs
    exact ⟨TablesInOrder.ports _ this.1, this.2.trans (putAnswer_kept _ _ _)⟩
  · cases he

theorem sampleSupply_job (v s) : WriteKept s (sampleSupply v s) := by
  intro j n
  unfold sampleSupply raiseWarning clearWarning writerAtWarning
  intro h
  split_ifs at h <;> first
    | exact ⟨n, h⟩
    | (split at h <;> first | (simp at h; done) | (cases h; exact ⟨_, by assumption⟩) | skip)
    | skip
  all_goals simp_all

theorem raiseWarning_job (s) (h : s.supply.warning = false) : WriteKept s (raiseWarning s) := by
  have := sampleSupply_job 0 s
  unfold sampleSupply at this
  simpa [h, supplyLow] using this

theorem sampleEvent_kept (x s) : StoreKept s (sampleEvent x s).st := by
  refine ⟨sampleEvent_frame x s .store (by simp), ?_⟩
  have h1 : (sampleEvent x s).st.recorder = ((Ev.of s).mod (sampleSupply x.supply)).st.recorder := by
    unfold sampleEvent watchedEvent monitoredEvent measuredEvent
    simp only [Ev.mod_st]
    rw [(tick_frame _) .recorder (by simp), (judgeSession_frame _) .recorder (by simp), (feedWatches_frame _ _)
        .recorder (by simp),
      (judgeLine_frame _ _) .recorder (by simp), (judgeLine_frame _ _) .recorder (by simp), (judgeRig_frame _)
          .recorder (by simp), (measure_frame _ _) .recorder (by simp)]
    rfl
  intro j n hj
  rw [h1] at hj
  exact sampleSupply_job x.supply s j n hj

theorem flowRate_keeps (s e) (he : flowRateEvent s = some e) (hs : TablesInOrder s) : TablesInOrder e.st ∧
    StoreKept s e.st := by
  refine ⟨?_, StoreKept.of_frame (flowRateEvent_frame s e he) (by simp) (by simp)⟩
  unfold flowRateEvent at he
  split at he
  · cases he
  · cases he
    exact feedWatches_inOrder _ _ (TablesInOrder.of_same (s := s) rfl rfl rfl hs)

theorem rise_keeps (s e) (he : riseEvent s = some e) (hs : TablesInOrder s) : TablesInOrder e.st ∧
    StoreKept s e.st := by
  refine ⟨?_, StoreKept.of_frame (riseEvent_frame s e he) (by simp) (by simp)⟩
  unfold riseEvent at he
  split at he
  · cases he
  · cases he
    exact foldl_inOrder _ _ (fun e w h => evaluateRise_inOrder e w h) _ (TablesInOrder.of_same (s := s) rfl rfl rfl
        hs)

theorem report_keeps (pl u) (hu : TablesInOrder u) : TablesInOrder (reportDeflectionReply pl u).ev.st ∧
    StoreKept u (reportDeflectionReply pl u).ev.st :=
  ⟨reportDeflectionReply_inOrder pl u hu, StoreKept.of_frame (reportDeflectionReply_frame pl u) (by simp) (by simp)⟩

theorem directorySlots_distinct (s : State) (ho : AnchorsOrdered s.anchors) (hr : ∀ r ∈ s.anchors, IdInRange r.id)
    (q) : DirDistinct { seq := q, slots := directorySlots s } := by
  unfold directorySlots DirDistinct DirSound
  simp only
  have hput : ∀ (t : List (Slot AnchorId)) i v, v ∉ t.map (·.val) → (t.map (·.val)).Nodup → ((tablePut t i v).map
      (·.val)).Nodup ∧ ∀ x, x ∈ tablePut t i v → x.val = v ∨ x ∈ t := by
    intro t i v
    induction t with
    | nil => intro _ _; simp [tablePut]; 
    | cons y rest ih =>
      intro hv hnd
      simp only [List.map_cons, List.mem_cons, not_or, List.nodup_cons] at hv hnd
      obtain ⟨i1, i2⟩ := ih hv.2 hnd.2
      simp only [tablePut]
      split
      · refine ⟨?_, ?_⟩
        · simp only [List.map_cons, List.nodup_cons]
          refine ⟨fun hm => ?_, i1⟩
          obtain ⟨z, hz, hz2⟩ := List.mem_map.1 hm
          rcases i2 z hz with h | h
          · exact hv.1 (h.symm.trans hz2)
          · exact hnd.1 (hz2 ▸ List.mem_map_of_mem (f := (·.val)) h)
        · intro x hx
          rcases List.mem_cons.1 hx with rfl | hx
          · right; simp
          · rcases i2 x hx with h | h
            · exact .inl h
            · right; simp [h]
      · split
        · refine ⟨by simp only [List.map_cons, List.nodup_cons]; exact ⟨hv.2, hnd.2⟩, ?_⟩
          intro x hx
          rcases List.mem_cons.1 hx with rfl | hx
          · left; rfl
          · right; simp [hx]
        · refine ⟨by simp only [List.map_cons, List.nodup_cons, List.mem_cons, not_or]; exact ⟨hv, hnd⟩, ?_⟩
          intro x hx
          rcases List.mem_cons.1 hx with rfl | hx
          · left; rfl
          · right; exact hx
  have key : ∀ (l : List AnchorRec) (acc : List (Slot AnchorId)), (l.map (·.id)).Nodup → (acc.map (·.val)).Nodup →
      (∀ r ∈ l, r.id ∉ acc.map (·.val)) → (∀ x ∈ acc, IdInRange x.val) → (∀ r ∈ l, IdInRange r.id) →
      ((l.foldl (fun acc r => tablePut acc r.imageSlot r.id) acc).map (·.val)).Nodup ∧ ∀ x ∈ (l.foldl (fun acc r =>
          tablePut acc r.imageSlot r.id) acc), IdInRange x.val := by
    intro l
    induction l with
    | nil => intro acc _ h2 _ h4 _; exact ⟨h2, h4⟩
    | cons r rest ih =>
      intro acc h1 h2 h3 h4 h5
      simp only [List.map_cons, List.nodup_cons] at h1
      obtain ⟨p1, p2⟩ := hput acc r.imageSlot r.id (h3 r (by simp)) h2
      simp only [List.foldl_cons]
      refine ih _ h1.2 p1 ?_ ?_ fun q hq => h5 q (by simp [hq])
      · intro q hq hm
        obtain ⟨z, hz, hz2⟩ := List.mem_map.1 hm
        rcases p2 z hz with h | h
        · exact h1.1 (by rw [← h, hz2]; exact List.mem_map_of_mem (f := (·.id)) hq)
        · exact h3 q (by simp [hq]) (hz2 ▸ List.mem_map_of_mem (f := (·.val)) h)
      · intro x hx
        rcases p2 x hx with h | h
        · rw [h]; exact h5 r (by simp)
        · exact h4 x h
  exact key s.anchors [] (ordered_nodup ho) (by simp) (by simp) (by simp) hr

theorem restart_keeps (u) (hu : TablesInOrder u) : TablesInOrder (restartReply u).ev.st ∧
    StoreKept u (restartReply u).ev.st := by
  unfold restartReply
  split_ifs
  · exact ⟨hu, StoreKept.refl _⟩
  · exact ⟨TablesInOrder.of_same (s := u) rfl rfl rfl hu, rfl, fun j n h => ⟨n, h⟩⟩
  · exact ⟨TablesInOrder.of_same (s := u) rfl rfl rfl hu, rfl, fun j n h => ⟨n, h⟩⟩

theorem agreeStore_rising (l m n) {h : List Hold} (hh : HoldsRising h) : HoldsRising (agreeStore l m n h) := by
  unfold agreeStore
  split
  · split
    · exact hh
    · exact putHold_rising hh _
  · exact List.Pairwise.filter _ hh

theorem insert_perm (q : AnchorRec) (l : List AnchorRec) : (insertAnchor q l).Perm (q :: l) := by
  induction l with
  | nil => exact .refl _
  | cons y rest ih =>
    simp only [insertAnchor]
    split
    · exact .refl _
    · exact (ih.cons y).trans (.swap q y rest)

theorem insert_ordered (r : AnchorRec) (l : List AnchorRec) (d : AnchorsOrdered l) (hnm : ∀ q ∈ l, q.id ≠ r.id) :
    AnchorsOrdered (insertAnchor r l) := by
  induction l with
  | nil => simp [insertAnchor, AnchorsOrdered]
  | cons y rest ih =>
    unfold AnchorsOrdered at d ih ⊢
    rw [List.pairwise_cons] at d
    simp only [insertAnchor]
    split
    · rename_i hb
      rw [List.pairwise_cons, List.pairwise_cons]
      refine ⟨fun z hz => ?_, d⟩
      rcases List.mem_cons.1 hz with rfl | hz
      · exact hb
      · exact before_trans hb (d.1 z hz)
    · rename_i hb
      have hyr : y.id.before r.id = true := (before_total (hnm y (by simp))).resolve_right hb
      rw [List.pairwise_cons]
      refine ⟨fun z hz => ?_, ih d.2 fun q hq => hnm q (by simp [hq])⟩
      rcases List.mem_cons.1 ((insert_perm r rest).mem_iff.1 hz) with rfl | hz
      · exact hyr
      · exact d.1 z hz

theorem agreeing_id {st d r} (h : agreeingImage st d = some r) : r.id = d.val := by
  unfold agreeingImage at h
  split at h
  · cases h
  · split at h
    · cases h; assumption
    · cases h

theorem recoveredRecord_id (m r) : (recoveredRecord m r).id = r.id := by
  unfold recoveredRecord; split <;> rfl

theorem slotRecord_id (st m d) : (slotRecord st m d).id = d.val := by
  unfold slotRecord
  split
  · rw [recoveredRecord_id]; exact agreeing_id (by assumption)
  · rfl

theorem recovered_ok (st : Store) (mark : Nat) (dir : List (Slot AnchorId)) (hd : (dir.map (·.val)).Nodup)
    (hr : ∀ d ∈ dir, IdInRange d.val) : AnchorsOrdered (recoveredAnchors st mark dir) ∧
    ∀ r ∈ recoveredAnchors st mark dir, IdInRange r.id := by
  unfold recoveredAnchors
  have key : ∀ (dir : List (Slot AnchorId)) (acc : List AnchorRec), (dir.map (·.val)).Nodup → (∀ d ∈ dir, IdInRange
      d.val) →
     AnchorsOrdered acc → (∀ r ∈ acc, IdInRange r.id) → (∀ r ∈ acc, ∀ d ∈ dir, r.id ≠ d.val) →
     AnchorsOrdered (dir.foldl (fun acc d => insertAnchor (slotRecord st mark d) acc) acc) ∧
     ∀ r ∈ dir.foldl (fun acc d => insertAnchor (slotRecord st mark d) acc) acc, IdInRange r.id := by
    intro dir
    induction dir with
    | nil => intro acc _ _ h1 h2 _; exact ⟨h1, h2⟩
    | cons d rest ih =>
      intro acc h1 h2 h3 h4 h5
      simp only [List.map_cons, List.nodup_cons] at h1
      simp only [List.foldl_cons]
      refine ih _ h1.2 (fun x hx => h2 x (by simp [hx])) (insert_ordered _ _ h3 fun q
          hq => by rw [slotRecord_id]; exact h5 q hq d (by simp)) ?_ ?_
      · intro r hr
        rcases List.mem_cons.1 ((insert_perm _ _).mem_iff.1 hr) with rfl | hr
        · rw [slotRecord_id]; exact h2 d (by simp)
        · exact h4 r hr
      · intro r hr x hx
        rcases List.mem_cons.1 ((insert_perm _ _).mem_iff.1 hr) with rfl | hr
        · rw [slotRecord_id]
          intro he
          exact h1.1 (he ▸ List.mem_map_of_mem (f := (·.val)) hx)
        · exact h5 r hr x (by simp [hx])
  exact key dir [] hd hr (by simp [AnchorsOrdered]) (by simp) (by simp)

theorem rebuiltCure_sound (l : List AnchorRec) (hn : (l.map (·.id)).Nodup) :
    (rebuiltCure l).Pairwise (fun a b => keyLe a.key b.key = true) ∧ ((rebuiltCure l).map (·.id)).Nodup ∧
    ∀ c, c ∈ rebuiltCure l ↔ ∃ r ∈ l, r.id = c.id ∧ r.stage = .curing ∧ r.cureDue.getD 0 = c.due := by
  unfold rebuiltCure
  have key : ∀ (l : List AnchorRec) (acc : List CureEntry), (l.map (·.id)).Nodup → acc.Pairwise (fun a b => keyLe
      a.key b.key = true) →
     (acc.map (·.id)).Nodup → (∀ r ∈ l, ∀ c ∈ acc, c.id ≠ r.id) →
     let f := fun (acc : List CureEntry) (r : AnchorRec) => if r.stage = .curing then joinCure
         { due := r.cureDue.getD 0, id := r.id } acc else acc
     (l.foldl f acc).Pairwise (fun a b => keyLe a.key b.key = true) ∧ ((l.foldl f acc).map (·.id)).Nodup ∧
     ∀ c, c ∈ l.foldl f acc ↔ c ∈ acc ∨ ∃ r ∈ l, r.id = c.id ∧ r.stage = .curing ∧ r.cureDue.getD 0 = c.due := by
    intro l
    induction l with
    | nil => intro acc _ h2 h3 _; exact ⟨h2, h3, fun c => by simp⟩
    | cons r rest ih =>
      intro acc h1 h2 h3 h4
      simp only [List.map_cons, List.nodup_cons] at h1
      simp only [List.foldl_cons]
      by_cases hst : r.stage = .curing
      · simp only [if_pos hst]
        have hp := insertByKey_perm CureEntry.key { due := r.cureDue.getD 0, id := r.id } acc
        obtain ⟨i1, i2, i3⟩ := ih (joinCure { due := r.cureDue.getD 0, id := r.id } acc) h1.2 (insertByKey_sorted _
            _ _ h2) (by
            unfold joinCure
            rw [(hp.map (·.id)).nodup_iff]
            simp only [List.map_cons, List.nodup_cons]
            refine ⟨fun hm => ?_, h3⟩
            obtain ⟨c, hc, hc2⟩ := List.mem_map.1 hm
            exact h4 r (by simp) c hc hc2) (by
            intro q hq c hc
            rcases List.mem_cons.1 (hp.mem_iff.1 hc) with rfl | hc
            · intro he
              exact h1.1 (by simp only at he; rw [he]; exact List.mem_map_of_mem (f := (·.id)) hq)
            · exact h4 q (by simp [hq]) c hc)
        refine ⟨i1, i2, fun c => ?_⟩
        rw [i3]
        unfold joinCure
        rw [hp.mem_iff, List.mem_cons]
        simp only [List.mem_cons, exists_eq_or_imp]
        constructor
        · rintro ((rfl | h) | h)
          · exact .inr (.inl ⟨rfl, hst, rfl⟩)
          · exact .inl h
          · exact .inr (.inr h)
        · rintro (h | ⟨e1, _, e2⟩ | h)
          · exact .inl (.inr h)
          · left; left; cases c; simp_all
          · exact .inr h
      · simp only [if_neg hst]
        obtain ⟨i1, i2, i3⟩ := ih acc h1.2 h2 h3 (fun q hq c hc => h4 q (by simp [hq]) c hc)
        refine ⟨i1, i2, fun c => ?_⟩
        rw [i3]
        simp only [List.mem_cons, exists_eq_or_imp]
        constructor
        · rintro (h | h)
          · exact .inl h
          · exact .inr (.inr h)
        · rintro (h | ⟨_, e, _⟩ | h)
          · exact .inl h
          · exact absurd e hst
          · exact .inr h
  have := key l [] hn (by simp) (by simp) (by simp)
  simpa using this

theorem highest_le (l : List AnchorRec) : ∀ r ∈ l, r.id.sect ≤ highestSection l := by
  unfold highestSection
  have key : ∀ (l : List AnchorRec) (a : Nat), a ≤ l.foldl (fun acc r => max acc r.id.sect) a ∧ ∀ r ∈ l, r.id.sect ≤
      l.foldl (fun acc r => max acc r.id.sect) a := by
    intro l
    induction l with
    | nil => intro a; simp
    | cons q rest ih =>
      intro a
      simp only [List.foldl_cons]
      obtain ⟨i1, i2⟩ := ih (max a q.id.sect)
      refine ⟨by omega, ?_⟩
      intro r hr
      rcases List.mem_cons.1 hr with rfl | hr
      · omega
      · exact i2 r hr
  exact (key l 0).2

theorem dirInUse_ok {st : Store} (h1 : ∀ c, st.dirFirst = some c → DirDistinct c)
    (h2 : ∀ c, st.dirSecond = some c → DirDistinct c) : ((directoryInUse st).map (·.val)).Nodup ∧
    ∀ d ∈ directoryInUse st, IdInRange d.val := by
  unfold directoryInUse
  split
  · split
    · exact h1 _ (by assumption)
    · exact h2 _ (by assumption)
  · exact h1 _ (by assumption)
  · exact h2 _ (by assumption)
  · simp

theorem scan_inOrder (st : Store) (b : Bool) (k : ResetKind) (s : State) (items)
    (h1 : ∀ c, st.dirFirst = some c → DirDistinct c) (h2 : ∀ c, st.dirSecond = some c → DirDistinct c)
    (h3 : ∀ l, st.sections = some l → HoldsAll l) :
    TablesInOrder (joinItems (afterScan s (scanOf st b) k) items) := by
  obtain ⟨d1, d2⟩ := dirInUse_ok h1 h2
  obtain ⟨r1, r2⟩ := recovered_ok st (st.mark.getD 0) _ d1 d2
  refine TablesInOrder.of_same (s := afterScan s (scanOf st b) k) rfl rfl rfl ?_
  have hrec : (scanOf st b).records.map (·.id) = (scanOf st b).anchors.map (·.id) := by
    unfold Scan.records; rw [List.map_map]; rfl
  have hord : AnchorsOrdered (scanOf st b).records := by
    rw [ordered_iff, hrec, ← ordered_iff]; exact r1
  have hhi := highest_le (scanOf st b).anchors
  have hcs := rebuiltCure_sound _ (ordered_nodup hord)
  have hsec : (afterScan s (scanOf st b) k).sections = sectionNumbers.map fun n =>
      { data := recoveredData st (scanOf st b).anchors (st.mark.getD 0) (scanOf st b).count n, age := none, stale := true } := by
    show (recoveredSections st (scanOf st b).anchors (st.mark.getD 0) (scanOf st b).count).map (fun d =>
        ({ data := d, age := none, stale := true } : SectionRec)) = _
    unfold recoveredSections
    rw [List.map_map]; rfl
  refine ⟨⟨by rw [hsec]; simp [sectionNumbers], ?_, ?_⟩, ⟨hord, hcs, ?_, ?_⟩⟩
  · intro r hr
    rw [hsec] at hr
    obtain ⟨n, hn, rfl⟩ := List.mem_map.1 hr
    simp only [recoveredData]
    split
    · rfl
    · rfl
  · intro r hr
    have : r.id ∈ (scanOf st b).records.map (·.id) := List.mem_map_of_mem (f := (·.id)) hr
    rw [hrec] at this
    obtain ⟨q, hq, he⟩ := List.mem_map.1 this
    rw [← he]; exact r2 q hq
  · intro n t m1 m2 m3 m4
    have hcount : ((afterScan s (scanOf st b) k).anchors.filter fun r => r.id.sect = n && r.id.tier = t && r.stage =
        .lockedOff).length = recount (scanOf st b).anchors n t := by
      show ((scanOf st b).records.filter _).length = _
      unfold Scan.records recount
      rw [List.filter_map, List.length_map]
      rfl
    rw [hcount]
    unfold lockedCount sectionRec
    rw [hsec]
    have hget : (sectionNumbers.map fun n =>
        ({ data := recoveredData st (scanOf st b).anchors (st.mark.getD 0) (scanOf st b).count n, age := none, stale := true } : SectionRec)).getD (n - 1) SectionRec.default
        = { data := recoveredData st (scanOf st b).anchors (st.mark.getD 0) (scanOf st b).count n, age := none, stale := true } := by
      have hlt : n - 1 < 64 := by omega
      have e1 : n - 1 + 1 = n := by omega
      rw [List.getD_eq_getElem?_getD]
      simp [sectionNumbers, hlt, e1]
    rw [hget]
    simp only [recoveredData]
    split
    · rename_i hlt
      have hz : recount (scanOf st b).anchors n t = 0 := by
        unfold recount
        rw [List.length_eq_zero_iff, List.filter_eq_nil_iff]
        intro r hr
        have h5 := hhi r hr
        have h6 : highestSection (scanOf st b).anchors ≤ (scanOf st b).count := by
          show _ ≤ max _ _
          exact Nat.le_max_right _ _
        have : ¬ r.id.sect = n := by omega
        simp [this]
      rw [hz]
      have ht : t - 1 < 8 := by omega
      generalize t - 1 = j at ht
      have : ∀ j < 8, SectionData.default.counts.getD j 0 = 0 := by decide
      exact this j ht
    · have ht : t = 1 ∨ t = 2 ∨ t = 3 ∨ t = 4 ∨ t = 5 ∨ t = 6 ∨ t = 7 ∨ t = 8 := by omega
      rcases ht with rfl|rfl|rfl|rfl|rfl|rfl|rfl|rfl <;> rfl
  · intro r hr
    rw [hsec] at hr
    obtain ⟨n, hn, rfl⟩ := List.mem_map.1 hr
    simp only [recoveredData]
    split
    · simp [SectionData.default, HoldsRising]
    · apply agreeStore_rising
      cases hs : st.sections with
      | none =>
        simp only [Option.getD_none]
        rw [List.getD_eq_getElem?_getD]
        simp [SectionData.default, HoldsRising]
      | some l =>
        simp only [Option.getD_some]
        by_cases hlt : n - 1 < l.length
        · rw [List.getD_eq_getElem?_getD, List.getElem?_eq_getElem hlt]
          exact h3 l hs _ (List.getElem_mem hlt)
        · rw [List.getD_eq_getElem?_getD, List.getElem?_eq_none (by omega)]
          simp [SectionData.default, HoldsRising]

theorem reset_agrees (k : ResetKind) (s : State) (hs : StoreAgrees s) : TablesInOrder (resetAs k s) ∧
    StoreAgrees (resetAs k s) := by
  obtain ⟨a, b, c, d, e⟩ := hs
  have h1 : ∀ c, (tornStore s).dirFirst = some c → DirDistinct c := by
    intro q hq
    unfold tornStore at hq
    split at hq
    · unfold tearJob at hq; split at hq <;> first | exact a q hq | simp at hq
    · exact a q hq
    all_goals split_ifs at hq <;> exact a q hq
  have h2 : ∀ c, (tornStore s).dirSecond = some c → DirDistinct c := by
    intro q hq
    unfold tornStore at hq
    split at hq
    · unfold tearJob at hq; split at hq <;> first | exact b q hq | simp at hq
    · exact b q hq
    all_goals split_ifs at hq <;> exact b q hq
  have h3 : ∀ l, (tornStore s).sections = some l → HoldsAll l := by
    intro q hq
    unfold tornStore at hq
    split at hq
    · unfold tearJob at hq; split at hq <;> first | exact d q hq | simp at hq
    · exact d q hq
    all_goals split_ifs at hq <;> exact d q hq
  unfold resetAs scanStore
  have hw : ∀ (u : State) items j n, u.recorder.writer = .idle → (joinItems u items).recorder.writer ≠ .writing j
      n := by
    intro u items j n hu
    have := (joinItems_dirties u items).2.2.2.1
    rw [hu] at this
    unfold SameWrite at this
    intro hc
    rw [hc] at this
    simp at this
  split
  · have e1 : ∀ c, (formatStore (tornStore s)).dirFirst = some c → DirDistinct c := by
      intro q hq; simp only [formatStore, Store.formatted,
          Option.some.injEq] at hq; subst hq; exact ⟨by simp, by intro x hx; cases hx⟩
    have e2 : ∀ c, (formatStore (tornStore s)).dirSecond = some c → DirDistinct c := by
      intro q hq; simp only [formatStore, Store.formatted,
          Option.some.injEq] at hq; subst hq; exact ⟨by simp, by intro x hx; cases hx⟩
    have e3 : ∀ l, (formatStore (tornStore s)).sections = some l → HoldsAll l := by
      intro q hq; simp only [formatStore, Store.formatted, Option.some.injEq] at hq; subst hq
      intro d hd; rw [List.eq_of_mem_replicate hd]; simp [SectionData.default, HoldsRising]
    exact ⟨scan_inOrder _ _ _ _ _ e1 e2 e3, ⟨e1, e2, fun _ _ _ hj => absurd hj (hw _ _ _ _ rfl), e3, fun _ _ hj =>
        absurd hj (hw _ _ _ _ rfl)⟩⟩
  · exact ⟨scan_inOrder _ _ _ _ _ h1 h2 h3, ⟨h1, h2, fun _ _ _ hj => absurd hj (hw _ _ _ _ rfl), h3, fun _ _ hj =>
      absurd hj (hw _ _ _ _ rfl)⟩⟩

end Sys2Proof.Machine
end

