-- ==== Sys2Proof/Laws/Notices.lean ====
section
/-! SUPPORT. A notice once raised stays raised to the end of its event: every part of a sample set and of a trigger only
adds notices. -/

namespace Sys2Proof.Machine

/-- Every notice of one event in progress is among those of another. -/
def Ev.Grows (e f : Ev) : Prop := ∀ n ∈ e.notices, n ∈ f.notices

theorem Ev.Grows.refl (e : Ev) : e.Grows e := fun _ h => h

theorem Ev.Grows.trans {a b c : Ev} (h : a.Grows b) (g : b.Grows c) : a.Grows c := fun n hn => g n (h n hn)

theorem grows_of_eq {e f : Ev} (h : f.notices = e.notices) : e.Grows f := fun n hn => by rw [h]; exact hn

theorem grows_raise (e : Ev) (n : Notice) : e.Grows (e.raise n) := fun m hm => by simp [hm]

theorem raised_self (e : Ev) (n : Notice) : n ∈ (e.raise n).notices := by simp

theorem grows_foldl {α : Type} (f : Ev → α → Ev) (hf : ∀ (e : Ev) a, e.Grows (f e a)) (l : List α) (e : Ev) :
    e.Grows (l.foldl f e) := by
  induction l generalizing e with
  | nil => exact Ev.Grows.refl e
  | cons a rest ih => exact (hf e a).trans (ih _)

/-- A notice among those raised is found by a test it passes. -/
theorem raised_of_mem {e : Ev} {n : Notice} {f : Notice → Bool} (hn : n ∈ e.notices) (hf : f n = true) :
    e.raised f = true := List.any_eq_true.2 ⟨n, hn, hf⟩

/-! ## Anchors and sections -/

theorem removeHold_grows (e : Ev) (n : Nat) (src : HoldSource) : e.Grows (e.removeHold n src) := by
  unfold Ev.removeHold
  split
  · exact fun m hm => by simp [Ev.changeSection, hm]
  · exact Ev.Grows.refl e

theorem writeHold_grows (e : Ev) (n : Nat) (src : HoldSource) (lv : HoldLevel) (r : Option Nat) :
    e.Grows (e.writeHold n src lv r) := fun m hm => by simp [Ev.writeHold, Ev.changeSection, hm]

theorem leftSuspect_grows (e : Ev) (n : Nat) : e.Grows (e.leftSuspect n) := by
  unfold Ev.leftSuspect
  split
  · exact Ev.Grows.refl e
  · exact removeHold_grows e n _

theorem changeStage_grows (e : Ev) (old new : AnchorRec) : e.Grows (e.changeStage old new) := by
  have hl : ∀ e' : Ev, ∀ n ∈ e'.notices, n ∈ (e'.leftSuspect new.id.sect).notices := fun e' =>
    leftSuspect_grows e' new.id.sect
  intro n hn
  unfold Ev.changeStage
  simp only [Ev.raise_notices, List.mem_append]
  left
  have key : n ∈ (if new.stage = .lockedOff then
      (if old.stage = .lockedOff then
        (if new.stage = .curing then
          (if old.stage = .curing then (e.writeAnchor new).mod fun s => { s with cure := leaveCure new.id s.cure }
            else e.writeAnchor new).mod fun s => { s with cure := joinCure { due := new.cureDue.getD 0, id := new.id } s.cure }
          else (if old.stage = .curing then (e.writeAnchor new).mod fun s => { s with cure := leaveCure new.id s.cure }
            else e.writeAnchor new)).countLocked new.id (· - 1)
        else (if new.stage = .curing then
          (if old.stage = .curing then (e.writeAnchor new).mod fun s => { s with cure := leaveCure new.id s.cure }
            else e.writeAnchor new).mod fun s => { s with cure := joinCure { due := new.cureDue.getD 0, id := new.id } s.cure }
          else (if old.stage = .curing then (e.writeAnchor new).mod fun s => { s with cure := leaveCure new.id s.cure }
            else e.writeAnchor new))).countLocked new.id (· + 1)
      else (if old.stage = .lockedOff then
        (if new.stage = .curing then
          (if old.stage = .curing then (e.writeAnchor new).mod fun s => { s with cure := leaveCure new.id s.cure }
            else e.writeAnchor new).mod fun s => { s with cure := joinCure { due := new.cureDue.getD 0, id := new.id } s.cure }
          else (if old.stage = .curing then (e.writeAnchor new).mod fun s => { s with cure := leaveCure new.id s.cure }
            else e.writeAnchor new)).countLocked new.id (· - 1)
        else (if new.stage = .curing then
          (if old.stage = .curing then (e.writeAnchor new).mod fun s => { s with cure := leaveCure new.id s.cure }
            else e.writeAnchor new).mod fun s => { s with cure := joinCure { due := new.cureDue.getD 0, id := new.id } s.cure }
          else (if old.stage = .curing then (e.writeAnchor new).mod fun s => { s with cure := leaveCure new.id s.cure }
            else e.writeAnchor new)))).notices := by
    split_ifs <;> simpa [Ev.countLocked, Ev.changeSection] using hn
  split
  · exact hl _ _ key
  · exact key

/-! ## Measurement -/

theorem faultChange_grows (e : Ev) (f : FaultId) (a b : Bool) : e.Grows (e.faultChange f a b) := by
  unfold Ev.faultChange
  split
  · exact Ev.Grows.refl e
  · exact grows_raise e _

/-- A fault that changes is reported. -/
theorem faultChange_raises (e : Ev) (f : FaultId) {a b : Bool} (h : a ≠ b) :
    .sensorFault f b ∈ (e.faultChange f a b).notices := by
  simp [Ev.faultChange, h]

theorem sampleChannel_grows (e : Ev) (c : Channel) (raw : RawWord) : e.Grows (e.sampleChannel c raw) := by
  have h : ∀ (e' : Ev) a b x y, e'.Grows ((e'.faultChange (.notReady c) a b).faultChange (.overRange c) x y) :=
    fun e' a b x y => (faultChange_grows e' _ a b).trans (faultChange_grows _ _ x y)
  exact h (e.mod fun s => setChannel s c _) _ _ _ _

theorem sampleExtension_grows (e : Ev) : e.Grows e.sampleExtension := by
  have h : ∀ (e' : Ev) a b, e'.Grows (e'.faultChange .extDisagree a b) := fun e' a b => faultChange_grows e' _ a b
  exact fun n hn => h _ _ _ n hn

theorem crossCheck_grows (e : Ev) : e.Grows e.crossCheck := by
  have h : ∀ (e' : Ev) a b, e'.Grows (e'.faultChange .loadDisagree a b) := fun e' a b => faultChange_grows e' _ a b
  exact fun n hn => h _ _ _ n hn

/-! ## The rig and the lines -/

theorem judgeRig_grows (e : Ev) : e.Grows e.judgeRig := by
  unfold Ev.judgeRig
  split
  · exact Ev.Grows.refl e
  · simp only
    split
    · exact fun n hn => by simp [hn]
    · exact fun n hn => hn

theorem changeOpenEntry_notices (e : Ev) (c : LineCtx) (f : PassEntry → PassEntry) :
    (e.changeOpenEntry c f).notices = e.notices := by
  unfold Ev.changeOpenEntry
  split <;> rfl

theorem judgeLineLimit_grows (e : Ev) (l : GLine) (c : LineCtx) (v : Nat) : e.Grows (e.judgeLineLimit l c v) := by
  unfold Ev.judgeLineLimit
  simp only
  split
  · exact fun n hn => by simp [changeOpenEntry_notices, hn]
  · exact fun n hn => hn

theorem judgeLineRefusal_grows (e : Ev) (l : GLine) (c : LineCtx) (v : Nat) : e.Grows (e.judgeLineRefusal l c v) := by
  unfold Ev.judgeLineRefusal
  simp only
  split
  · exact fun n hn => by simp [changeOpenEntry_notices, hn]
  · exact fun n hn => hn

theorem judgeLine_grows (e : Ev) (l : GLine) : e.Grows (e.judgeLine l) := by
  unfold Ev.judgeLine
  split
  · exact Ev.Grows.refl e
  · exact (judgeLineLimit_grows e _ _ _).trans (judgeLineRefusal_grows _ _ _ _)

/-! ## The watch unit -/

theorem actionHold_grows (e : Ev) (w : WatchId) (n : Option Nat) : e.Grows (e.actionHold w n) := by
  unfold Ev.actionHold
  split
  · exact writeHold_grows _ _ _ _ _
  · exact Ev.Grows.refl e

theorem actionTrip_grows (e : Ev) (w : WatchId) (v : Int) : e.Grows (e.actionTrip w v) := by
  intro n hn
  have : n ∈ ((e.changeWatch w WatchState.trip).actionHold w
      (relatedSection e.st (e.st.config.watch.get w).source)).notices := actionHold_grows _ _ _ n hn
  unfold Ev.actionTrip
  simp only [Ev.raise_notices, List.mem_append]
  exact .inl this

theorem tripWatch_grows (e : Ev) (w : WatchId) (v : Int) : e.Grows (e.tripWatch w v) := by
  unfold Ev.tripWatch
  split
  · exact fun n hn => by simp [Ev.stepTrip, Ev.changeWatch, hn]
  · exact actionTrip_grows e w v

theorem countWatch_grows (e : Ev) (w : WatchId) (b : Bool) (v : Int) : e.Grows (e.countWatch w b v) := by
  unfold Ev.countWatch
  split
  · split
    · exact tripWatch_grows e w v
    · exact fun n hn => hn
  · exact fun n hn => hn

theorem evaluateWatch_grows (e : Ev) (w : WatchId) : e.Grows (e.evaluateWatch w) := by
  unfold Ev.evaluateWatch
  simp only
  split
  · exact Ev.Grows.refl e
  · exact countWatch_grows _ _ _ _

theorem feedWatches_grows (e : Ev) (fed : WatchSource → Bool) : e.Grows (e.feedWatches fed) :=
  grows_foldl _ (fun a w => evaluateWatch_grows a w) _ e

theorem evaluateRise_grows (e : Ev) (w : WatchId) : e.Grows (e.evaluateRise w) := by
  unfold Ev.evaluateRise
  simp only
  split
  · exact fun n hn => hn
  · exact fun n hn => countWatch_grows _ w _ _ n hn

/-! ## The stressing engine -/

theorem changeResult_notices (e : Ev) (f : TestResult → TestResult) : (e.changeResult f).notices = e.notices := by
  unfold Ev.changeResult
  split <;> rfl

theorem takeReading_notices (e : Ev) (b : ReadingBody) : (e.takeReading b).notices = e.notices := by
  unfold Ev.takeReading
  split <;> rfl

theorem returnReadings_notices (e : Ev) (back : List Nat) : (e.returnReadings back).notices = e.notices := by
  unfold Ev.returnReadings
  split <;> rfl

theorem announceStep_grows (e : Ev) : e.Grows e.announceStep := by
  unfold Ev.announceStep
  split
  · exact Ev.Grows.refl e
  · exact grows_raise e _

theorem moveOn_grows (e : Ev) : e.Grows e.moveOn := by
  unfold Ev.moveOn
  exact fun n hn => announceStep_grows _ n hn

theorem endWith_grows (e : Ev) (v : Verdict) : e.Grows (e.endWith v) := by
  unfold Ev.endWith
  split
  · exact Ev.Grows.refl e
  · intro n hn
    simp only [Ev.raise_notices, List.mem_append]
    exact .inl (changeStage_grows _ _ _ n hn)

theorem voidHold_grows (e : Ev) (x : Session) (top : StageFrame) (h : HoldCtx) (c : VoidCause) :
    e.Grows (e.voidHold x top h c) := by
  unfold Ev.voidHold
  intro n hn
  have hn' : n ∈ (e.returnReadings top.holdReadings).notices := by rw [returnReadings_notices]; exact hn
  simp only
  split
  · exact endWith_grows _ _ n (by simp [Ev.changeSession, hn'])
  · simp [Ev.changeSession, hn']

/-- A void is reported. -/
theorem voidHold_raises (e : Ev) (x : Session) (top : StageFrame) (h : HoldCtx) (c : VoidCause) :
    ∃ n ∈ (e.voidHold x top h c).notices, voidsHold n = true := by
  unfold Ev.voidHold
  simp only
  split
  · exact ⟨_, endWith_grows _ _ _ (raised_self _ _), rfl⟩
  · exact ⟨_, raised_self _ _, rfl⟩

theorem writeCreep_notices (e : Ev) (b : Bool) (k : Int) : (e.writeCreep b k).notices = e.notices := by
  unfold Ev.writeCreep
  split
  · exact changeResult_notices e _
  · rfl

theorem completeHold_grows (e : Ev) (top : StageFrame) (k : Option Int) : e.Grows (e.completeHold top k) := by
  intro n hn
  cases k with
  | none =>
    unfold Ev.completeHold
    simp only
    split
    · exact hn
    · exact moveOn_grows _ n (by simp [Ev.changeSession, hn])
  | some k =>
    have hn' : n ∈ (e.writeCreep top.critical k).notices := by rw [writeCreep_notices]; exact hn
    unfold Ev.completeHold
    simp only
    split
    · exact hn'
    · exact moveOn_grows _ n (by simp [Ev.changeSession, hn'])

theorem failCreep_grows (e : Ev) (top : StageFrame) (k : Int) : e.Grows (e.failCreep top k) := by
  intro n hn
  exact endWith_grows _ _ n (by rw [writeCreep_notices]; exact hn)

theorem decideAtD_grows (e : Ev) (top : StageFrame) (h : HoldCtx) : e.Grows (e.decideAtD top h) := by
  unfold Ev.decideAtD
  split
  · exact completeHold_grows e _ _
  simp only
  split
  · exact fun n hn => completeHold_grows _ _ _ n hn
  split
  · exact fun n hn => hn
  · exact fun n hn => failCreep_grows _ _ _ n hn

theorem decideAt10D_grows (e : Ev) (top : StageFrame) (h : HoldCtx) : e.Grows (e.decideAt10D top h) := by
  unfold Ev.decideAt10D
  simp only
  split
  · exact fun n hn => completeHold_grows _ _ _ n hn
  · exact fun n hn => failCreep_grows _ _ _ n hn

theorem reachPoint_grows (e : Ev) (x : Session) (h : HoldCtx) (i : Nat) : e.Grows (e.reachPoint x h i) := by
  unfold Ev.reachPoint
  intro n hn
  have hn' : n ∈ (e.takeReading (readingNow e.st .holdPoint)).notices := by rw [takeReading_notices]; exact hn
  simp only
  split
  · exact hn'
  split
  · exact decideAtD_grows _ _ _ n (by simp [Ev.changeSession, hn'])
  split
  · exact decideAt10D_grows _ _ _ n (by simp [Ev.changeSession, hn'])
  · simp [Ev.changeSession, hn']

theorem judgeHold_grows (e : Ev) (x : Session) (top : StageFrame) (h : HoldCtx) : e.Grows (e.judgeHold x top h) := by
  have hc : ∀ b c h', e.Grows (e.countHold x top h' b c) := by
    intro b c h'
    unfold Ev.countHold
    split
    · exact voidHold_grows _ _ _ _ _
    · exact fun n hn => hn
  unfold Ev.judgeHold
  split
  · split
    · exact voidHold_grows _ _ _ _ _
    · exact Ev.Grows.refl e
  split
  · split
    · exact hc _ _ _
    · exact Ev.Grows.refl e
  split
  · split
    · exact hc _ _ _
    · exact Ev.Grows.refl e
  unfold Ev.runHold
  simp only
  split
  · split
    · exact fun n hn => hn
    · exact fun n hn => reachPoint_grows _ _ _ _ n hn
  · exact fun n hn => hn

theorem failLift_grows (e : Ev) (x : Session) : e.Grows (e.failLift x) := by
  unfold Ev.failLift
  split
  · exact fun n hn => announceStep_grows _ n hn
  · exact endWith_grows e _

theorem judgeLift_grows (e : Ev) (x : Session) (l : LiftCtx) : e.Grows (e.judgeLift x l) := by
  unfold Ev.judgeLift
  split
  · exact Ev.Grows.refl e
  simp only
  split
  · unfold Ev.captureLift
    simp only
    intro n hn
    split
    · exact endWith_grows _ _ n (by simp [takeReading_notices, changeResult_notices, Ev.changeSession, hn])
    · exact failLift_grows _ _ n (by simp [takeReading_notices, changeResult_notices, Ev.changeSession, hn])
  split
  · intro n hn
    exact failLift_grows _ _ n (by simp [takeReading_notices, Ev.changeSession, hn])
  · exact fun n hn => hn

theorem judgeSession_grows (e : Ev) : e.Grows e.judgeSession := by
  unfold Ev.judgeSession
  split
  · exact Ev.Grows.refl e
  split
  · exact judgeHold_grows _ _ _ _
  · exact judgeLift_grows _ _ _
  · exact Ev.Grows.refl e

/-! ## The sample set -/

theorem monitored_grows (x : SampleIn) (s : State) : (measuredEvent x s).Grows (monitoredEvent x s) :=
  ((judgeRig_grows _).trans (judgeLine_grows _ _)).trans (judgeLine_grows _ _)

theorem watched_grows (x : SampleIn) (s : State) : (monitoredEvent x s).Grows (watchedEvent x s) :=
  feedWatches_grows _ _

theorem sample_grows (x : SampleIn) (s : State) : (watchedEvent x s).Grows (sampleEvent x s) :=
  fun n hn => judgeSession_grows _ n hn

end Sys2Proof.Machine
end

