-- ==== Sys2Proof/Laws/Pool.lean ====
section
/-! SUPPORT. What each operation does to the reading pool and to the reservation of the open session, and the pool after a
reset. -/

namespace Sys2Proof.Machine

theorem PoolSound.of_same {s t : State} (h1 : t.anchors = s.anchors) (h2 : t.pool = s.pool)
    (h3 : t.session = s.session) (h : PoolSound s) : PoolSound t := by
  obtain ⟨a, b, c, d, e, f, g, i, j⟩ := h
  refine ⟨h1 ▸ a, h2 ▸ b, h2 ▸ c, h2 ▸ d, h2 ▸ e, h1 ▸ f, by rw [h1, h3]; exact g, by rw [h2, h3]; exact i, ?_⟩
  intro x hx
  obtain ⟨k, l, m, n⟩ := j x (h3 ▸ hx)
  exact ⟨by rw [h1]; exact k, by rw [h2]; exact l, m, by rw [h2]; exact n⟩

theorem PoolSound.of_frame {s t ps} (hf : OnlyChanges ps s t) (h1 : Part.anchors ∉ ps) (h2 : Part.pool ∉ ps)
    (h3 : Part.session ∉ ps) (h : PoolSound s) : PoolSound t :=
  h.of_same (hf _ h1) (hf _ h2) (hf _ h3)

/-- A record replaced by one of the same stage kind, list and reservation. -/
theorem PoolSound.replace {s t : State} {r new : AnchorRec} (hf : findAnchor s new.id = some r)
    (h1 : new.stage = r.stage ∨ (r.stage ≠ .stressing ∧ new.stage ≠ .stressing)) (h2 : new.reserved = r.reserved)
    (h3 : new.result ≠ none ∨ new.stage ≠ .stressing) (h4 : ∀ i, ListPlace.entry i ∈ readingsOf new → i < 8192)
    (ha : t.anchors = replaceAnchor s.anchors new) (hu : t.pool.used.Sublist s.pool.used)
    (hr : t.pool.reserved = s.pool.reserved) (hs : t.session = s.session) (h : PoolSound s) : PoolSound t := by
  obtain ⟨a, b, c, d, e, f, g, i, j⟩ := h
  have hid : r.id = new.id := findAnchor_id hf
  have hmem := fun q => mem_replace a hf q
  have hrm : r ∈ s.anchors := List.mem_of_find?_eq_some hf
  refine ⟨by rw [ha, replace_ids]; exact a, hr ▸ b, fun i hi => ?_, d.sublist (hu.map _), fun x hx => e x (hu.subset
      hx), ?_, ?_, by rw [hs, hr]; exact i, ?_⟩
  · have := c i (hr ▸ hi)
    exact ⟨this.1, fun hm => this.2 ((hu.map (·.index)).subset hm)⟩
  · rw [ha]; intro q hq
    rcases (hmem q).1 hq with rfl | ⟨hq, _⟩
    · exact h4
    · exact f q hq
  · rw [ha, hs]; intro q hq hne
    rcases (hmem q).1 hq with rfl | ⟨hq, _⟩
    · have := g r hrm (fun x hx => by rw [hid]; exact hne x hx)
      rw [h2]
      refine ⟨this.1, ?_⟩
      rcases h1 with h1 | h1
      · rw [h1]; exact this.2
      · exact h1.2
    · exact g q hq hne
  · intro x hx
    obtain ⟨⟨q, hq, k1, k2, k3, k4⟩, l, m, n⟩ := j x (hs ▸ hx)
    refine ⟨?_, by rw [hr]; exact l, m, by rw [hr]; exact n⟩
    rw [ha]
    by_cases hqn : q.id = new.id
    · have h5 := find_of_mem a hq
      rw [hqn] at h5; unfold findAnchor at hf; rw [hf] at h5; cases h5
      have hst : new.stage = .stressing := by
        rcases h1 with h1 | h1
        · rw [h1]; exact k2
        · exact absurd k2 h1.1
      refine ⟨new, (hmem _).2 (.inl rfl), by rw [← hid]; exact k1, hst, ?_, by rw [h2]; exact k4⟩
      rcases h3 with h3 | h3
      · exact h3
      · exact absurd hst h3
    · exact ⟨q, (hmem _).2 (.inr ⟨hq, hqn⟩), k1, k2, k3, k4⟩

theorem PoolSound.stage {e : Ev} {s : State} {r new : AnchorRec} (hf : findAnchor s new.id = some r)
    (h1 : r.stage ≠ .stressing) (h1' : new.stage ≠ .stressing) (h2 : new.reserved = r.reserved)
    (h4 : ∀ i, ListPlace.entry i ∈ readingsOf new → ListPlace.entry i ∈ readingsOf r) (ha : e.st.anchors = s.anchors)
    (hu : e.st.pool.used.Sublist s.pool.used) (hr : e.st.pool.reserved = s.pool.reserved)
    (hs : e.st.session = s.session) (h : PoolSound s) : PoolSound (e.changeStage r new).st := by
  have hrm : r ∈ s.anchors := List.mem_of_find?_eq_some hf
  have hp := changeStage_frame e r new
  refine PoolSound.replace hf (.inr ⟨h1, h1'⟩) h2 (.inr h1') (fun i hi => h.lists r hrm i (h4 i hi)) ?_ ?_ ?_ ?_ h
  · rw [changeStage_anchors, ha]
  · rw [hp .pool (by simp)]; exact hu
  · rw [hp .pool (by simp)]; exact hr
  · rw [hp .session (by simp)]; exact hs

theorem openTest_spec {s : State} (h : PoolSound s) {x} (hx : s.session = some x) : ∃ o, openTest s = some o ∧
    o.sess = x ∧ o.rec_ ∈ s.anchors ∧ o.rec_.stage = .stressing ∧ o.rec_.reserved = x.reservation := by
  obtain ⟨⟨r, hr, k1, k2, k3, k4⟩, _⟩ := h.open_ x hx
  have hf : findAnchor s x.anchor = some r := by rw [← k1]; exact find_of_mem h.ids hr
  cases hres : r.result with
  | none => exact absurd hres k3
  | some t =>
    refine ⟨{ sess := x, rec_ := r, result := t }, ?_, rfl, hr, k2, k4⟩
    unfold openTest
    simp [hx, hf, hres]

/-- What an open test is, in a sound state. -/
theorem openTest_rec {s : State} (h : PoolSound s) {o} (ho : openTest s = some o) : o.rec_.stage = .stressing ∧
    o.rec_.reserved = o.sess.reservation := by
  obtain ⟨h1, h2, h3, h4⟩ := openTest_find' ho
  obtain ⟨o', ho', _, _, e1, e2⟩ := openTest_spec h h2
  rw [ho] at ho'; cases ho'
  exact ⟨e1, e2⟩

theorem changeResult_pool (e : Ev) (f) (hf : ∀ t, (f t).readings = t.readings) (h : PoolSound e.st) :
    PoolSound (e.changeResult f).st := by
  unfold Ev.changeResult
  split
  · exact h
  · rename_i o ho
    obtain ⟨h1, h2, h3, h4⟩ := openTest_find' ho
    have hrm : o.rec_ ∈ e.st.anchors := List.mem_of_find?_eq_some h1
    refine PoolSound.replace (s := e.st) (r := o.rec_) (new := { o.rec_ with result := some (f o.result) }) h1 (.inl
        rfl) rfl (.inl (by simp)) (fun i hi => ?_) rfl (List.Sublist.refl _) rfl rfl h
    apply h.lists _ hrm
    simp only [readingsOf, h4] at hi ⊢
    rw [← hf]; exact hi

theorem changeSession_pool (e : Ev) (f : Session → Session)
    (h1 : ∀ x, e.st.session = some x → (f x).anchor = x.anchor ∧ (f x).reservation = x.reservation ∧ (holdIndices (f x)).Nodup ∧ ∀ i ∈ holdIndices (f x), i < 8192 ∧ i ∉ e.st.pool.reserved)
    (h : PoolSound e.st) : PoolSound (e.changeSession f).st := by
  obtain ⟨a, b, c, d, g, k, l, m, n⟩ := h
  refine ⟨a, b, c, d, g, k, ?_, ?_, ?_⟩
  · intro r hr hne
    refine l r hr fun x hx => ?_
    have := hne (f x) (by simp [Ev.changeSession, hx])
    rw [(h1 x hx).1] at this; exact this
  · intro hn
    apply m
    simpa [Ev.changeSession] using hn
  · intro y hy
    simp only [Ev.changeSession, Ev.mod_st, Option.map_eq_some_iff] at hy
    obtain ⟨x, hx, rfl⟩ := hy
    obtain ⟨g1, g2, g3, g4⟩ := h1 x hx
    obtain ⟨⟨r, hr, k1, k2, k3, k4⟩, l, _, _⟩ := n x hx
    exact ⟨⟨r, hr, by rw [g1]; exact k1, k2, k3, by rw [g2]; exact k4⟩, by rw [g2]; exact l, g3, g4⟩

theorem changeSession_pool' (e : Ev) (f : Session → Session)
    (h1 : ∀ x, (f x).anchor = x.anchor ∧ (f x).reservation = x.reservation ∧ (holdIndices (f x)).Sublist (holdIndices x))
    (h : PoolSound e.st) : PoolSound (e.changeSession f).st := by
  refine changeSession_pool e f (fun x hx => ?_) h
  obtain ⟨_, _, g3, g4⟩ := h.open_ x hx
  exact ⟨(h1 x).1, (h1 x).2.1, g3.sublist (h1 x).2.2, fun i hi => g4 i ((h1 x).2.2.subset hi)⟩

theorem tablePut_indices (t : List (Slot PoolEntry)) (i v) (h : (t.map (·.index)).Pairwise (· < ·))
    (hn : i ∉ t.map (·.index)) : ((tablePut t i v).map (·.index)).Pairwise (· < ·) ∧ ∀ e, e ∈ tablePut t i v →
    e.index = i ∨ e ∈ t := by
  induction t with
  | nil => simp [tablePut]
  | cons y rest ih =>
    simp only [List.map_cons, List.pairwise_cons, List.mem_cons, not_or] at h hn
    obtain ⟨i1, i2⟩ := ih h.2 hn.2
    simp only [tablePut]
    split
    · rename_i hlt
      refine ⟨?_, ?_⟩
      · simp only [List.map_cons, List.pairwise_cons]
        refine ⟨fun z hz => ?_, i1⟩
        obtain ⟨w, hw, rfl⟩ := List.mem_map.1 hz
        rcases i2 w hw with h' | h'
        · omega
        · exact h.1 _ (List.mem_map_of_mem (f := (·.index)) h')
      · intro e he
        rcases List.mem_cons.1 he with rfl | he
        · right; simp
        · rcases i2 e he with h' | h'
          · exact .inl h'
          · right; simp [h']
    · split
      · rename_i h1 h2; exact absurd h2.symm hn.1
      · rename_i h1 h2
        refine ⟨?_, ?_⟩
        · simp only [List.map_cons, List.pairwise_cons, List.mem_cons]
          refine ⟨fun z hz => ?_, h⟩
          rcases hz with rfl | hz
          · omega
          · have := h.1 z hz; omega
        · intro e he
          rcases List.mem_cons.1 he with rfl | he
          · left; rfl
          · right; exact he

theorem takeReading_pool (e : Ev) (b) (h : PoolSound e.st) : PoolSound (e.takeReading b).st := by
  unfold Ev.takeReading
  split
  · rename_i o i ho hi
    obtain ⟨h1, h2, h3, h4⟩ := openTest_find' ho
    obtain ⟨h5, h6⟩ := openTest_rec h ho
    have hrm : o.rec_ ∈ e.st.anchors := List.mem_of_find?_eq_some h1
    have hmem := fun q => mem_replace (new := appendReading o i) h.ids (by exact h1) q
    obtain ⟨rest, hrest⟩ : ∃ rest, e.st.pool.reserved = i :: rest := by
      cases hr : e.st.pool.reserved with
      | nil => rw [hr] at hi; cases hi
      | cons a l => rw [hr] at hi; cases hi; exact ⟨l, rfl⟩
    obtain ⟨⟨r, hr, k1, k2, k3, k4⟩, k5, k6, k7⟩ := h.open_ _ h2
    have hri := h.rsvIn i (by simp [hrest])
    have hput := tablePut_indices e.st.pool.used i
        { owner := o.rec_.id, position := o.result.readings.length + 1, stamp := o.result.stamp, body := some b }
        h.usd hri.2
    have hpw := h.rsv
    rw [hrest, List.pairwise_cons] at hpw
    rw [hrest] at k5
    simp only [List.length_cons] at k5
    refine ⟨?_, ?_, ?_, hput.1, ?_, ?_, ?_, ?_, ?_⟩
    · show ((replaceAnchor e.st.anchors (appendReading o i)).map (·.id)).Nodup
      rw [replace_ids]; exact h.ids
    · show (e.st.pool.reserved.drop 1).Pairwise _
      rw [hrest]; exact hpw.2
    · show ∀ j ∈ e.st.pool.reserved.drop 1, _
      rw [hrest]
      intro j hj
      have hj' : j ∈ rest := hj
      have := h.rsvIn j (by rw [hrest]; simp [hj'])
      refine ⟨this.1, fun hm => ?_⟩
      obtain ⟨w, hw, hwj⟩ := List.mem_map.1 hm
      rcases hput.2 w hw with hh | hh
      · have := hpw.1 j hj'; omega
      · exact this.2 (hwj ▸ List.mem_map_of_mem (f := (·.index)) hh)
    · intro w hw
      rcases hput.2 w hw with hh | hh
      · rw [hh]; exact hri.1
      · exact h.usdIn w hh
    · intro q hq
      rcases (hmem q).1 hq with rfl | ⟨hq, _⟩
      · intro j hj
        simp only [readingsOf, appendReading, List.mem_append, List.mem_singleton, ListPlace.entry.injEq] at hj
        rcases hj with hj | rfl
        · exact h.lists _ hrm j (by simpa [readingsOf, h4] using hj)
        · exact hri.1
      · exact h.lists q hq
    · intro q hq hne
      rcases (hmem q).1 hq with rfl | ⟨hq, _⟩
      · exact absurd h3 (hne { o.sess with reservation := o.sess.reservation - 1 }
          (by simp [Ev.changeSession, Ev.writeAnchor, Ev.mod, Ev.dirtied, h2]))
      · exact h.others q hq fun x hx => by
          rw [h2] at hx; cases hx
          exact hne { o.sess with reservation := o.sess.reservation - 1 }
              (by simp [Ev.changeSession, Ev.writeAnchor, Ev.mod, Ev.dirtied, h2])
    · intro hn
      simp [Ev.changeSession, Ev.writeAnchor, Ev.mod, Ev.dirtied, h2] at hn
    · intro y hy
      have : y = { o.sess with reservation := o.sess.reservation - 1 } := by
        simp [Ev.changeSession, Ev.writeAnchor, Ev.mod, Ev.dirtied, h2] at hy; exact hy.symm
      subst this
      refine ⟨⟨appendReading o i, (hmem _).2 (.inl rfl), h3, h5, by simp [appendReading], ?_⟩, ?_, k6, ?_⟩
      · show o.rec_.reserved - 1 = o.sess.reservation - 1
        rw [h6]
      · show (e.st.pool.reserved.drop 1).length = o.sess.reservation - 1
        rw [hrest]; simp; omega
      · intro j hj
        have := k7 j hj
        refine ⟨this.1, ?_⟩
        show j ∉ e.st.pool.reserved.drop 1
        rw [hrest]
        exact fun hm => this.2 (by rw [hrest]; simp [show j ∈ rest from hm])
  · exact h

/-- The session closed and its anchor moved to another stage. -/
theorem close_pool {e : Ev} {s : State} {o : OpenTest} {new : AnchorRec} (ho : openTest s = some o)
    (hid : new.id = o.rec_.id) (hst : new.stage ≠ .stressing) (hrv : new.reserved = 0)
    (hl : ∀ i, ListPlace.entry i ∈ readingsOf new → ListPlace.entry i ∈ readingsOf o.rec_)
    (ha : e.st.anchors = s.anchors) (hp : e.st.pool.used.Sublist s.pool.used) (hr : e.st.pool.reserved = [])
    (hs : e.st.session = none) (h : PoolSound s) : PoolSound (e.changeStage o.rec_ new).st := by
  obtain ⟨h1, h2, h3, h4⟩ := openTest_find' ho
  have hrm : o.rec_ ∈ s.anchors := List.mem_of_find?_eq_some h1
  have hfr := changeStage_frame e o.rec_ new
  have hmem := fun q => mem_replace (new := new) h.ids (by rw [hid]; exact h1) q
  have e1 : (e.changeStage o.rec_ new).st.anchors = replaceAnchor s.anchors new := by rw [changeStage_anchors, ha]
  have e2 : (e.changeStage o.rec_ new).st.pool = e.st.pool := hfr .pool (by simp)
  have e3 : (e.changeStage o.rec_ new).st.session = none := (hfr .session (by simp)).trans hs
  refine ⟨by rw [e1, replace_ids]; exact h.ids, by rw [e2, hr]; simp, by rw [e2, hr]; simp, by rw [e2]; exact h.usd.sublist (hp.map _), by rw [e2]; exact fun w hw => h.usdIn w (hp.subset hw), ?_, ?_, by rw [e2]; exact fun _ => hr, by rw [e3]; intro x hx; cases hx⟩
  · rw [e1]; intro q hq
    rcases (hmem q).1 hq with rfl | ⟨hq, _⟩
    · exact fun i hi => h.lists _ hrm i (hl i hi)
    · exact h.lists q hq
  · rw [e1]; intro q hq _
    rcases (hmem q).1 hq with rfl | ⟨hq, hne⟩
    · exact ⟨hrv, hst⟩
    · exact h.others q hq fun x hx => by rw [h2] at hx; cases hx; rw [hid, h3] at hne; exact hne

theorem endWith_pool (e : Ev) (v) (h : PoolSound e.st) : PoolSound (e.endWith v).st := by
  unfold Ev.endWith
  split
  · exact h
  · rename_i o ho
    refine close_pool (s := e.st) (e := e.mod closeSession) ho rfl ?_ rfl ?_ rfl (List.Sublist.refl _) rfl rfl h
    · simp only; unfold verdictStage; split <;> simp
    · intro i hi
      have := (openTest_find' ho).2.2.2
      simpa [readingsOf, judgedResult, this] using hi

theorem raise_pool {e : Ev} (n) (h : PoolSound e.st) : PoolSound (e.raise n).st := h

theorem announceStep_pool (e : Ev) (h : PoolSound e.st) : PoolSound e.announceStep.st := by
  rw [announceStep_st]; exact h

theorem moveOn_pool (e : Ev) (h : PoolSound e.st) : PoolSound e.moveOn.st := by
  refine announceStep_pool _ (changeSession_pool' _ _ (fun x => ?_) h)
  split <;> exact ⟨rfl, rfl, List.Sublist.refl _⟩

theorem takeSummaries_pool (e : Ev) (l p) (h : PoolSound e.st) : PoolSound (e.takeSummaries l p).st := by
  unfold Ev.takeSummaries
  split
  · exact h
  · rename_i f rest
    have h1 := takeReading_pool e (summaryBody e.st f p) h
    generalize e.takeReading (summaryBody e.st f p) = e1 at h1
    induction rest generalizing e1 with
    | nil => exact h1
    | cons g more ih =>
      simp only [List.foldl_cons]
      exact ih _ (takeReading_pool _ _ h1)

theorem evaluate_pool (e : Ev) (v) (h : PoolSound e.st) : PoolSound (e.evaluate v).st := by
  unfold Ev.evaluate
  have h1 : PoolSound ((match v.lapp with | none => e | some l => e.changeResult fun t => { t with lapp := some l })
      : Ev).st := by
    split
    · exact h
    · exact changeResult_pool _ _ (fun _ => rfl) h
  simp only
  split
  · exact moveOn_pool _ h1
  · exact endWith_pool _ _ h1

theorem drop_sublist (f : Nat) (x : Session) : (holdIndices
    { x with stages := x.stages.dropWhile fun g => decide (f < g.fraction) }).Sublist (holdIndices x) := by
  unfold holdIndices
  have key : ∀ {a b : List StageFrame}, a.Sublist b → (a.flatMap (·.holdReadings)).Sublist (b.flatMap
      (·.holdReadings)) := by
    intro a b hab
    induction hab with
    | slnil => exact List.Sublist.refl _
    | cons y _ ih => rw [List.flatMap_cons]; exact ih.trans (List.sublist_append_right _ _)
    | cons_cons y _ ih => rw [List.flatMap_cons, List.flatMap_cons]; exact ih.append_left _
  exact key (List.dropWhile_sublist _)

theorem unload_pool (e : Ev) (o f) (h : PoolSound e.st) : PoolSound (e.unload o f).st := by
  unfold Ev.unload
  simp only
  have := fun p => changeSession_pool' _ (fun x =>
      { x with stages := x.stages.dropWhile fun g => decide (f < g.fraction) }) (fun x => ⟨rfl, rfl, drop_sublist f
      x⟩) (takeSummaries_pool e (poppedFrames f o.sess) p h)
  split
  · exact evaluate_pool _ _ (this _)
  · exact moveOn_pool _ (this _)

theorem carryOut_pool (e : Ev) (o a) (h : PoolSound e.st) : PoolSound (e.carryOut o a).st := by
  unfold Ev.carryOut
  split
  · exact moveOn_pool _ (changeSession_pool' _ _ (fun x => ⟨rfl, rfl, List.Sublist.refl _⟩) h)
  · refine moveOn_pool _ (changeSession_pool' _ _ (fun x => ⟨rfl, rfl, ?_⟩) h)
    unfold holdIndices pushStage stageFrame
    simp
  · exact unload_pool _ _ _ h
  · exact changeSession_pool' _ _ (fun x => ⟨rfl, rfl, List.Sublist.refl _⟩) h
  all_goals exact h

theorem writeCreep_pool (e : Ev) (b k) (h : PoolSound e.st) : PoolSound (e.writeCreep b k).st := by
  unfold Ev.writeCreep
  split
  · exact changeResult_pool _ _ (fun _ => rfl) h
  · exact h

theorem changeTop_hold (x : Session) (f) (hf : ∀ g : StageFrame, (f g).holdReadings = g.holdReadings) :
    holdIndices (changeTop x f) = holdIndices x := by
  unfold changeTop holdIndices
  split
  · rename_i h; rw [h]
  · rename_i h; rw [h]; simp [hf]

theorem changeTop_keeps (x : Session) (f) : (changeTop x f).anchor = x.anchor ∧ (changeTop x f).reservation =
    x.reservation := by
  unfold changeTop; split <;> exact ⟨rfl, rfl⟩

theorem top_pool (e : Ev) (f) (hf : ∀ g : StageFrame, (f g).holdReadings = g.holdReadings) (h : PoolSound e.st) :
    PoolSound (e.changeSession fun x => changeTop x f).st :=
  changeSession_pool' _ _ (fun x => ⟨(changeTop_keeps x f).1, (changeTop_keeps x
      f).2, by rw [changeTop_hold x f hf]⟩) h

theorem completeHold_pool (e : Ev) (top k) (h : PoolSound e.st) : PoolSound (e.completeHold top k).st := by
  unfold Ev.completeHold
  have h1 : PoolSound ((match k with | none => e | some k => e.writeCreep top.critical k) : Ev).st := by
    split
    · exact h
    · exact writeCreep_pool _ _ _ h
  simp only
  split
  · exact h1
  · exact moveOn_pool _ (raise_pool _ (top_pool _ (fun f => { f with holdDone := true }) (fun _ => rfl) h1))

theorem failCreep_pool (e : Ev) (top k) (h : PoolSound e.st) : PoolSound (e.failCreep top k).st :=
  endWith_pool _ _ (writeCreep_pool _ _ _ h)

theorem decideAtD_pool (e : Ev) (top hh) (h : PoolSound e.st) : PoolSound (e.decideAtD top hh).st := by
  unfold Ev.decideAtD
  split
  · exact completeHold_pool _ _ _ h
  · have h2 := top_pool e (fun f => { f with ks := some (creepBetween e.st top 4 0) }) (fun _ => rfl) h
    simp only
    split
    · exact completeHold_pool _ _ _ h2
    · split
      · exact top_pool _ (fun f => { f with creepExtended := true }) (fun _ => rfl) h2
      · exact failCreep_pool _ _ _ h2

theorem decideAt10D_pool (e : Ev) (top hh) (h : PoolSound e.st) : PoolSound (e.decideAt10D top hh).st := by
  unfold Ev.decideAt10D
  have h2 := top_pool e (fun f => { f with ks2 := some (creepBetween e.st top 8 4) }) (fun _ => rfl) h
  simp only
  split
  · exact completeHold_pool _ _ _ h2
  · exact failCreep_pool _ _ _ h2

/-- TakeReading: what it leaves. -/
theorem takeReading_left (e : Ev) (b) (h : PoolSound e.st) {x} (hx : e.st.session = some x) {i rest} (hr :
    e.st.pool.reserved = i :: rest) :
    (e.takeReading b).st.session = some { x with reservation := x.reservation - 1 } ∧ (e.takeReading
        b).st.pool.reserved = rest := by
  obtain ⟨o, ho, rfl, _⟩ := openTest_spec h hx
  unfold Ev.takeReading
  rw [ho, hr]
  simp [Ev.changeSession, Ev.writeAnchor, Ev.mod, Ev.dirtied, hx, fillEntry, hr]

theorem pointTaken_pool (e : Ev) (hh' : HoldCtx) (i) (hi : e.st.pool.reserved.head? = some i) (h : PoolSound e.st) :
    PoolSound ((e.takeReading (readingNow e.st .holdPoint)).changeSession (fun y => setHoldCtx (changeTop y fun f =>
        { f with holdReadings := f.holdReadings ++ [i] }) hh')).st := by
  obtain ⟨rest, hrest⟩ : ∃ rest, e.st.pool.reserved = i :: rest := by
    cases hr : e.st.pool.reserved with
    | nil => rw [hr] at hi; cases hi
    | cons a l => rw [hr] at hi; cases hi; exact ⟨l, rfl⟩
  have h1 := takeReading_pool e (readingNow e.st .holdPoint) h
  refine changeSession_pool _ _ (fun y hy => ?_) h1
  cases hx : e.st.session with
  | none => rw [h.idle hx] at hrest; cases hrest
  | some x =>
    obtain ⟨l1, l2⟩ := takeReading_left e (readingNow e.st .holdPoint) h hx hrest
    rw [l1] at hy; cases hy
    obtain ⟨_, _, k6, k7⟩ := h.open_ x hx
    refine ⟨(changeTop_keeps _ _).1, (changeTop_keeps _ _).2, ?_⟩
    rw [l2]
    have hpw := h.rsv
    rw [hrest, List.pairwise_cons] at hpw
    have hi8 := (h.rsvIn i (by simp [hrest])).1
    have hnot : i ∉ holdIndices x := fun hm => (k7 i hm).2 (by simp [hrest])
    have hold : holdIndices (setHoldCtx (changeTop { x with reservation := x.reservation - 1 } fun f =>
        { f with holdReadings := f.holdReadings ++ [i] }) hh') = holdIndices x ∨
        (holdIndices (setHoldCtx (changeTop { x with reservation := x.reservation - 1 } fun f =>
            { f with holdReadings := f.holdReadings ++ [i] }) hh')).Perm (i :: holdIndices x) := by
      unfold setHoldCtx changeTop holdIndices
      simp only
      split
      · rename_i hst; left; simp [hst]
      · rename_i top more hst
        right
        simp only [hst, List.flatMap_cons, List.append_assoc, List.singleton_append]
        exact List.perm_middle
    rcases hold with hold | hold
    · rw [hold]
      exact ⟨k6, fun j hj => ⟨(k7 j hj).1, fun hm => (k7 j hj).2 (by rw [hrest]; simp [hm])⟩⟩
    · refine ⟨hold.nodup_iff.2 (List.nodup_cons.2 ⟨hnot, k6⟩), fun j hj => ?_⟩
      rcases List.mem_cons.1 (hold.mem_iff.1 hj) with rfl | hj
      · exact ⟨hi8, fun hm => by have := hpw.1 _ hm; omega⟩
      · exact ⟨(k7 j hj).1, fun hm => (k7 j hj).2 (by rw [hrest]; simp [hm])⟩

theorem reachPoint_pool (e : Ev) (x : Session) (hh i) (hi : e.st.pool.reserved.head? = some i) (h : PoolSound e.st) :
    PoolSound (e.reachPoint x hh i).st := by
  have := pointTaken_pool e { hh with nextPoint := hh.nextPoint + 1 } i hi h
  unfold Ev.reachPoint
  simp only
  split
  · exact this
  · split_ifs
    · exact decideAtD_pool _ _ _ (raise_pool _ this)
    · exact decideAt10D_pool _ _ _ (raise_pool _ this)
    · exact raise_pool _ this

theorem setHold_pool (e : Ev) (hh) (h : PoolSound e.st) : PoolSound (e.changeSession fun y => setHoldCtx y hh).st :=
  changeSession_pool' _ _ (fun x => ⟨rfl, rfl, List.Sublist.refl _⟩) h

theorem runHold_pool (e : Ev) (x hh) (h : PoolSound e.st) : PoolSound (e.runHold x hh).st := by
  unfold Ev.runHold
  simp only
  have := setHold_pool e { hh with begun := true, elapsed := hh.elapsed + 1, pause := 0 } h
  split
  · split
    · exact this
    · exact reachPoint_pool _ _ _ _ (by assumption) this
  · exact this

theorem insertNat_spec (n : Nat) (l : List Nat) (h : l.Pairwise (· < ·)) (hn : n ∉ l) :
    (insertNat n l).Pairwise (· < ·) ∧ (insertNat n l).Perm (n :: l) := by
  induction l with
  | nil => simp [insertNat]
  | cons m rest ih =>
    simp only [List.mem_cons, not_or] at hn
    rw [List.pairwise_cons] at h
    obtain ⟨i1, i2⟩ := ih h.2 hn.2
    simp only [insertNat]
    split
    · rename_i hlt
      refine ⟨?_, .refl _⟩
      rw [List.pairwise_cons, List.pairwise_cons]
      refine ⟨fun z hz => ?_, h⟩
      rcases List.mem_cons.1 hz with rfl | hz
      · exact hlt
      · exact Nat.lt_trans hlt (h.1 z hz)
    · split
      · rename_i _ he; exact absurd he hn.1
      · refine ⟨?_, (i2.cons m).trans (.swap n m rest)⟩
        rw [List.pairwise_cons]
        refine ⟨fun z hz => ?_, i1⟩
        rcases List.mem_cons.1 (i2.mem_iff.1 hz) with rfl | hz
        · omega
        · exact h.1 z hz

theorem insertAll_spec (back : List Nat) : ∀ l : List Nat, l.Pairwise (· < ·) → back.Nodup → (∀ i ∈ back, i ∉ l) →
    (back.foldl (fun acc i => insertNat i acc) l).Pairwise (· < ·) ∧
    (back.foldl (fun acc i => insertNat i acc) l).Perm (back ++ l) := by
  induction back with
  | nil => intro l h _ _; exact ⟨h, .refl _⟩
  | cons b rest ih =>
    intro l h hn hd
    rw [List.nodup_cons] at hn
    obtain ⟨j1, j2⟩ := insertNat_spec b l h (hd b (by simp))
    obtain ⟨k1, k2⟩ := ih (insertNat b l) j1 hn.2 (fun i hi hm => by
      rcases List.mem_cons.1 (j2.mem_iff.1 hm) with rfl | hm
      · exact hn.1 hi
      · exact hd i (by simp [hi]) hm)
    refine ⟨k1, k2.trans ?_⟩
    exact (List.Perm.append_left rest j2).trans List.perm_middle

/-- The readings of the top frame given back and the frame voided. -/
theorem void_pool (e : Ev) (x : Session) (top : StageFrame) (rest : List StageFrame) (hx : e.st.session = some x)
    (hst : x.stages = top :: rest) (f : Session → Session)
    (hf : ∀ y : Session, (f y).anchor = y.anchor ∧ (f y).reservation = y.reservation ∧ (y.stages = top :: rest → holdIndices (f y) = rest.flatMap (·.holdReadings)))
    (h : PoolSound e.st) : PoolSound ((e.returnReadings top.holdReadings).changeSession f).st := by
  obtain ⟨o, ho, rfl, hrm, ho1, ho2⟩ := openTest_spec h hx
  obtain ⟨h1, h2, h3, h4⟩ := openTest_find' ho
  obtain ⟨_, k5, k6, k7⟩ := h.open_ _ hx
  have hback : top.holdReadings.Nodup ∧ (∀ i ∈ top.holdReadings, i < 8192 ∧ i ∉ e.st.pool.reserved) ∧ (rest.flatMap
      (·.holdReadings)).Nodup ∧ ∀ i ∈ rest.flatMap (·.holdReadings), i ∉ top.holdReadings := by
    unfold holdIndices at k6 k7
    rw [hst, List.flatMap_cons] at k6 k7
    rw [List.nodup_append] at k6
    exact ⟨k6.1, fun i hi => k7 i (by simp [hi]), k6.2.1, fun i hi hm => k6.2.2 i hm i hi rfl⟩
  obtain ⟨b1, b2, b3, b4⟩ := hback
  obtain ⟨q1, q2⟩ := insertAll_spec top.holdReadings e.st.pool.reserved h.rsv b1 (fun i hi => (b2 i hi).2)
  unfold Ev.returnReadings
  rw [ho]
  simp only
  generalize hN : ({ o.rec_ with
        reserved := o.rec_.reserved + top.holdReadings.length
        result := some
            { o.result with readings := o.result.readings.take (o.result.readings.length - top.holdReadings.length) } } : AnchorRec) = new
  have hnid : new.id = o.rec_.id := by rw [← hN]
  have hmem := fun q => mem_replace (new := new) h.ids (by rw [hnid]; exact h1) q
  have hsess : ∀ y, ((((e.mod fun s =>
      { s with pool := { reserved := top.holdReadings.foldl (fun acc i => insertNat i acc) s.pool.reserved, used := s.pool.used.filter fun r => !top.holdReadings.contains r.index } }).changeSession fun x => { x with reservation := x.reservation + top.holdReadings.length }).writeAnchor new).changeSession f).st.session = some y → y = f { o.sess with reservation := o.sess.reservation + top.holdReadings.length } := by
    intro y hy
    simp [Ev.changeSession, Ev.writeAnchor, Ev.mod, Ev.dirtied, hx] at hy; exact hy.symm
  have hsess' : ((((e.mod fun s =>
      { s with pool := { reserved := top.holdReadings.foldl (fun acc i => insertNat i acc) s.pool.reserved, used := s.pool.used.filter fun r => !top.holdReadings.contains r.index } }).changeSession fun x => { x with reservation := x.reservation + top.holdReadings.length }).writeAnchor new).changeSession f).st.session = some (f { o.sess with reservation := o.sess.reservation + top.holdReadings.length }) := by
    simp [Ev.changeSession, Ev.writeAnchor, Ev.mod, Ev.dirtied, hx]
  obtain ⟨g1, g2, g3⟩ := hf { o.sess with reservation := o.sess.reservation + top.holdReadings.length }
  have g3 := g3 hst
  refine ⟨?_, q1, ?_, ?_, ?_, ?_, ?_, ?_, ?_⟩
  · show ((replaceAnchor e.st.anchors new).map (·.id)).Nodup
    rw [replace_ids]; exact h.ids
  · intro j hj
    have hj' : j ∈ top.holdReadings.foldl (fun acc i => insertNat i acc) e.st.pool.reserved := hj
    rw [q2.mem_iff, List.mem_append] at hj'
    have hnf : ∀ i, i ∈ (e.st.pool.used.filter fun r => !top.holdReadings.contains r.index).map (·.index) → i ∉
        top.holdReadings ∧ i ∈ e.st.pool.used.map (·.index) := by
      intro i hi
      obtain ⟨w, hw, rfl⟩ := List.mem_map.1 hi
      have := List.mem_filter.1 hw
      exact ⟨by simpa using this.2, List.mem_map_of_mem (f := (·.index)) this.1⟩
    rcases hj' with hj' | hj'
    · exact ⟨(b2 j hj').1, fun hm => (hnf j hm).1 hj'⟩
    · exact ⟨(h.rsvIn j hj').1, fun hm => (h.rsvIn j hj').2 (hnf j hm).2⟩
  · exact h.usd.sublist (List.filter_sublist.map _)
  · intro w hw
    exact h.usdIn w (List.mem_filter.1 hw).1
  · intro q hq
    rcases (hmem q).1 hq with rfl | ⟨hq, _⟩
    · intro j hj
      rw [← hN] at hj
      simp only [readingsOf] at hj
      exact h.lists _ hrm j (by simpa [readingsOf, h4] using List.mem_of_mem_take hj)
    · exact h.lists q hq
  · intro q hq hne
    have hne' := hne _ hsess'
    rw [g1] at hne'
    rcases (hmem q).1 hq with rfl | ⟨hq, _⟩
    · rw [hnid] at hne'; exact absurd h3 hne'
    · exact h.others q hq fun y hy => by rw [hx] at hy; cases hy; exact hne'
  · intro hn; rw [hsess'] at hn; cases hn
  · intro y hy
    cases hsess y hy
    refine ⟨⟨new, (hmem _).2 (.inl rfl), ?_, by rw [← hN]; exact ho1, by rw [← hN]; simp, ?_⟩, ?_, ?_, ?_⟩
    · rw [g1, hnid]; exact h3
    · rw [g2, ← hN]; simp [ho2]
    · rw [g2]
      show (top.holdReadings.foldl (fun acc i => insertNat i acc) e.st.pool.reserved).length = _
      rw [q2.length_eq, List.length_append, k5]; simp; omega
    · rw [g3]; exact b3
    · rw [g3]
      intro j hj
      have hjm : j ∈ holdIndices o.sess := by unfold holdIndices; rw [hst, List.flatMap_cons]; simp [hj]
      refine ⟨(k7 j hjm).1, fun hm => ?_⟩
      have hm' : j ∈ top.holdReadings.foldl (fun acc i => insertNat i acc) e.st.pool.reserved := hm
      rw [q2.mem_iff, List.mem_append] at hm'
      rcases hm' with hm' | hm'
      · exact b4 j hj hm'
      · exact (k7 j hjm).2 hm'

theorem voidHold_pool (e : Ev) (x top rest hh c) (hx : e.st.session = some x) (hst : x.stages = top :: rest)
    (h : PoolSound e.st) : PoolSound (e.voidHold x top hh c).st := by
  unfold Ev.voidHold
  simp only
  split
  · refine endWith_pool _ _ (raise_pool _ (void_pool e x top rest hx hst _ (fun y => ?_) h))
    refine ⟨(changeTop_keeps _ _).1, (changeTop_keeps _ _).2, fun hy => ?_⟩
    unfold changeTop holdIndices; rw [hy]; simp [voidedFrame]
  · refine raise_pool _ (void_pool e x top rest hx hst _ (fun y => ?_) h)
    refine ⟨(changeTop_keeps _ _).1, (changeTop_keeps _ _).2, fun hy => ?_⟩
    unfold setHoldCtx changeTop holdIndices; rw [hy]; simp [voidedFrame]

theorem countHold_pool (e : Ev) (x top rest hh b c) (hx : e.st.session = some x) (hst : x.stages = top :: rest)
    (h : PoolSound e.st) : PoolSound (e.countHold x top hh b c).st := by
  unfold Ev.countHold
  split
  · exact voidHold_pool _ _ _ _ _ _ hx hst h
  · exact setHold_pool _ _ h

theorem judgeHold_pool (e : Ev) (x top rest hh) (hx : e.st.session = some x) (hst : x.stages = top :: rest)
    (h : PoolSound e.st) : PoolSound (e.judgeHold x top hh).st := by
  unfold Ev.judgeHold
  split_ifs <;> first
    | exact h
    | exact voidHold_pool _ _ _ _ _ _ hx hst h
    | exact countHold_pool _ _ _ _ _ _ _ hx hst h
    | exact runHold_pool _ _ _ h

theorem failLift_pool (e : Ev) (x) (h : PoolSound e.st) : PoolSound (e.failLift x).st := by
  unfold Ev.failLift
  split
  · exact announceStep_pool _ (changeSession_pool' _ _ (fun x => ⟨rfl, rfl, List.Sublist.refl _⟩) h)
  · exact endWith_pool _ _ h

theorem judgeLift_pool (e : Ev) (x l) (h : PoolSound e.st) : PoolSound (e.judgeLift x l).st := by
  have h0 := fun p : LiftCtx => changeSession_pool' e (fun y => { y with phase := .liftoff p }) (fun x => ⟨rfl, rfl,
      List.Sublist.refl _⟩) h
  unfold Ev.judgeLift
  split
  · exact h
  · simp only
    split
    · unfold Ev.captureLift
      simp only
      have h2 := fun p b n => raise_pool (n := n) (takeReading_pool _ b (changeResult_pool _ (fun t =>
          { t with plift := some (channelValue e.st.meas .load) }) (fun _ => rfl) (h0 p)))
      split
      · exact endWith_pool _ _ (h2 _ _ _)
      · exact failLift_pool _ _ (h2 _ _ _)
    · split
      · exact failLift_pool _ _ (takeReading_pool _ _ (h0 _))
      · exact h0 _

theorem judgeSession_pool (e : Ev) (h : PoolSound e.st) : PoolSound e.judgeSession.st := by
  unfold Ev.judgeSession
  split
  · exact h
  · rename_i x hx
    split
    · rename_i hp hst; exact judgeHold_pool _ _ _ _ _ hx hst h
    · exact judgeLift_pool _ _ _ h
    · exact h

theorem PoolSound.writeAnchor {e : Ev} {r new : AnchorRec} (hf : findAnchor e.st new.id = some r)
    (h1 : new.stage = r.stage) (h2 : new.reserved = r.reserved) (h3 : new.result = r.result) (h : PoolSound e.st) :
    PoolSound (e.writeAnchor new).st := by
  have hrm : r ∈ e.st.anchors := List.mem_of_find?_eq_some hf
  by_cases hst : r.stage = .stressing
  · have hres : r.result ≠ none := by
      by_contra hc
      by_cases hs : ∃ x, e.st.session = some x ∧ r.id = x.anchor
      · obtain ⟨x, hx, hxa⟩ := hs
        obtain ⟨o, ho, rfl, hom, _, _⟩ := openTest_spec h hx
        obtain ⟨g1, g2, g3, g4⟩ := openTest_find' ho
        have h5 := find_of_mem h.ids hrm
        have h6 := find_of_mem h.ids hom
        rw [hxa, ← g3] at h5
        rw [h6] at h5; cases h5
        rw [g4] at hc; cases hc
      · exact (h.others r hrm fun x hx he => hs ⟨x, hx, he⟩).2 hst
    exact PoolSound.replace hf (.inl h1) h2 (.inl (h3 ▸ hres)) (fun i hi => h.lists r hrm i
        (by unfold readingsOf at hi ⊢; rw [← h3]; exact hi)) rfl (List.Sublist.refl _) rfl rfl h
  · exact PoolSound.replace hf (.inl h1) h2 (.inr (h1 ▸ hst)) (fun i hi => h.lists r hrm i
      (by unfold readingsOf at hi ⊢; rw [← h3]; exact hi)) rfl (List.Sublist.refl _) rfl rfl h

theorem changeOpenEntry_pool (e : Ev) (c f) (h : PoolSound e.st) : PoolSound (e.changeOpenEntry c f).st := by
  unfold Ev.changeOpenEntry
  split
  · exact h
  · rename_i r hr
    have := findAnchor_id hr
    refine PoolSound.writeAnchor (r := r) ?_ rfl rfl rfl h
    rw [← this] at hr; exact hr

theorem modLine_pool (e : Ev) (l c) (h : PoolSound e.st) : PoolSound (e.mod fun s => setLineCtx s l c).st :=
  PoolSound.of_same (s := e.st) rfl rfl rfl h

theorem judgeLine_pool (e : Ev) (l) (h : PoolSound e.st) : PoolSound (e.judgeLine l).st := by
  unfold Ev.judgeLine
  split
  · exact h
  · simp only
    have h1 : ∀ c v, PoolSound (e.judgeLineLimit l c v).st := by
      intro c v
      unfold Ev.judgeLineLimit
      simp only
      split
      · exact raise_pool _ (changeOpenEntry_pool _ _ _ (modLine_pool _ _ _ h))
      · exact modLine_pool _ _ _ h
    rename_i c hc
    have h1 := h1 c (channelValue e.st.meas (lineChannel l))
    generalize e.judgeLineLimit l c (channelValue e.st.meas (lineChannel l)) = e1 at h1
    unfold Ev.judgeLineRefusal
    simp only
    split
    · exact raise_pool _ (changeOpenEntry_pool _ _ _ (modLine_pool _ _ _ h1))
    · exact modLine_pool _ _ _ h1

theorem sampleEvent_pool (x) (s : State) (h : PoolSound s) : PoolSound (sampleEvent x s).st := by
  unfold sampleEvent
  simp only [Ev.mod_st]
  refine PoolSound.of_frame (tick_frame _) (by simp) (by simp) (by simp) ?_
  apply judgeSession_pool
  refine PoolSound.of_frame (feedWatches_frame _ _) (by simp) (by simp) (by simp) ?_
  unfold monitoredEvent
  apply judgeLine_pool
  apply judgeLine_pool
  refine PoolSound.of_frame (judgeRig_frame _) (by simp) (by simp) (by simp) ?_
  exact PoolSound.of_frame (measuredEvent_frame x s) (by simp) (by simp) (by simp) h

theorem commit_poolSound (e : Ev) (h : PoolSound e.st) : PoolSound (commit e) :=
  PoolSound.of_frame (commit_frame e e.st [] (OnlyChanges.refl _ _)) (by simp) (by simp) (by simp) h

theorem stage_of {s u : State} (old new : AnchorRec) (hid : new.id = old.id) (hf : findAnchor s old.id = some old)
    (h1 : old.stage ≠ .stressing) (h2 : new.stage ≠ .stressing) (h3 : new.reserved = old.reserved)
    (h4 : ∀ i, ListPlace.entry i ∈ readingsOf new → ListPlace.entry i ∈ readingsOf old) (ha : u.anchors = s.anchors)
    (hu : u.pool.used.Sublist s.pool.used) (hr : u.pool.reserved = s.pool.reserved) (hs : u.session = s.session)
    (h : PoolSound s) : PoolSound ((Ev.of u).changeStage old new).st :=
  PoolSound.stage (e := Ev.of u) (s := s) (by rw [hid]; exact hf) h1 h2 h3 h4 ha hu hr hs h

theorem defineAnchorReply_pool (pl) (s : State) (h : PoolSound s) : PoolSound (defineAnchorReply pl s).ev.st := by
  unfold defineAnchorReply
  split
  · exact h
  · split
    · split
      · rename_i r hr _
        exact PoolSound.writeAnchor (e := Ev.of s) (r := r) (find_self hr) rfl rfl rfl h
      · exact h
    · split
      · exact h
      · rename_i d hd _ hn _
        have hp := insert_perm (plannedRecord (anchorField pl) (freeImageSlot s) d) s.anchors
        have hnm : ∀ q ∈ s.anchors, q.id ≠ anchorField pl := by
          intro q hq he
          have := find_of_mem h.ids hq
          rw [he] at this
          unfold findAnchor at hn
          rw [hn] at this; cases this
        obtain ⟨a, b, c, e, f, g, k, l, m⟩ := h
        refine ⟨?_, b, c, e, f, ?_, ?_, l, ?_⟩
        · show ((insertAnchor (plannedRecord (anchorField pl) (freeImageSlot s) d) s.anchors).map (·.id)).Nodup
          rw [(hp.map (·.id)).nodup_iff]
          simp only [List.map_cons, List.nodup_cons]
          refine ⟨fun hm => ?_, a⟩
          obtain ⟨q, hq, hq2⟩ := List.mem_map.1 hm
          exact hnm q hq hq2
        · intro q hq
          rcases List.mem_cons.1 (hp.mem_iff.1 hq) with rfl | hq
          · intro i hi; simp [readingsOf, plannedRecord] at hi
          · exact g q hq
        · intro q hq hne
          rcases List.mem_cons.1 (hp.mem_iff.1 hq) with rfl | hq
          · exact ⟨rfl, by simp [plannedRecord]⟩
          · exact k q hq hne
        · intro x hx
          obtain ⟨⟨q, hq, r1⟩, r2, r3, r4⟩ := m x hx
          exact ⟨⟨q, hp.mem_iff.2 (List.mem_cons_of_mem _ hq), r1⟩, r2, r3, r4⟩

theorem setAnchorGeometryReply_pool (pl) (s : State) (h : PoolSound s) :
    PoolSound (setAnchorGeometryReply pl s).ev.st := by
  unfold setAnchorGeometryReply
  split
  · exact h
  · rename_i r hr
    split
    · exact h
    · split
      · exact h
      · exact PoolSound.writeAnchor (e := Ev.of s) (r := r) (find_self hr) rfl rfl rfl h

theorem deleteAnchorReply_pool (pl) (s : State) (h : PoolSound s) : PoolSound (deleteAnchorReply pl s).ev.st := by
  unfold deleteAnchorReply
  split
  · exact h
  · rename_i r hr
    split
    · rename_i hst
      obtain ⟨a, b, c, e, f, g, k, l, m⟩ := h
      have hsub : (eraseAnchor s.anchors r.id).Sublist s.anchors := List.filter_sublist
      refine ⟨a.sublist (hsub.map _), b, c, e, f, fun q hq => g q (hsub.subset hq), fun q hq hne => k q (hsub.subset
          hq) hne, l, ?_⟩
      intro x hx
      obtain ⟨⟨q, hq, r0, r1, r2⟩, r3, r4, r5⟩ := m x hx
      refine ⟨⟨q, ?_, r0, r1, r2⟩, r3, r4, r5⟩
      show q ∈ eraseAnchor s.anchors r.id
      unfold eraseAnchor
      simp only [List.mem_filter, hq, true_and, ne_eq, decide_eq_true_eq]
      intro he
      have h5 := find_of_mem a hq
      have h6 := find_self hr
      unfold findAnchor at h6
      rw [he, h6] at h5; cases h5
      rcases hst with hst | hst <;> rw [hst] at r1 <;> cases r1
    · exact h

theorem release_used (s : State) (l) : (releaseReadings s l).pool.used.Sublist s.pool.used := List.filter_sublist

theorem abandonAnchorReply_pool (pl) (s : State) (h : PoolSound s) : PoolSound (abandonAnchorReply pl s).ev.st := by
  unfold abandonAnchorReply
  split
  · exact h
  · rename_i r hr
    split
    · exact h
    · rename_i hact
      split
      · exact h
      · refine stage_of (s := s) r _ rfl (find_self hr) ?_ (by simp [abandonedRecord]) rfl ?_ rfl (release_used _ _)
          rfl rfl h
        · intro he; rw [he] at hact; exact hact rfl
        · intro i hi
          simp only [readingsOf, abandonedRecord] at hi
          cases hres : r.result <;> simp [hres] at hi

theorem retestAnchorReply_pool (pl) (s : State) (h : PoolSound s) : PoolSound (retestAnchorReply pl s).ev.st := by
  unfold retestAnchorReply
  split
  · exact h
  · rename_i r hr
    split
    · rename_i hst
      refine stage_of (s := s) r _ rfl (find_self hr) ?_ (by simp [retestedRecord]) rfl ?_ rfl (release_used _ _)
          rfl rfl h
      · intro he; rw [he] at hst; simp at hst
      · intro i hi; simp [readingsOf, retestedRecord] at hi
    · exact h

theorem decided_facts (s r d c) (h : settleAllowed r.stage d = true) : (decidedRecord s r d c).stage = d ∧
    (decidedRecord s r d c).reserved = r.reserved ∧ d ≠ .stressing ∧ r.stage ≠ .stressing ∧
    ∀ i, ListPlace.entry i ∈ readingsOf (decidedRecord s r d c) → ListPlace.entry i ∈ readingsOf r := by
  have hd : d ≠ .stressing := by intro he; subst he; unfold settleAllowed at h; split at h <;> simp_all
  have hr : r.stage ≠ .stressing := by intro he; rw [he] at h; cases d <;> simp [settleAllowed] at h
  unfold decidedRecord
  split
  all_goals refine ⟨rfl, rfl, hd, hr, ?_⟩
  all_goals intro i hi
  all_goals first
    | exact hi
    | (simp only [readingsOf, retestedRecord] at hi ⊢; cases hres : r.result <;> simp [hres] at hi ⊢; try exact hi)

theorem settleAnchorReply_pool (pl) (s : State) (h : PoolSound s) : PoolSound (settleAnchorReply pl s).ev.st := by
  unfold settleAnchorReply
  split
  · exact h
  · rename_i r hr
    split
    · exact h
    · split
      · exact h
      · rename_i dest hdest
        split
        · exact h
        · rename_i hal
          split
          · exact h
          · split
            · exact h
            · have hal' : settleAllowed r.stage dest = true := by simpa using hal
              obtain ⟨f1, f2, f3, f4, f5⟩ := decided_facts s r dest (fieldNat pl 4 4) hal'
              refine stage_of (s := s) r _ ?_ (find_self hr) f4 ?_ f2 f5 ?_ ?_ ?_ ?_ h
              · unfold settledRecord; exact decided_id _ _ _ _
              · show (decidedRecord s r dest (fieldNat pl 4 4)).stage ≠ _
                rw [f1]; exact f3
              · unfold settledFree settledPool; split_ifs <;> rfl
              · unfold settledFree settledPool; split_ifs <;> first
                  | exact List.Sublist.refl _
                  | exact release_used _ _
              · unfold settledFree settledPool; split_ifs <;> rfl
              · unfold settledFree settledPool; split_ifs <;> rfl

theorem cureExpiry_pool (s : State) (e) (he : cureExpiryEvent s = some e) (hg : TablesInOrder s) (h : PoolSound s) :
    PoolSound e.st := by
  unfold cureExpiryEvent at he
  split at he
  · rename_i now c more hc hcu
    split at he
    · simp only [Option.map_eq_some_iff] at he
      obtain ⟨r, hr, rfl⟩ := he
      have hst : r.stage = .curing := by
        have := (hg.2.2.2.2 c).1 (by rw [hcu]; simp)
        obtain ⟨q, hq, q1, q2, _⟩ := this
        have h5 := find_of_mem h.ids hq
        unfold findAnchor at hr
        rw [q1, hr] at h5; cases h5; exact q2
      exact stage_of (s := s) r _ rfl (find_self hr) (by rw [hst]; simp) (by simp) rfl (fun i hi => hi) rfl
          (List.Sublist.refl _) rfl rfl h
    · cases he
  · cases he

theorem tendonStartReply_pool (pl) (s : State) (h : PoolSound s) : PoolSound (tendonStartReply pl s).ev.st := by
  unfold tendonStartReply
  split
  · exact h
  · rename_i r hr
    split
    · exact h
    split
    · exact h
    split
    · exact h
    rename_i hst
    split
    · exact h
    split
    · exact h
    split
    · exact h
    split
    · exact h
    exact stage_of (s := s) r _ rfl (find_self hr) (by intro he; rw [he] at hst; simp at hst) (by simp) rfl (fun i
        hi => hi) rfl (List.Sublist.refl _) rfl rfl h

theorem openRun_stage {s r c} (h : openRun s r = some c) : r.stage = .tendonRunning := by
  unfold openRun at h; split at h
  · assumption
  · cases h

theorem tendonDoneReply_pool (pl) (s : State) (h : PoolSound s) : PoolSound (tendonDoneReply pl s).ev.st := by
  unfold tendonDoneReply
  split
  · exact h
  · rename_i r hr
    split
    · exact h
    · rename_i c hc
      refine stage_of (s := s) r _ rfl (find_self hr) (by rw [openRun_stage hc]; simp) ?_ rfl (fun i hi => hi) rfl
          (List.Sublist.refl _) rfl rfl h
      simp only [placedRecord, placedStage]; split <;> simp

theorem tendonWithdrawReply_pool (pl) (s : State) (h : PoolSound s) : PoolSound (tendonWithdrawReply pl s).ev.st := by
  unfold tendonWithdrawReply
  split
  · exact h
  · rename_i r hr
    split
    · exact h
    · rename_i c hc
      exact stage_of (s := s) r _ rfl (find_self hr) (by rw [openRun_stage hc]; simp) (by simp) rfl (fun i hi => hi)
          rfl (List.Sublist.refl _) rfl rfl h

theorem injectStartReply_pool (pl) (s : State) (h : PoolSound s) : PoolSound (injectStartReply pl s).ev.st := by
  unfold injectStartReply
  split
  · unfold injectStartOn
    split
    · exact h
    · rename_i r hr
      split
      · exact h
      split
      · exact h
      split
      · exact h
      rename_i hsu
      split
      · exact h
      split
      · exact h
      split
      · exact h
      split
      · exact h
      split
      · exact h
      split
      · exact h
      refine stage_of (s := s) r _ rfl (find_self hr) ?_ (by simp) rfl (fun i hi => hi) rfl (List.Sublist.refl _)
          rfl rfl h
      intro he
      rw [he] at hsu
      apply hsu
      have : ∀ k, (!stageSuits k .stressing) = true := by intro k; cases k <;> rfl
      exact this _
  · exact h

theorem injectEndReply_pool (pl) (s : State) (h : PoolSound s) : PoolSound (injectEndReply pl s).ev.st := by
  unfold injectEndReply
  split
  · exact h
  split
  · exact h
  rename_i r hr
  split
  · exact h
  rename_i c hc
  have hst : r.stage = .grouting := by
    unfold openPassOn at hc
    split at hc
    · cases hc
    · split at hc
      · rename_i hh; exact hh.1
      · cases hc
  unfold injectEndDone
  refine stage_of (s := s) r _ ?_ (find_self hr) (by rw [hst]; simp) ?_ ?_ ?_ rfl (List.Sublist.refl _) rfl rfl h
  all_goals unfold injectedRecord
  · split <;> rfl
  · split <;> simp
  · split <;> rfl
  · intro i hi; split at hi <;> exact hi

theorem interruptReply_pool (how) (s : State) (h : PoolSound s) : PoolSound (interruptReply how s).ev.st := by
  unfold interruptReply
  split
  · exact h
  · rename_i o ho
    refine raise_pool _ (close_pool (s := s) (e := Ev.of (interruptedPool s o)) ho ?_ ?_ ?_ ?_ ?_ ?_ ?_ ?_ h)
    · unfold interruptedRecord; split <;> rfl
    · unfold interruptedRecord; split <;> simp
    · unfold interruptedRecord; split <;> rfl
    · intro i hi
      unfold interruptedRecord at hi; split at hi
      · exact hi
      · simp [readingsOf] at hi
    · unfold interruptedPool; split <;> rfl
    · unfold interruptedPool; split
      · exact List.Sublist.refl _
      · exact release_used _ _
    · unfold interruptedPool; split <;> rfl
    · unfold interruptedPool; split <;> rfl

theorem lowestFree_spec2 (taken : List Nat) :
    ∀ (fuel i want : Nat), want ≤ ((List.range' i fuel).filter fun n => !taken.contains n).length →
    (lowestFree taken fuel i want).length = want ∧ (lowestFree taken fuel i want).Pairwise (· < ·) ∧
    ∀ n ∈ lowestFree taken fuel i want, i ≤ n ∧ n < i + fuel ∧ n ∉ taken := by
  intro fuel
  induction fuel with
  | zero => intro i want h; simp at h; subst h; simp [lowestFree]
  | succ f ih =>
    intro i want h
    cases want with
    | zero => simp [lowestFree]
    | succ w =>
      rw [List.range'_succ, List.filter_cons] at h
      simp only [lowestFree]
      by_cases hc : taken.contains i = true
      · rw [if_pos hc]
        simp only [hc, Bool.not_true, Bool.false_eq_true, if_false] at h
        obtain ⟨a, b, c⟩ := ih (i + 1) (w + 1) h
        exact ⟨a, b, fun n hn => ⟨by have := (c n hn).1; omega, by have := (c n hn).2.1; omega, (c n hn).2.2⟩⟩
      · rw [if_neg hc]
        simp only [Bool.not_eq_true] at hc
        simp only [hc, Bool.not_false, if_true, List.length_cons] at h
        obtain ⟨a, b, c⟩ := ih (i + 1) w (by omega)
        refine ⟨by simp [a], ?_, ?_⟩
        · rw [List.pairwise_cons]; exact ⟨fun n hn => by have := (c n hn).1; omega, b⟩
        · intro n hn
          rcases List.mem_cons.1 hn with rfl | hn
          · exact ⟨le_refl _, by omega, by simpa using hc⟩
          · exact ⟨by have := (c n hn).1; omega, by have := (c n hn).2.1; omega, (c n hn).2.2⟩

theorem free_count (taken : List Nat) (hn : taken.Nodup) (hlt : ∀ i ∈ taken, i < 8192) :
    ((List.range' 0 8192).filter fun n => !taken.contains n).length = 8192 - taken.length := by
  have h1 : ((List.range' 0 8192).filter fun n => taken.contains n).Perm taken := by
    rw [List.perm_ext_iff_of_nodup (List.Nodup.filter _ (List.nodup_range' ..)) hn]
    intro a
    simp only [List.mem_filter, List.mem_range'_1, List.contains_iff_mem]
    constructor
    · exact fun h => h.2
    · exact fun h => ⟨⟨by omega, by have := hlt a h; omega⟩, h⟩
  have h2 := List.length_eq_countP_add_countP (fun n => taken.contains n) (l := List.range' 0 8192)
  rw [List.countP_eq_length_filter, h1.length_eq, List.countP_eq_length_filter, List.length_range'] at h2
  have h3 : ((List.range' 0 8192).filter fun n => !taken.contains n) = ((List.range' 0 8192).filter fun n => decide
      ¬(taken.contains n = true)) := by
    apply List.filter_congr; intro a _; cases taken.contains a <;> rfl
  rw [h3]
  omega

theorem stressOpenReply_pool (pl) (s : State) (h : PoolSound s) : PoolSound (stressOpenReply pl s).ev.st := by
  unfold stressOpenReply
  split
  · exact h
  rename_i r hr
  split
  · exact h
  rename_i hsess
  split
  · exact h
  rename_i now hnow
  split
  · exact h
  rename_i hst
  split
  · exact h
  rename_i d hd
  split
  · exact h
  split
  · exact h
  split
  · exact h
  split
  · exact h
  unfold stressOpenOn
  split
  · exact h
  split
  · exact h
  split
  · exact h
  split
  · exact h
  split
  · exact h
  rename_i path count _ _ _ _ hfree
  unfold stressOpenDone
  simp only [doneWith]
  refine announceStep_pool _ ?_
  have hsn : s.session = none := by cases hs : s.session <;> simp_all
  have hres := h.idle hsn
  generalize hw : worstCase count s.config.params.relockMax = w at *
  have hfree' : w ≤ 8192 - s.pool.used.length := by
    simp only [Pool.freeCount, Pool.reservedCount, Pool.usedCount, hres, Config.poolSize, List.length_nil] at hfree
    omega
  have hut : (s.pool.used.map (·.index)).Nodup := h.usd.imp fun {a b} hab => by omega
  obtain ⟨l1, l2, l3⟩ := lowestFree_spec2 (s.pool.used.map (·.index)) 8192 0 w (by
    rw [free_count _ hut (by intro i hi; obtain ⟨e, he, rfl⟩ := List.mem_map.1 hi; exact h.usdIn e he)]; simpa using
        hfree')
  have hf := find_self hr
  have hrm : r ∈ s.anchors := List.mem_of_find?_eq_some hf
  have hmem := fun q => mem_replace (new := openedRecord r now w) h.ids (by exact hf) q
  generalize hx : openedSession s r d.cls path (fieldNat pl 2 2) w = x
  generalize he : (Ev.of { s with session := some x, pool := reserveEntries s.pool w }).changeStage r (openedRecord
      r now w) = e
  have e1 : e.st.anchors = replaceAnchor s.anchors (openedRecord r now w) := by rw [← he, changeStage_anchors]; rfl
  have e2 : e.st.pool = reserveEntries s.pool w := by rw [← he]; exact (changeStage_frame _ _ _) .pool (by simp)
  have e3 : e.st.session = some x := by rw [← he]; exact (changeStage_frame _ _ _) .session (by simp)
  have hxa : x.anchor = r.id := by rw [← hx]; rfl
  refine ⟨by rw [e1, replace_ids]; exact h.ids, by rw [e2]; exact l2,
      ?_, by rw [e2]; exact h.usd, by rw [e2]; exact h.usdIn, ?_, ?_, ?_, ?_⟩
  · rw [e2]
    intro i hi
    have := l3 i hi
    exact ⟨by omega, this.2.2⟩
  · rw [e1]; intro q hq
    rcases (hmem q).1 hq with rfl | ⟨hq, _⟩
    · intro i hi; simp [readingsOf, openedRecord, emptyResult] at hi
    · exact h.lists q hq
  · rw [e1, e3]; intro q hq hne
    rcases (hmem q).1 hq with rfl | ⟨hq, _⟩
    · exact absurd hxa.symm (hne x rfl)
    · exact h.others q hq fun y hy => by rw [hsn] at hy; cases hy
  · rw [e3]; intro hn; cases hn
  · rw [e3]; intro y hy
    cases hy
    refine ⟨⟨openedRecord r now w, by rw [e1]; exact (hmem _).2 (.inl rfl), hxa.symm,
        rfl, by simp [openedRecord], by rw [← hx]; rfl⟩, ?_, ?_, ?_⟩
    · rw [e2, ← hx]; exact l1
    · rw [← hx]; simp [holdIndices, openedSession]
    · rw [← hx]; simp [holdIndices, openedSession]

theorem advanceReply_pool (s : State) (h : PoolSound s) : PoolSound (advanceReply s).ev.st := by
  unfold advanceReply
  split
  · exact h
  split
  · exact h
  · exact h
  · exact h
  all_goals
    split
    · exact h
    unfold advanceOn
    split_ifs <;> first | exact h | skip
    unfold advanceDone
    exact carryOut_pool _ _ _ (takeReading_pool _ _ h)

theorem releaseReply_pool (s : State) (h : PoolSound s) : PoolSound (releaseReply s).ev.st := by
  unfold releaseReply
  split
  · exact h
  split
  · split
    · exact h
    · unfold releaseDone
      refine announceStep_pool _ (changeSession_pool' _ _ (fun x => ⟨rfl, rfl, List.Sublist.refl _⟩)
          (takeReading_pool _ _ (changeResult_pool _ _ (fun _ => rfl) h)))
  · exact h

theorem StoreKept.img {s t} (h : StoreKept s t) (g : ImagesSound s) : ImagesSound t := by
  obtain ⟨h1, h2⟩ := h
  refine ⟨fun x hx => g.imgs x (h1 ▸ hx), fun n r m hj => ?_⟩
  obtain ⟨k, hk⟩ := h2 _ _ hj; exact g.job n r k hk

theorem tableGet_mem {α} {tb : List (Slot α)} {i v} (h : tableGet tb i = some v) : ∃ x ∈ tb, x.val = v := by
  induction tb with
  | nil => cases h
  | cons y rest ih =>
    simp only [tableGet] at h
    split at h
    · cases h; exact ⟨y, by simp, rfl⟩
    · obtain ⟨x, hx, e⟩ := ih h; exact ⟨x, by simp [hx], e⟩

theorem recovered_facts (st : Store) (m : Nat) (d) (h : ∀ x ∈ st.images, ReadingsIn x.val) :
    (slotRecord st m d).reserved = 0 ∧ (slotRecord st m d).stage ≠ .stressing ∧ ReadingsIn (slotRecord st m d) := by
  unfold slotRecord
  split
  · rename_i r hr
    have hin : ReadingsIn r := by
      unfold agreeingImage at hr
      split at hr
      · cases hr
      · rename_i q hq
        obtain ⟨x, hx, rfl⟩ := tableGet_mem hq
        split at hr
        · cases hr; exact h x hx
        · cases hr
    unfold recoveredRecord
    split
    · exact ⟨rfl, by simp, hin⟩
    · exact ⟨rfl, by simp, hin⟩
    · refine ⟨rfl, by simp, fun i hi => hin i ?_⟩
      unfold readingsOf at hi ⊢
      cases hres : r.result <;> simp_all
    · refine ⟨rfl, by assumption, hin⟩
  · refine ⟨rfl, by simp [suspectRecord], fun i hi => ?_⟩
    simp [readingsOf, suspectRecord] at hi

theorem recoveredAnchors_all (st : Store) (m : Nat) (P : AnchorRec → Prop) (h : ∀ d, P (slotRecord st m d)) (dir) :
    ∀ r ∈ recoveredAnchors st m dir, P r := by
  unfold recoveredAnchors
  have : ∀ (dir : List (Slot AnchorId)) (acc : List AnchorRec), (∀ r ∈ acc, P r) → ∀ r ∈ dir.foldl (fun acc d =>
      insertAnchor (slotRecord st m d) acc) acc, P r := by
    intro dir
    induction dir with
    | nil => intro acc h; exact h
    | cons d rest ih =>
      intro acc ha
      simp only [List.foldl_cons]
      refine ih _ fun r hr => ?_
      rcases List.mem_cons.1 ((insert_perm _ _).mem_iff.1 hr) with rfl | hr
      · exact h d
      · exact ha r hr
  exact this dir [] (by simp)

theorem claimsFrom_mem (a stamp) (l : List ListPlace) :
    ∀ n, ∀ c ∈ claimsFrom a stamp n l, ListPlace.entry c.index ∈ l := by
  induction l with
  | nil => intro n c hc; simp [claimsFrom] at hc
  | cons p rest ih =>
    intro n c hc
    cases p with
    | lost => simp only [claimsFrom] at hc; exact List.mem_cons_of_mem _ (ih _ c hc)
    | entry i =>
      simp only [claimsFrom, List.mem_cons] at hc
      rcases hc with rfl | hc
      · simp
      · exact List.mem_cons_of_mem _ (ih _ c hc)

theorem losePlaces_mem (lost a) (l : List ListPlace) : ∀ n i, ListPlace.entry i ∈ losePlaces lost a n l →
    ListPlace.entry i ∈ l := by
  induction l with
  | nil => intro n i h; simp [losePlaces] at h
  | cons p rest ih =>
    intro n i h
    simp only [losePlaces, List.mem_cons] at h
    rcases h with h | h
    · split at h
      · cases h
      · simp [h]
    · exact List.mem_cons_of_mem _ (ih _ i h)

theorem tablePut_sorted' (t : List (Slot PoolEntry)) (i v) (h : (t.map (·.index)).Pairwise (· < ·)) :
    ((tablePut t i v).map (·.index)).Pairwise (· < ·) ∧ ∀ e, e ∈ tablePut t i v → e.index = i ∨ e ∈ t := by
  induction t with
  | nil => simp [tablePut]
  | cons y rest ih =>
    simp only [List.map_cons, List.pairwise_cons] at h
    obtain ⟨i1, i2⟩ := ih h.2
    simp only [tablePut]
    split
    · rename_i hlt
      refine ⟨?_, ?_⟩
      · simp only [List.map_cons, List.pairwise_cons]
        refine ⟨fun z hz => ?_, i1⟩
        obtain ⟨w, hw, rfl⟩ := List.mem_map.1 hz
        rcases i2 w hw with h' | h'
        · omega
        · exact h.1 _ (List.mem_map_of_mem (f := (·.index)) h')
      · intro e he
        rcases List.mem_cons.1 he with rfl | he
        · right; simp
        · rcases i2 e he with h' | h'
          · exact .inl h'
          · right; simp [h']
    · split
      · rename_i h1 h2
        refine ⟨?_, ?_⟩
        · simp only [List.map_cons, List.pairwise_cons]
          exact ⟨fun z hz => by have := h.1 z hz; omega, h.2⟩
        · intro e he
          rcases List.mem_cons.1 he with rfl | he
          · left; rfl
          · right; simp [he]
      · rename_i h1 h2
        refine ⟨?_, ?_⟩
        · simp only [List.map_cons, List.pairwise_cons, List.mem_cons]
          refine ⟨fun z hz => ?_, h⟩
          rcases hz with rfl | hz
          · omega
          · have := h.1 z hz; omega
        · intro e he
          rcases List.mem_cons.1 he with rfl | he
          · left; rfl
          · right; exact he

theorem scan_pool (st : Store) (b : Bool) (k : ResetKind) (s : State) (items)
    (hgood : TablesInOrder (joinItems (afterScan s (scanOf st b) k) items)) (hi : ∀ x ∈ st.images, ReadingsIn x.val) :
    PoolSound (joinItems (afterScan s (scanOf st b) k) items) := by
  refine PoolSound.of_same (s := afterScan s (scanOf st b) k) rfl rfl rfl ?_
  have hall : ∀ r ∈ (scanOf st b).anchors, r.reserved = 0 ∧ r.stage ≠ .stressing ∧ ReadingsIn r :=
      recoveredAnchors_all _ _ _ (fun d => recovered_facts st _ d hi) _
  have hrec : ∀ r ∈ (scanOf st b).records, r.reserved = 0 ∧ r.stage ≠ .stressing ∧ ReadingsIn r := by
    intro r hr
    obtain ⟨q, hq, rfl⟩ := List.mem_map.1 hr
    obtain ⟨h1, h2, h3⟩ := hall q hq
    refine ⟨h1, h2, fun i hi => h3 i ?_⟩
    unfold readingsOf loseReadings at hi
    unfold readingsOf
    cases hres : q.result with
    | none => simp [hres] at hi
    | some t => simp only [hres, Option.map_some] at hi; exact losePlaces_mem _ _ _ _ _ hi
  have hclaims : ∀ c ∈ (scanOf st b).claims, c.index < 8192 := by
    intro c hc
    obtain ⟨q, hq, hc⟩ := List.mem_flatMap.1 (show c ∈ (scanOf st b).anchors.flatMap recordClaims from hc)
    obtain ⟨_, _, h3⟩ := hall q hq
    unfold recordClaims at hc
    split at hc
    · rename_i t ht
      apply h3
      unfold readingsOf; rw [ht]
      exact claimsFrom_mem _ _ _ _ c hc
    · cases hc
  have hkept : ∀ c ∈ (scanOf st b).kept, c.index < 8192 := fun c hc => hclaims c (List.mem_filter.1 hc).1
  have hused : ((rebuiltUsed (scanOf st b).store (scanOf st b).kept).map (·.index)).Pairwise (· < ·) ∧ ∀ e ∈
      rebuiltUsed (scanOf st b).store (scanOf st b).kept, e.index < 8192 := by
    unfold rebuiltUsed
    generalize (scanOf st b).kept = l at hkept
    have key : ∀ (l : List Claim) (acc : List (Slot PoolEntry)), (∀ c ∈ l, c.index < 8192) → (acc.map
        (·.index)).Pairwise (· < ·) → (∀ e ∈ acc, e.index < 8192) →
       ((l.foldl (fun acc c => tablePut acc c.index (keptEntry (scanOf st b).store c)) acc).map (·.index)).Pairwise
           (· < ·) ∧
       ∀ e ∈ l.foldl (fun acc c => tablePut acc c.index (keptEntry (scanOf st b).store c)) acc, e.index < 8192 := by
      intro l
      induction l with
      | nil => intro acc _ h1 h2; exact ⟨h1, h2⟩
      | cons c rest ih =>
        intro acc h0 h1 h2
        simp only [List.foldl_cons]
        have hp := tablePut_sorted' acc c.index (keptEntry (scanOf st b).store c) h1
        refine ih _ (fun x hx => h0 x (by simp [hx])) hp.1 fun e he => ?_
        rcases hp.2 e he with h | h
        · rw [h]; exact h0 c (by simp)
        · exact h2 e h
    exact key l [] hkept (by simp) (by simp)
  refine ⟨?_, by simp [afterScan], by simp [afterScan], hused.1, hused.2, fun r hr => (hrec r hr).2.2, fun r hr _ =>
      ⟨(hrec r hr).1, (hrec r hr).2.1⟩, fun _ => rfl, fun x hx => by cases hx⟩
  exact ordered_nodup hgood.2.1

theorem reset_pool (k : ResetKind) (s : State) (hi : ImagesSound s) (hs : StoreAgrees s) : PoolSound (resetAs k s) ∧
    ImagesSound (resetAs k s) := by
  have hgood := (reset_agrees k s hs).1
  have hi : ∀ x ∈ (tornStore s).images, ReadingsIn x.val := by
    intro q hq
    have a := hi.imgs
    unfold tornStore at hq
    split at hq
    · unfold tearJob at hq; split at hq <;> first | exact a q hq | skip
      exact a q (List.mem_filter.1 hq).1
    · exact a q hq
    all_goals split_ifs at hq <;> exact a q hq
  have hw : ∀ (u : State) items j n, u.recorder.writer = .idle → (joinItems u items).recorder.writer ≠ .writing j
      n := by
    intro u items j n hu
    have := (joinItems_dirties u items).2.2.2.1
    rw [hu] at this
    unfold SameWrite at this
    intro hc
    rw [hc] at this
    simp at this
  unfold resetAs scanStore at hgood ⊢
  split at hgood
  · rename_i hb
    rw [if_pos hb]
    exact ⟨scan_pool _ _ _ _ _ hgood hi, hi, fun _ _ _ hj => absurd hj (hw _ _ _ _ rfl)⟩
  · rename_i hb
    rw [if_neg hb]
    exact ⟨scan_pool _ _ _ _ _ hgood hi, hi, fun _ _ _ hj => absurd hj (hw _ _ _ _ rfl)⟩

end Sys2Proof.Machine
end

