-- ==== Sys2Proof/Laws/Walk.lean ====
section
/-! SUPPORT. The open session on the path of its head: what the validation of a head says of every step of its path, what each
operation does to the session's place on it, and what that place says of the load-stage stack. -/

namespace Sys2Proof.Machine

/-- What the walk of a VALID head says of its steps: each passes R110 and links to the next. -/
def Walked (sch : ScheduleData) : Sim → List Nat → Prop
  | _, [] => True
  | m, i :: l => stepFinding m (stepAt sch i) = none ∧ (stepAt sch i).next = l.head? ∧ Walked sch (m.pass i (stepAt
      sch i)) l

theorem change_path (m : Sim) (r) : (m.change r).path = m.path := by unfold Sim.change; split <;> rfl

theorem pass_path (m : Sim) (i r) : (m.pass i r).path = m.path ++ [i] := by
  show (m.path ++ [i]) = _; rfl

theorem walk_walked (sch : ScheduleData) : ∀ fuel m i p c, walk sch fuel m i = .valid p c → ∃ l, p =
    m.path ++ i :: l ∧ Walked sch m (i :: l) := by
  intro fuel
  induction fuel with
  | zero => intro m i p c h; simp [walk] at h
  | succ f ih =>
    intro m i p c h
    simp only [walk] at h
    split at h
    · cases h
    · rename_i hf
      split at h
      · rename_i hn
        cases h
        exact ⟨[], by rw [pass_path], hf, by simpa using hn, trivial⟩
      · rename_i j hn
        obtain ⟨l, h1, h2⟩ := ih _ _ _ _ h
        refine ⟨j :: l, by rw [h1, pass_path]; simp, hf, by simpa using hn, h2⟩

theorem walked_suffix (sch) (before : List Nat) : ∀ m l, Walked sch m (before ++ l) →
    Walked sch (before.foldl (fun m i => m.pass i (stepAt sch i)) m) l := by
  induction before with
  | nil => intro m l h; exact h
  | cons i rest ih => intro m l h; exact ih _ _ h.2.2

theorem valid_walked {s : State} (hr : s.results = validateAll s.schedule) {c p n}
    (h : s.results.get c = .valid p n) : Walked s.schedule Sim.start p ∧ p ≠ [] := by
  rw [hr] at h
  have hg : (validateAll s.schedule).get c = validateHead s.schedule (s.schedule.heads.get c) := by cases c <;> rfl
  rw [hg] at h
  unfold validateHead at h
  split at h
  · cases h
  · obtain ⟨l, h1, h2⟩ := walk_walked _ _ _ _ _ _ h
    subst h1
    exact ⟨by simpa [Sim.start] using h2, by simp⟩

theorem simAlong_path (sch) (l : List Nat) : (simAlong sch l).path = l := by
  unfold simAlong
  have : ∀ (l : List Nat) m, (l.foldl (fun m i => Sim.pass m i (stepAt sch i)) m).path = m.path ++ l := by
    intro l
    induction l with
    | nil => intro m; simp
    | cons i rest ih => intro m; simp only [List.foldl_cons, ih, pass_path]; simp
  simpa [Sim.start] using this l Sim.start

theorem simAlong_snoc (sch) (l : List Nat) (i) : simAlong sch (l ++ [i]) =
    (simAlong sch l).pass i (stepAt sch i) := by
  simp [simAlong]

theorem at_step {s : State} (hr : s.results = validateAll s.schedule) {c p n before i after}
    (h : s.results.get c = .valid p n) (hp : p = before ++ i :: after) :
    stepFinding (simAlong s.schedule before) (stepAt s.schedule i) = none ∧ (stepAt s.schedule i).next =
    after.head? := by
  have := (valid_walked hr h).1
  rw [hp] at this
  have := walked_suffix _ _ _ _ this
  exact ⟨this.1, this.2.1⟩

/-- Kinds and findings. -/
theorem finding_kind {m : Sim} {r : StepRec} (h : stepFinding m r = none) : kindFinding m r = none ∧
    (m.path = [] → r.kind = .datum) ∧ (r.kind ≠ .endStep → r.next ≠ none) := by
  unfold stepFinding at h
  by_cases h1 : 24 ≤ m.path.length
  · rw [if_pos h1] at h; cases h
  rw [if_neg h1] at h
  by_cases h2 : m.path = [] ∧ r.kind ≠ .datum
  · rw [if_pos h2] at h; cases h
  rw [if_neg h2] at h
  by_cases h3 : m.previous = some .lockOff ∧ r.kind ≠ .liftOff
  · rw [if_pos h3] at h; cases h
  rw [if_neg h3] at h
  by_cases h4 : m.previous = some .liftOff ∧ r.kind ≠ .endStep
  · rw [if_pos h4] at h; cases h
  rw [if_neg h4] at h
  cases hk : kindFinding m r with
  | some f => rw [hk] at h; cases h
  | none =>
    rw [hk] at h
    refine ⟨rfl, fun hp => by by_contra hc; exact h2 ⟨hp, hc⟩, fun he hn => ?_⟩
    simp only [if_pos (show r.kind ≠ .endStep ∧ r.next = none from ⟨he, hn⟩)] at h
    cases h

/-- The session due to move on: its stack is that after the current step. -/
structure StepDone (s : State) (x : Session) : Prop where
  place : ∃ path count before after, s.results.get x.cls = .valid path count ∧ path = before ++ x.step :: after ∧
    StackMatches (simAlong s.schedule (before ++ [x.step])) x ∧ equalTargets s.schedule (testLoad s x.anchor) []
        path = false ∧
    x.lockStep = lockStepOf s.schedule path
  kind : (stepAt s.schedule x.step).kind ≠ .endStep
  targets : TargetsFit s x

/-- The sessions agree on what the path is about. -/
structure SameWalk (s t : State) : Prop where
  sch : t.schedule = s.schedule
  res : t.results = s.results
  tl : ∀ a, testLoad t a = testLoad s a

theorem SameWalk.refl (s) : SameWalk s s := ⟨rfl, rfl, fun _ => rfl⟩

theorem SameWalk.trans {a b c} (h : SameWalk a b) (g : SameWalk b c) : SameWalk a c :=
  ⟨g.1.trans h.1, g.2.trans h.2, fun x => (g.3 x).trans (h.3 x)⟩

theorem SameWalk.of_frame {s t ps} (hf : OnlyChanges ps s t) (h1 : Part.anchors ∉ ps) (h2 : Part.schedule ∉ ps)
    (h3 : Part.results ∉ ps) : SameWalk s t :=
  ⟨hf _ h2, hf _ h3, fun a => by unfold testLoad findAnchor; rw [show t.anchors = s.anchors from hf _ h1]⟩

/-- Two sessions agree in all that a place on the path is about, but for the phase. -/
structure SameSess (x y : Session) : Prop where
  anchor : y.anchor = x.anchor
  cls : y.cls = x.cls
  step : y.step = x.step
  lock : y.lockStep = x.lockStep
  datum : y.datum = x.datum
  stages : y.stages.map (fun g => (g.fraction, g.target)) = x.stages.map (fun g => (g.fraction, g.target))
  cycles : y.cycles = x.cycles

theorem SameSess.refl (x) : SameSess x x := ⟨rfl, rfl, rfl, rfl, rfl, rfl, rfl⟩

theorem SameSess.trans {x y z} (h : SameSess x y) (g : SameSess y z) : SameSess x z :=
  ⟨g.1.trans h.1, g.2.trans h.2, g.3.trans h.3, g.4.trans h.4, g.5.trans h.5, g.6.trans h.6, g.7.trans h.7⟩

theorem SameSess.marks {x y} (h : SameSess x y) : frameMarks y = frameMarks x := by
  unfold frameMarks
  have h6 := congrArg (List.map (fun p : Nat × Nat => (p.1, false))) h.stages
  simp only [List.map_map] at h6
  rw [h.datum]
  congr 1

theorem SameSess.fit {s t x y} (h : SameSess x y) (w : SameWalk s t) (g : TargetsFit s x) : TargetsFit t y := by
  refine ⟨fun f hf => ?_, fun d hd => ?_⟩
  · have : (f.fraction, f.target) ∈ y.stages.map (fun g => (g.fraction, g.target)) := List.mem_map_of_mem (f := fun
      g : StageFrame => (g.fraction, g.target)) hf
    rw [h.stages] at this
    obtain ⟨q, hq, he⟩ := List.mem_map.1 this
    simp only [Prod.mk.injEq] at he
    rw [← he.1, ← he.2, h.anchor, w.tl]
    exact g.1 q hq
  · rw [h.anchor, w.tl]; exact g.2 d (h.datum ▸ hd)

theorem OnPath.congr {s t x y} (w : SameWalk s t) (h : SameSess x y) (hph : PhaseSuits t y) (g : OnPath s x) :
    OnPath t y := by
  obtain ⟨⟨path, count, before, after, g1, g2, ⟨g3, g3'⟩, g4, g5⟩, _, g6⟩ := g
  refine ⟨⟨path, count, before, after, by rw [w.res, h.cls]; exact g1, by rw [h.step]; exact g2,
      ⟨by rw [w.sch, h.marks]; exact g3, by rw [w.sch, h.cycles]; exact g3'⟩,
    by rw [w.sch, h.anchor, w.tl]; exact g4, by rw [w.sch, h.lock]; exact g5⟩, hph, h.fit w g6⟩

theorem StepDone.congr {s t x y} (w : SameWalk s t) (h : SameSess x y) (g : StepDone s x) : StepDone t y := by
  obtain ⟨⟨path, count, before, after, g1, g2, ⟨g3, g3'⟩, g4, g5⟩, g7, g6⟩ := g
  refine ⟨⟨path, count, before, after, by rw [w.res, h.cls]; exact g1, by rw [h.step]; exact g2,
      ⟨by rw [w.sch, h.marks, h.step]; exact g3, by rw [w.sch, h.cycles, h.step]; exact g3'⟩,
    by rw [w.sch, h.anchor, w.tl]; exact g4, by rw [w.sch, h.lock]; exact g5⟩, by rw [w.sch, h.step]; exact g7, h.fit w g6⟩

theorem PhaseSuits.congr {s t x y} (w : SameWalk s t) (h : SameSess x y) (hp : y.phase = x.phase)
    (g : PhaseSuits s x) : PhaseSuits t y := by
  unfold PhaseSuits at g ⊢
  rw [hp, h.step, w.sch, h.datum]; exact g

/-- The walk is the same, and an open session keeps all that its place on the path is about. -/
structure WalkKept (s t : State) : Prop where
  walk : SameWalk s t
  sess : ∀ y, t.session = some y → ∃ x, s.session = some x ∧ SameSess x y ∧ y.phase = x.phase

theorem WalkKept.refl (s) : WalkKept s s := ⟨SameWalk.refl s, fun y hy => ⟨y, hy, SameSess.refl y, rfl⟩⟩

theorem WalkKept.trans {a b c} (h : WalkKept a b) (g : WalkKept b c) : WalkKept a c :=
  ⟨h.1.trans g.1, fun z hz => by
    obtain ⟨y, hy, e1, p1⟩ := g.2 z hz
    obtain ⟨x, hx, e2, p2⟩ := h.2 y hy
    exact ⟨x, hx, e2.trans e1, p1.trans p2⟩⟩

theorem WalkKept.ok {s t} (h : WalkKept s t) (g : SessionOnPath s) : SessionOnPath t := fun y hy => by
  obtain ⟨x, hx, e, p⟩ := h.2 y hy
  exact (g x hx).congr h.1 e ((g x hx).phase.congr h.1 e p)

theorem WalkKept.of_session {s t} (h1 : SameWalk s t) (h2 : t.session = s.session) : WalkKept s t :=
  ⟨h1, fun y hy => ⟨y, h2 ▸ hy, SameSess.refl y, rfl⟩⟩

theorem WalkKept.of_frame {s t ps} (hf : OnlyChanges ps s t) (h1 : Part.anchors ∉ ps) (h2 : Part.schedule ∉ ps)
    (h3 : Part.results ∉ ps) (h4 : Part.session ∉ ps) : WalkKept s t :=
  WalkKept.of_session (SameWalk.of_frame hf h1 h2 h3) (hf _ h4)

/-- An open session has carried out its step. -/
def SessionDue (s : State) : Prop := ∀ x, s.session = some x → StepDone s x

theorem WalkKept.due {s t} (h : WalkKept s t) (g : SessionDue s) : SessionDue t := fun y hy => by
  obtain ⟨x, hx, e, p⟩ := h.2 y hy
  exact (g x hx).congr h.1 e

theorem testLoad_replace {s t : State} {old new : AnchorRec} (hf : findAnchor s new.id = some old)
    (hd : new.design = old.design) (ha : t.anchors = replaceAnchor s.anchors new) (a) : testLoad t a =
    testLoad s a := by
  unfold testLoad findAnchor
  rw [ha]
  by_cases h : a = new.id
  · subst h
    have hid := findAnchor_id hf
    have hf' : s.anchors.find? (fun x => x.id = old.id) = some old := by rw [hid]; exact hf
    have := find_replace_self s.anchors old new hf' hid.symm
    unfold findAnchor at hf
    rw [hf]
    rw [hid] at this
    rw [this]
    simp [hd]
  · rw [find_replace_ne _ _ _ h]

theorem writeAnchor_rel (e : Ev) {old new : AnchorRec} (hf : findAnchor e.st new.id = some old)
    (hd : new.design = old.design) : WalkKept e.st (e.writeAnchor new).st :=
  WalkKept.of_session ⟨rfl, rfl, testLoad_replace hf hd rfl⟩ rfl

theorem changeStage_rel (e : Ev) {old new : AnchorRec} (hf : findAnchor e.st new.id = some old)
    (hd : new.design = old.design) : WalkKept e.st (e.changeStage old new).st :=
  have hp := changeStage_frame e old new
  WalkKept.of_session ⟨hp .schedule (by simp), hp .results (by simp), testLoad_replace hf hd (changeStage_anchors e
      old new)⟩ (hp .session (by simp))

theorem changeResult_rel (e : Ev) (f) : WalkKept e.st (e.changeResult f).st := by
  unfold Ev.changeResult
  split
  · exact WalkKept.refl _
  · rename_i o ho
    exact writeAnchor_rel e (old := o.rec_) (openTest_find' ho).1 rfl

theorem changeSession_rel (e : Ev) (f : Session → Session)
    (h : ∀ x, e.st.session = some x → SameSess x (f x) ∧ (f x).phase = x.phase) :
    WalkKept e.st (e.changeSession f).st := by
  refine ⟨SameWalk.of_frame (changeSession_frame e f) (by simp) (by simp) (by simp), fun y hy => ?_⟩
  simp only [Ev.changeSession, Ev.mod_st, Option.map_eq_some_iff] at hy
  obtain ⟨x, hx, rfl⟩ := hy
  exact ⟨x, hx, (h x hx).1, (h x hx).2⟩

theorem takeReading_rel (e : Ev) (b) : WalkKept e.st (e.takeReading b).st := by
  unfold Ev.takeReading
  split
  · rename_i o i ho hi
    generalize hE : ((e.mod fun s =>
        { s with pool := fillEntry s.pool i { owner := o.rec_.id, position := o.result.readings.length + 1, stamp := o.result.stamp, body := some b } }).changeSession fun x => { x with reservation := x.reservation - 1 }).dirtied (.entry i) = e1
    have h1 : WalkKept e.st e1.st := by
      rw [← hE]
      refine WalkKept.trans (b := (e.mod fun s =>
          { s with pool := fillEntry s.pool i { owner := o.rec_.id, position := o.result.readings.length + 1, stamp := o.result.stamp, body := some b } }).st) (WalkKept.of_session ⟨rfl, rfl, fun _ => rfl⟩ rfl) ?_
      exact changeSession_rel _ _ fun x _ => ⟨⟨rfl, rfl, rfl, rfl, rfl, rfl, rfl⟩, rfl⟩
    have h2 := h1.trans (writeAnchor_rel e1 (old := o.rec_) (new := appendReading o i)
        (by rw [← hE]; exact (openTest_find' ho).1) rfl)
    rw [← hE] at h2
    exact h2
  · exact WalkKept.refl _

theorem returnReadings_rel (e : Ev) (b) : WalkKept e.st (e.returnReadings b).st := by
  unfold Ev.returnReadings
  split
  · exact WalkKept.refl _
  · rename_i o ho
    generalize hE : ((e.mod fun s =>
        { s with pool := { reserved := b.foldl (fun acc i => insertNat i acc) s.pool.reserved, used := s.pool.used.filter fun r => !b.contains r.index } }).changeSession fun x => { x with reservation := x.reservation + b.length }) = e1
    have h1 : WalkKept e.st e1.st := by
      rw [← hE]
      refine WalkKept.trans (b := (e.mod fun s =>
          { s with pool := { reserved := b.foldl (fun acc i => insertNat i acc) s.pool.reserved, used := s.pool.used.filter fun r => !b.contains r.index } }).st) (WalkKept.of_session ⟨rfl, rfl, fun _ => rfl⟩ rfl) ?_
      exact changeSession_rel _ _ fun x _ => ⟨⟨rfl, rfl, rfl, rfl, rfl, rfl, rfl⟩, rfl⟩
    refine h1.trans (writeAnchor_rel e1 (old := o.rec_) ?_ ?_)
    · rw [← hE]; exact (openTest_find' ho).1
    · rfl

theorem takeSummaries_rel (e : Ev) (l p) : WalkKept e.st (e.takeSummaries l p).st := by
  unfold Ev.takeSummaries
  split
  · exact WalkKept.refl _
  · rename_i f rest
    have h1 := takeReading_rel e (summaryBody e.st f p)
    generalize e.takeReading (summaryBody e.st f p) = e1 at h1
    induction rest generalizing e1 with
    | nil => exact h1
    | cons g more ih =>
      simp only [List.foldl_cons]
      exact ih _ (h1.trans (takeReading_rel _ _))

theorem writeCreep_rel (e : Ev) (b k) : WalkKept e.st (e.writeCreep b k).st := by
  unfold Ev.writeCreep; split
  · exact changeResult_rel _ _
  · exact WalkKept.refl _

theorem SessionOnPath.none {s} (h : s.session = none) : SessionOnPath s := fun x hx => by rw [h] at hx; cases hx

theorem endWith_path (e : Ev) (v) (h : openTest e.st = none → SessionOnPath e.st) :
    SessionOnPath (e.endWith v).st := by
  unfold Ev.endWith
  split
  · exact h (by assumption)
  · apply SessionOnPath.none
    exact (changeStage_frame _ _ _) .session (by simp)

theorem announce_path (e : Ev) (h : SessionOnPath e.st) : SessionOnPath e.announceStep.st := by
  rw [announceStep_st]; exact h

/-- The next step of a session that has carried out its step. -/
theorem moveOn_path (e : Ev) (hr : e.st.results = validateAll e.st.schedule) (h : SessionDue e.st) :
    SessionOnPath e.moveOn.st := by
  refine announce_path _ fun y hy => ?_
  simp only [Ev.changeSession, Ev.mod_st, Option.map_eq_some_iff] at hy
  obtain ⟨x, hx, rfl⟩ := hy
  obtain ⟨⟨path, count, before, after, g1, g2, g3, g4, g5⟩, g7, g6⟩ := h x hx
  obtain ⟨a1, a2⟩ := at_step hr g1 g2
  have hw : SameWalk e.st (e.changeSession fun x => match (stepAt e.st.schedule x.step).next with
    | .none => x
    | some j => { x with step := j, phase := phaseAt (stepAt e.st.schedule j) }).st := SameWalk.of_frame
        (changeSession_frame e _) (by simp) (by simp) (by simp)
  have hn := (finding_kind a1).2.2 g7
  cases hnx : (stepAt e.st.schedule x.step).next with
  | none => exact absurd hnx hn
  | some j =>
    rw [hnx] at a2
    cases after with
    | nil => simp at a2
    | cons k rest =>
      simp only [List.head?_cons, Option.some.injEq] at a2
      subst a2
      simp only
      refine ⟨⟨path, count, before ++ [x.step], rest, g1, by rw [g2]; simp, g3, ?_, g5⟩, ?_, ?_⟩
      · exact g4
      · show PhaseSuits _ _
        unfold PhaseSuits phaseAt
        simp only [Ev.changeSession, Ev.mod_st]
        cases hst : stepAt e.st.schedule j <;> simp [StepRec.kind]
      · exact g6

theorem SameSess.top (x : Session) (f : StageFrame → StageFrame)
    (hf : ∀ g, (f g).fraction = g.fraction ∧ (f g).target = g.target) : SameSess x (changeTop x f) ∧
    (changeTop x f).phase = x.phase := by
  unfold changeTop
  split
  · exact ⟨SameSess.refl x, rfl⟩
  · rename_i t r hst
    exact ⟨⟨rfl, rfl, rfl, rfl, rfl, by simp [hst, hf t], rfl⟩, rfl⟩

theorem top_rel (e : Ev) (f : StageFrame → StageFrame)
    (hf : ∀ g, (f g).fraction = g.fraction ∧ (f g).target = g.target) :
    WalkKept e.st (e.changeSession fun x => changeTop x f).st :=
  changeSession_rel _ _ fun x _ => SameSess.top x f hf

/-- In HOLDING the step is a HOLD, so the stack after it is the stack before it. -/
theorem hold_due {s : State} (hr : s.results = validateAll s.schedule) (h : SessionOnPath s)
    (hh : ∀ x, s.session = some x → (stepAt s.schedule x.step).kind = .hold) : SessionDue s := by
  intro x hx
  obtain ⟨⟨path, count, before, after, g1, g2, ⟨g3, g3'⟩, g4, g5⟩, gp, g6⟩ := h x hx
  obtain ⟨a1, a2⟩ := at_step hr g1 g2
  have hk := hh x hx
  obtain ⟨k1, k2, k3⟩ := finding_kind a1
  cases hst : stepAt s.schedule x.step <;> rw [hst] at hk <;> simp only [StepRec.kind, reduceCtorEq] at hk
  rename_i d l ex nx
  have hsn : (simAlong s.schedule (before ++ [x.step])).stack.map (fun g => (g.fraction, g.isDatum)) = (simAlong
      s.schedule before).stack.map (fun g => (g.fraction, g.isDatum)) := by
    rw [simAlong_snoc, hst]
    simp only [Sim.pass, Sim.change]
    cases (simAlong s.schedule before).stack <;> rfl
  refine ⟨⟨path, count, before, after, g1, g2, ⟨by rw [hsn]; exact g3, ?_⟩, g4,
      g5⟩, by rw [hst]; simp [StepRec.kind], g6⟩
  rw [simAlong_snoc, hst]; exact g3'

/-- The results are those of the validation of the table (R105). -/
abbrev ResultsCurrent (s : State) : Prop := s.results = validateAll s.schedule

theorem SameWalk.val {s t} (w : SameWalk s t) (h : ResultsCurrent s) : ResultsCurrent t := by
  unfold ResultsCurrent; rw [w.res, w.sch]; exact h

theorem openTest_none {s} (h : PoolSound s) (ho : openTest s = none) : s.session = none := by
  cases hx : s.session with
  | none => rfl
  | some x => obtain ⟨o, h1, _⟩ := openTest_spec h hx; rw [ho] at h1; cases h1

/-- The shape of the simulated stack after a walked prefix. -/
structure SimShape (m : Sim) : Prop where
  stack : m.stack ≠ []
  rising : (m.stack.map (·.fraction)).Pairwise (· > ·)
  depth : m.stack.length ≤ 8
  cycles : m.cycles ≤ 7
  base : m.stack.getLast?.map (·.isDatum) = some true

theorem dropWhile_nonempty {f : Nat} :
    ∀ (l : List SimFrame) (h : l ≠ []), ¬ f < ((l.getLast?.map (·.fraction)).getD 0) →
    (l.dropWhile fun g => decide (f < g.fraction)) ≠ [] := by
  intro l
  induction l with
  | nil => intro h; exact absurd rfl h
  | cons a rest ih =>
    intro _ hf
    simp only [List.dropWhile_cons]
    split
    · rename_i ha
      cases rest with
      | nil => simp at hf ha; omega
      | cons b r => exact ih (by simp) (by simpa using hf)
    · simp

theorem pass_shape {m : Sim} {i r} (h : stepFinding m r = none)
    (hm : m.path = [] ∧ m.stack = [] ∧ m.cycles = 0 ∨ m.path ≠ [] ∧ SimShape m) : SimShape (m.pass i r) := by
  have last_drop : ∀ (f : Nat) (l : List SimFrame), (l.dropWhile fun g => decide (f < g.fraction)) ≠ [] →
      (l.dropWhile fun g => decide (f < g.fraction)).getLast? = l.getLast? := by
    intro f l h
    obtain ⟨pre, hp⟩ := List.dropWhile_suffix (l := l) (fun g => decide (f < g.fraction))
    conv_rhs => rw [← hp]
    rw [List.getLast?_append_of_ne_nil _ h]
  obtain ⟨k1, k2, k3⟩ := finding_kind h
  rcases hm with ⟨h1, h2, h3⟩ | ⟨h1, s1, s2, s3, s4, s5⟩
  · have hk := k2 h1
    cases r <;> simp only [StepRec.kind, reduceCtorEq] at hk
    simp only [Sim.pass, Sim.change]
    exact ⟨by simp, by simp [h2], by simp [h2], by simp [h3], by simp [h2]⟩
  · simp only [Sim.pass]
    cases r with
    | datum f n => simp [kindFinding, h1] at k1
    | loadTo f n =>
      simp only [kindFinding] at k1
      split_ifs at k1 with c1 c2 c3
      simp only [Sim.change]
      refine ⟨by simp, ?_, by simp; omega, ?_, ?_⟩
      · simp only [List.map_cons, List.pairwise_cons]
        refine ⟨fun y hy => ?_, s2⟩
        unfold Sim.top at c1
        cases hst : m.stack with
        | nil => exact absurd hst s1
        | cons a rest =>
          rw [hst] at c1 hy s2
          simp only [List.head?_cons, Option.map_some, Option.getD_some, List.map_cons, List.mem_cons,
              List.pairwise_cons] at c1 hy s2
          rcases hy with rfl | hy
          · omega
          · have := s2.1 y hy; omega
      · simp only
        split
        · rename_i hd
          have : ¬ m.cycles = 7 := fun hc => c3 ⟨hd, hc⟩
          omega
        · exact s4
      · cases hst : m.stack with
        | nil => exact absurd hst s1
        | cons a rest => rw [hst] at s5; simpa [List.getLast?_cons_cons] using s5
    | hold d l x n =>
      simp only [Sim.change]
      cases hst : m.stack with
      | nil => exact absurd hst s1
      | cons a rest =>
        rw [hst] at s2 s3
        exact ⟨by simp [holdTop], by simpa [holdTop] using s2, by simpa [holdTop] using s3, s4, by
          rw [hst] at s5
          cases rest with
          | nil => simpa [holdTop] using s5
          | cons b r => simpa [holdTop, List.getLast?_cons_cons] using s5⟩
    | unloadTo f n =>
      simp only [kindFinding] at k1
      split_ifs at k1 with c1 c2
      simp only [Sim.change]
      refine ⟨dropWhile_nonempty _ s1 c2, ?_, ?_, s4, by rw [last_drop _ _ (dropWhile_nonempty _ s1 c2)]; exact s5⟩
      · exact s2.sublist ((List.dropWhile_sublist _).map _)
      · exact le_trans (List.dropWhile_sublist _).length_le s3
    | lockOff n => exact ⟨s1, s2, s3, s4, s5⟩
    | liftOff n => exact ⟨s1, s2, s3, s4, s5⟩
    | endStep => exact ⟨s1, s2, s3, s4, s5⟩

theorem simAlong_shape {s : State} (hr : ResultsCurrent s) {c p n} (h : s.results.get c = .valid p n) :
    ∀ before after, p = before ++ after →
    (before = [] ∧ (simAlong s.schedule before).stack = [] ∧ (simAlong s.schedule before).cycles = 0) ∨
    (before ≠ [] ∧ SimShape (simAlong s.schedule before)) := by
  intro before
  induction before using List.reverseRecOn with
  | nil => intro _ _; left; exact ⟨rfl, rfl, rfl⟩
  | append_singleton l i ih =>
    intro after hp
    right
    refine ⟨by simp, ?_⟩
    have hp' : p = l ++ i :: after := by rw [hp]; simp
    rw [simAlong_snoc]
    refine pass_shape (at_step hr h hp').1 ?_
    rw [simAlong_path]
    rcases ih (i :: after) hp' with ⟨rfl, a, b⟩ | ⟨a, b⟩
    · left; exact ⟨rfl, a, b⟩
    · right; exact ⟨a, b⟩

theorem marks_datum {m : Sim} {x : Session} (hm : StackMatches m x) {d} (hd : x.datum = some d) : m.datum =
    d.fraction ∧ m.stack ≠ [] := by
  have h := hm.1
  unfold frameMarks at h
  rw [hd] at h
  simp only [Option.map_some, Option.toList_some] at h
  have hne : m.stack ≠ [] := by intro he; rw [he] at h; simp at h
  refine ⟨?_, hne⟩
  have h2 := congrArg List.getLast? h
  rw [List.getLast?_map, List.getLast?_append] at h2
  simp only [List.getLast?_singleton] at h2
  unfold Sim.datum
  cases hl : m.stack.getLast? with
  | none => rw [hl] at h2; simp at h2
  | some g => rw [hl] at h2; simp at h2; simp [h2.1]

/-- DATUM carried out -/
theorem datum_due {s t : State} {x : Session} (hr : ResultsCurrent s) (g : OnPath s x) {f n} (hk : stepAt s.schedule
    x.step = .datum f n) (w : SameWalk s t) {y : Session}
    (hy : SameSess { x with datum := y.datum } y) {d} (hd : y.datum = some d) (h1 : d.fraction = f) (h2 : d.target =
        targetOf (testLoad s x.anchor) f) : StepDone t y := by
  obtain ⟨⟨path, count, before, after, g1, g2, ⟨g3, g3'⟩, g4, g5⟩, gp, g6⟩ := g
  obtain ⟨a1, a2⟩ := at_step hr g1 g2
  obtain ⟨k1, k2, k3⟩ := finding_kind a1
  rw [hk] at k1
  have hb : before = [] := by
    by_contra hb
    simp [kindFinding, simAlong_path, hb] at k1
  subst hb
  have hx : x.stages = [] ∧ x.datum = none := by
    simp only [simAlong, List.foldl_nil, Sim.start, List.map_nil, frameMarks] at g3
    have := congrArg List.length g3
    simp only [List.length_nil, List.length_append, List.length_map] at this
    refine ⟨List.eq_nil_of_length_eq_zero (by omega), ?_⟩
    cases hdt : x.datum with
    | none => rfl
    | some d => rw [hdt] at this; simp at this
  have hys : y.stages = [] := by
    have := hy.stages
    simp only [hx.1, List.map_nil, List.map_eq_nil_iff] at this
    exact this
  refine ⟨⟨path, count, [], after, by rw [w.res, hy.cls]; exact g1, by rw [hy.step]; exact g2, ⟨?_,
      ?_⟩, by rw [w.sch, hy.anchor, w.tl]; exact g4, by rw [w.sch, hy.lock]; exact g5⟩,
    by rw [w.sch, hy.step]; simp only; rw [hk]; simp [StepRec.kind], ?_, ?_⟩
  · rw [w.sch, hy.step, simAlong_snoc]; simp only; rw [hk]
    unfold frameMarks; rw [hys, hd]
    simp [simAlong, Sim.start, Sim.pass, Sim.change, h1]
  · rw [w.sch, hy.step, simAlong_snoc, hy.cycles]; simp only; rw [hk]
    exact g3'
  · rw [hys]; simp
  · intro e he
    rw [hd] at he; cases he
    rw [hy.anchor, w.tl, h1]; exact h2

/-- LOAD_TO carried out -/
theorem load_due {s t : State} {x : Session} (hr : ResultsCurrent s) (g : OnPath s x) {f n} (hk : stepAt s.schedule
    x.step = .loadTo f n) (w : SameWalk s t) {y : Session} {fr : StageFrame}
    (hfr : fr.fraction = f ∧ fr.target = targetOf (testLoad s x.anchor) f)
    (hy : SameSess
        { x with stages := fr :: x.stages, cycles := if x.stages.isEmpty then x.cycles + 1 else x.cycles } y) :
        StepDone t y := by
  refine StepDone.congr (s := s) w hy ?_
  obtain ⟨⟨path, count, before, after, g1, g2, ⟨g3, g3'⟩, g4, g5⟩, gp, g6⟩ := g
  obtain ⟨a1, a2⟩ := at_step hr g1 g2
  obtain ⟨k1, k2, k3⟩ := finding_kind a1
  have hsh : SimShape (simAlong s.schedule before) := by
    rcases simAlong_shape hr g1 before _ g2 with ⟨rfl, _⟩ | ⟨_, h⟩
    · have := k2 (by rw [simAlong_path]); rw [hk] at this; cases this
    · exact h
  have hon : (simAlong s.schedule before).onDatum = x.stages.isEmpty := by
    unfold Sim.onDatum
    cases hst : (simAlong s.schedule before).stack with
    | nil => exact absurd hst hsh.stack
    | cons a rest =>
      rw [hst] at g3
      unfold frameMarks at g3
      cases hxs : x.stages with
      | nil =>
        rw [hxs] at g3
        cases hxd : x.datum with
        | none => rw [hxd] at g3; simp at g3
        | some d => rw [hxd] at g3; simp at g3; simp [g3.1.2]
      | cons b more => rw [hxs] at g3; simp at g3; simp [g3.1.2]
  refine ⟨⟨path, count, before, after, g1, g2, ⟨?_, ?_⟩, g4, g5⟩, by simp only; rw [hk]; simp [StepRec.kind], ?_,
      g6.2⟩
  · rw [simAlong_snoc]; simp only; rw [hk]
    simp only [Sim.pass, Sim.change, List.map_cons, g3]
    simp [frameMarks, hfr.1]
  · rw [simAlong_snoc]; simp only; rw [hk]
    simp only [Sim.pass, Sim.change, hon, g3']
  · intro q hq
    rcases List.mem_cons.1 hq with rfl | hq
    · rw [hfr.1]; exact hfr.2
    · exact g6.1 q hq

theorem dropWhile_marks (f : Nat) (l : List StageFrame) (tail : List (Nat × Bool)) (ht : ∀ d ∈ tail, ¬ f < d.1) :
    (l.map (fun g => (g.fraction, false)) ++ tail).dropWhile (fun p => decide (f < p.1)) =
    (l.dropWhile fun g => decide (f < g.fraction)).map (fun g => (g.fraction, false)) ++ tail := by
  induction l with
  | nil =>
    cases tail with
    | nil => rfl
    | cons d r => have := ht d (by simp); simp [this]
  | cons a rest ih =>
    simp only [List.map_cons, List.cons_append, List.dropWhile_cons]
    split
    · exact ih
    · simp

/-- UNLOAD_TO carried out -/
theorem unload_due {s t : State} {x : Session} (hr : ResultsCurrent s) (g : OnPath s x) {f n} (hk : stepAt
    s.schedule x.step = .unloadTo f n) (w : SameWalk s t) {y : Session}
    (hy : SameSess { x with stages := x.stages.dropWhile fun g => decide (f < g.fraction) } y) : StepDone t y := by
  refine StepDone.congr (s := s) w hy ?_
  obtain ⟨⟨path, count, before, after, g1, g2, g3, g4, g5⟩, gp, g6⟩ := g
  obtain ⟨a1, a2⟩ := at_step hr g1 g2
  obtain ⟨k1, k2, k3⟩ := finding_kind a1
  rw [hk] at k1
  simp only [kindFinding] at k1
  split_ifs at k1 with c1 c2
  refine ⟨⟨path, count, before, after, g1, g2, ⟨?_, ?_⟩, g4, g5⟩, by simp only; rw [hk]; simp [StepRec.kind], ?_,
      g6.2⟩
  · rw [simAlong_snoc]; simp only; rw [hk]
    simp only [Sim.pass, Sim.change]
    have h1 : ((simAlong s.schedule before).stack.dropWhile fun g => decide (f < g.fraction)).map (fun g =>
        (g.fraction, g.isDatum)) =
        ((simAlong s.schedule before).stack.map fun g => (g.fraction, g.isDatum)).dropWhile fun p => decide (f <
            p.1) := by
      rw [List.dropWhile_map]; rfl
    rw [h1, g3.1]
    unfold frameMarks
    rw [dropWhile_marks]
    intro d hd
    cases hxd : x.datum with
    | none => rw [hxd] at hd; simp at hd
    | some e =>
      rw [hxd] at hd; simp at hd; subst hd
      rw [(marks_datum g3 hxd).1] at c2
      exact c2
  · rw [simAlong_snoc]; simp only; rw [hk]
    exact g3.2
  · intro q hq
    exact g6.1 q ((List.dropWhile_sublist _).subset hq)

theorem endWith_p (e : Ev) (v) (h : PoolSound e.st) : SessionOnPath (e.endWith v).st :=
  endWith_path e v fun ho => SessionOnPath.none (openTest_none h ho)

theorem raise_path {e : Ev} (n) (h : SessionOnPath e.st) : SessionOnPath (e.raise n).st := h

theorem completeHold_path (e : Ev) (top k) (hv : ResultsCurrent e.st) (h : SessionDue e.st) :
    SessionOnPath (e.completeHold top k).st := by
  have key : ∀ e1 : Ev, WalkKept e.st e1.st → SessionOnPath ((match e1.st.session with
      | none => e1
      | some x => ((e1.changeSession fun y => changeTop y fun f => { f with holdDone := true }).raise
          (.holdComplete x.anchor top.target top.holdReadings.length top.ks top.ks2 top.rehold)).moveOn) :
              Ev).st := by
    intro e1 h1
    split
    · rename_i hn; exact SessionOnPath.none hn
    · have h2 := h1.trans (top_rel e1 (fun f => { f with holdDone := true }) (fun _ => ⟨rfl, rfl⟩))
      exact moveOn_path _ (h2.walk.val hv) (h2.due h)
  unfold Ev.completeHold
  cases k with
  | none => exact key e (WalkKept.refl _)
  | some k => exact key _ (writeCreep_rel _ _ _)

theorem failCreep_path (e : Ev) (top k) (h : PoolSound e.st) : SessionOnPath (e.failCreep top k).st :=
  endWith_p _ _ (writeCreep_pool _ _ _ h)

theorem decideAtD_path (e : Ev) (top hh) (hv : ResultsCurrent e.st) (hp : PoolSound e.st) (ho : SessionOnPath e.st)
    (h : SessionDue e.st) : SessionOnPath (e.decideAtD top hh).st := by
  unfold Ev.decideAtD
  split
  · exact completeHold_path _ _ _ hv h
  · have h2 := top_rel e (fun f => { f with ks := some (creepBetween e.st top 4 0) }) (fun _ => ⟨rfl, rfl⟩)
    have h3 := top_pool e (fun f => { f with ks := some (creepBetween e.st top 4 0) }) (fun _ => rfl) hp
    simp only
    split
    · exact completeHold_path _ _ _ (h2.walk.val hv) (h2.due h)
    · split
      · exact (h2.trans (top_rel _ (fun f => { f with creepExtended := true }) (fun _ => ⟨rfl, rfl⟩))).ok ho
      · exact failCreep_path _ _ _ h3

theorem decideAt10D_path (e : Ev) (top hh) (hv : ResultsCurrent e.st) (hp : PoolSound e.st) (h : SessionDue e.st) :
    SessionOnPath (e.decideAt10D top hh).st := by
  unfold Ev.decideAt10D
  have h2 := top_rel e (fun f => { f with ks2 := some (creepBetween e.st top 8 4) }) (fun _ => ⟨rfl, rfl⟩)
  have h3 := top_pool e (fun f => { f with ks2 := some (creepBetween e.st top 8 4) }) (fun _ => rfl) hp
  simp only
  split
  · exact completeHold_path _ _ _ (h2.walk.val hv) (h2.due h)
  · exact failCreep_path _ _ _ h3

/-- A session at a HOLD step. -/
def Holding (s : State) : Prop := ∀ x, s.session = some x → (stepAt s.schedule x.step).kind = .hold

theorem WalkKept.holding {s t} (r : WalkKept s t) (h : Holding s) : Holding t := fun y hy => by
  obtain ⟨x, hx, e, p⟩ := r.2 y hy
  rw [r.walk.sch, e.step]; exact h x hx

/-- The walk is the same, and an open session keeps its place, in HOLDING. -/
structure HoldKept (s t : State) : Prop where
  walk : SameWalk s t
  sess : ∀ y, t.session = some y → ∃ x, s.session = some x ∧ SameSess x y ∧ ∃ h, y.phase = .holding h

theorem HoldKept.ok {s t} (r : HoldKept s t) (hh : Holding s) (g : SessionOnPath s) : SessionOnPath t :=
  fun y hy => by
  obtain ⟨x, hx, e, h, hp⟩ := r.2 y hy
  refine (g x hx).congr r.1 e ?_
  unfold PhaseSuits; rw [hp, e.step, r.walk.sch]; exact hh x hx

theorem HoldKept.holding {s t} (r : HoldKept s t) (h : Holding s) : Holding t := fun y hy => by
  obtain ⟨x, hx, e, p⟩ := r.2 y hy
  rw [r.walk.sch, e.step]; exact h x hx

theorem WalkKept.hrel {a b c} (h : WalkKept a b) (g : HoldKept b c) : HoldKept a c :=
  ⟨h.1.trans g.1, fun z hz => by
    obtain ⟨y, hy, e1, p1⟩ := g.2 z hz
    obtain ⟨x, hx, e2, p2⟩ := h.2 y hy
    exact ⟨x, hx, e2.trans e1, p1⟩⟩

theorem hold_hrel (e : Ev) (f : Session → Session) (h : ∀ x, SameSess x (f x) ∧ ∃ h, (f x).phase = .holding h) :
    HoldKept e.st (e.changeSession f).st := by
  refine ⟨SameWalk.of_frame (changeSession_frame e f) (by simp) (by simp) (by simp), fun y hy => ?_⟩
  simp only [Ev.changeSession, Ev.mod_st, Option.map_eq_some_iff] at hy
  obtain ⟨x, hx, rfl⟩ := hy
  exact ⟨x, hx, (h x).1, (h x).2⟩

theorem setHold_same (x hh) : SameSess x (setHoldCtx x hh) := ⟨rfl, rfl, rfl, rfl, rfl, rfl, rfl⟩

theorem topHold_same (x f hh) (hf : ∀ g : StageFrame, (f g).fraction = g.fraction ∧ (f g).target = g.target) :
    SameSess x (setHoldCtx (changeTop x f) hh) :=
  (SameSess.top x f hf).1.trans (setHold_same _ _)

theorem reachPoint_path (e : Ev) (x hh i) (hi : e.st.pool.reserved.head? = some i) (hv : ResultsCurrent e.st)
    (hp : PoolSound e.st) (h : SessionOnPath e.st) (hk : Holding e.st) : SessionOnPath (e.reachPoint x hh i).st := by
  unfold Ev.reachPoint
  simp only
  have hr := (takeReading_rel e (readingNow e.st .holdPoint)).hrel (hold_hrel _ (fun y =>
    setHoldCtx (changeTop y fun f => { f with holdReadings := f.holdReadings ++ [i] })
        { hh with nextPoint := hh.nextPoint + 1 }) (fun x => ⟨topHold_same x _ _ (fun _ => ⟨rfl, rfl⟩), _, rfl⟩))
  have hp2 : PoolSound ((e.takeReading (readingNow e.st .holdPoint)).changeSession (fun y => setHoldCtx (changeTop y
      fun f => { f with holdReadings := f.holdReadings ++ [i] }) { hh with nextPoint := hh.nextPoint + 1 })).st := by
    exact pointTaken_pool e { hh with nextPoint := hh.nextPoint + 1 } i hi hp
  have h2 := hr.ok hk h
  have hv2 := hr.walk.val hv
  have hd := hold_due hv2 h2 (hr.holding hk)
  split
  · exact h2
  · split_ifs
    · exact decideAtD_path _ _ _ hv2 hp2 h2 hd
    · exact decideAt10D_path _ _ _ hv2 hp2 hd
    · exact h2

theorem setHold_path (e : Ev) (hh) (h : SessionOnPath e.st) (hk : Holding e.st) :
    SessionOnPath (e.changeSession fun y => setHoldCtx y hh).st :=
  (hold_hrel e _ fun x => ⟨setHold_same x hh, hh, rfl⟩).ok hk h

theorem runHold_path (e : Ev) (x hh) (hv : ResultsCurrent e.st) (hp : PoolSound e.st) (h : SessionOnPath e.st)
    (hk : Holding e.st) : SessionOnPath (e.runHold x hh).st := by
  unfold Ev.runHold
  simp only
  have hr := hold_hrel e _ fun x => ⟨setHold_same x
      { hh with begun := true, elapsed := hh.elapsed + 1, pause := 0 }, _, rfl⟩
  have := setHold_path e { hh with begun := true, elapsed := hh.elapsed + 1, pause := 0 } h hk
  split
  · split
    · exact this
    · exact reachPoint_path _ _ _ _ (by assumption) (hr.walk.val hv) (setHold_pool e _ hp) this (hr.holding hk)
  · exact this

theorem voidHold_path (e : Ev) (x top rest hh c) (hx : e.st.session = some x) (hst : x.stages = top :: rest)
    (hp : PoolSound e.st) (h : SessionOnPath e.st) (hk : Holding e.st) :
    SessionOnPath (e.voidHold x top hh c).st := by
  unfold Ev.voidHold
  simp only
  split
  · refine endWith_p _ _ (raise_pool _ (void_pool e x top rest hx hst _ (fun y => ?_) hp))
    refine ⟨(changeTop_keeps _ _).1, (changeTop_keeps _ _).2, fun hy => ?_⟩
    unfold changeTop holdIndices; rw [hy]; simp [voidedFrame]
  · have hr := (returnReadings_rel e top.holdReadings).hrel (hold_hrel _ (fun x => setHoldCtx (changeTop x fun f =>
      voidedFrame f (top.rehold + 1)) (newAttempt hh.duration hh.limit hh.extendable))
      (fun x => ⟨topHold_same x _ _ (fun _ => ⟨rfl, rfl⟩), _, rfl⟩))
    exact hr.ok hk h

theorem countHold_path (e : Ev) (x top rest hh b c) (hx : e.st.session = some x) (hst : x.stages = top :: rest)
    (hp : PoolSound e.st) (h : SessionOnPath e.st) (hk : Holding e.st) :
    SessionOnPath (e.countHold x top hh b c).st := by
  unfold Ev.countHold
  split
  · exact voidHold_path _ _ _ _ _ _ hx hst hp h hk
  · exact setHold_path _ _ h hk

theorem judgeHold_path (e : Ev) (x top rest hh) (hx : e.st.session = some x) (hst : x.stages = top :: rest)
    (hv : ResultsCurrent e.st) (hp : PoolSound e.st) (h : SessionOnPath e.st) (hk : Holding e.st) :
    SessionOnPath (e.judgeHold x top hh).st := by
  unfold Ev.judgeHold
  split_ifs <;> first
    | exact h
    | exact voidHold_path _ _ _ _ _ _ hx hst hp h hk
    | exact countHold_path _ _ _ _ _ _ _ hx hst hp h hk
    | exact runHold_path _ _ _ hv hp h hk

/-- A session at a LIFT_OFF step. -/
def Lifting (s : State) : Prop := ∀ x, s.session = some x → (stepAt s.schedule x.step).kind = .liftOff

theorem find_lock {sch : ScheduleData} : ∀ (l : List Nat) (m : Sim), Walked sch m l →
    (m.lockedOff = true → ∀ i ∈ l, (stepAt sch i).kind ≠ .lockOff) ∧ ∀ a i b, l = a ++ i :: b → (stepAt sch i).kind =
    .lockOff → l.find? (fun i => decide ((stepAt sch i).kind = .lockOff)) = some i := by
  intro l
  induction l with
  | nil => intro m _; exact ⟨fun _ i hi => (by cases hi), fun a i b h => (by simp at h)⟩
  | cons j rest ih =>
    intro m hw
    obtain ⟨h1, h2, h3⟩ := hw
    have hstep : m.lockedOff = true → (stepAt sch j).kind ≠ .lockOff := by
      intro hl hk
      have k1 := (finding_kind h1).1
      cases hst : stepAt sch j <;> rw [hst] at hk <;> simp only [StepRec.kind, reduceCtorEq] at hk
      rw [hst] at k1
      simp [kindFinding, hl] at k1
    have hkeep : m.lockedOff = true → (m.pass j (stepAt sch j)).lockedOff = true := by
      intro hl; simp only [Sim.pass, Sim.change]; split <;> first | exact hl | rfl
    obtain ⟨i1, i2⟩ := ih _ h3
    refine ⟨fun hl i hi => ?_, fun a i b he hk => ?_⟩
    · rcases List.mem_cons.1 hi with rfl | hi
      · exact hstep hl
      · exact i1 (hkeep hl) i hi
    · cases a with
      | nil =>
        simp only [List.nil_append, List.cons.injEq] at he
        obtain ⟨rfl, rfl⟩ := he
        simp [hk]
      | cons c a =>
        simp only [List.cons_append, List.cons.injEq] at he
        obtain ⟨rfl, rfl⟩ := he
        have hnl : (stepAt sch j).kind ≠ .lockOff := by
          intro hj
          have : (m.pass j (stepAt sch j)).lockedOff = true := by
            cases hst : stepAt sch j <;> rw [hst] at hj <;> simp only [StepRec.kind, reduceCtorEq] at hj
            rfl
          exact i1 this i (by simp) hk
        simp only [List.find?_cons, hnl, decide_false]
        exact i2 a i b rfl hk

theorem previous_snoc (sch) (l : List Nat) (i) : (simAlong sch (l ++ [i])).previous = some (stepAt sch i).kind := by
  rw [simAlong_snoc]; rfl

/-- The lock-off step just before a LIFT_OFF. -/
theorem relock_place {s : State} (hr : ResultsCurrent s) {x : Session} (g : OnPath s x) (hk : (stepAt s.schedule
    x.step).kind = .liftOff) :
    OnPath s { x with step := x.lockStep, phase := .approach } := by
  obtain ⟨⟨path, count, before, after, g1, g2, ⟨g3, g3'⟩, g4, g5⟩, gp, g6⟩ := g
  obtain ⟨a1, a2⟩ := at_step hr g1 g2
  obtain ⟨k1, k2, k3⟩ := finding_kind a1
  have hprev : (simAlong s.schedule before).previous = some .lockOff := by
    cases hst : stepAt s.schedule x.step <;> rw [hst] at hk <;> simp only [StepRec.kind, reduceCtorEq] at hk
    rw [hst] at k1
    simpa [kindFinding] using k1
  have hbn : before ≠ [] := by intro hb; subst hb; simp [simAlong, Sim.start] at hprev
  obtain ⟨l, i, rfl⟩ : ∃ l i, before = l ++ [i] := ⟨before.dropLast, before.getLast hbn,
      (List.dropLast_append_getLast hbn).symm⟩
  rw [previous_snoc, Option.some.injEq] at hprev
  have hlock : x.lockStep = i := by
    rw [g5]
    unfold lockStepOf
    have := (find_lock path Sim.start (valid_walked hr g1).1).2 l i (x.step :: after) (by rw [g2]; simp) hprev
    rw [this]; rfl
  have hsame : (simAlong s.schedule (l ++ [i])).stack = (simAlong s.schedule l).stack ∧ (simAlong s.schedule (l ++
      [i])).cycles = (simAlong s.schedule l).cycles := by
    rw [simAlong_snoc]
    cases hst : stepAt s.schedule i <;> rw [hst] at hprev <;> simp only [StepRec.kind, reduceCtorEq] at hprev
    exact ⟨rfl, rfl⟩
  refine ⟨⟨path, count, l, x.step :: after, g1, by rw [g2]; simp [hlock], ⟨?_, ?_⟩, g4, g5⟩, trivial, g6⟩
  · rw [← hsame.1]; exact g3
  · rw [← hsame.2]; exact g3'

theorem failLift_path (e : Ev) (x) (hv : ResultsCurrent e.st) (hp : PoolSound e.st) (h : SessionOnPath e.st)
    (hk : Lifting e.st) : SessionOnPath (e.failLift x).st := by
  unfold Ev.failLift
  split
  · refine announce_path _ fun y hy => ?_
    simp only [Ev.changeSession, Ev.mod_st, Option.map_eq_some_iff] at hy
    obtain ⟨z, hz, rfl⟩ := hy
    have := relock_place hv (h z hz) (hk z hz)
    exact OnPath.congr (x := { z with step := z.lockStep, phase := .approach }) (SameWalk.of_frame
        (changeSession_frame e _) (by simp) (by simp) (by simp)) ⟨rfl, rfl, rfl, rfl, rfl, rfl, rfl⟩ trivial this
  · exact endWith_p _ _ hp

theorem lift_rel (e : Ev) (p : LiftCtx) (h : SessionOnPath e.st) (hk : Lifting e.st) :
    SessionOnPath (e.changeSession fun y => { y with phase := .liftoff p }).st ∧ Lifting (e.changeSession fun y =>
        { y with phase := .liftoff p }).st ∧
    SameWalk e.st (e.changeSession fun y => { y with phase := .liftoff p }).st := by
  have w : SameWalk e.st (e.changeSession fun y => { y with phase := .liftoff p }).st := SameWalk.of_frame
      (changeSession_frame e _) (by simp) (by simp) (by simp)
  refine ⟨fun y hy => ?_, fun y hy => ?_, w⟩
  · simp only [Ev.changeSession, Ev.mod_st, Option.map_eq_some_iff] at hy
    obtain ⟨z, hz, rfl⟩ := hy
    exact OnPath.congr (x := z) w ⟨rfl, rfl, rfl, rfl, rfl, rfl, rfl⟩ (hk z hz) (h z hz)
  · simp only [Ev.changeSession, Ev.mod_st, Option.map_eq_some_iff] at hy
    obtain ⟨z, hz, rfl⟩ := hy
    exact hk z hz

theorem WalkKept.lifting {s t} (r : WalkKept s t) (h : Lifting s) : Lifting t := fun y hy => by
  obtain ⟨x, hx, e, p⟩ := r.2 y hy
  rw [r.walk.sch, e.step]; exact h x hx

theorem judgeLift_path (e : Ev) (x l) (hv : ResultsCurrent e.st) (hp : PoolSound e.st) (h : SessionOnPath e.st)
    (hk : Lifting e.st) : SessionOnPath (e.judgeLift x l).st := by
  have h0 := fun p : LiftCtx => lift_rel e p h hk
  have p0 := fun p : LiftCtx => changeSession_pool' e (fun y => { y with phase := .liftoff p }) (fun x => ⟨rfl, rfl,
      List.Sublist.refl _⟩) hp
  unfold Ev.judgeLift
  split
  · exact h
  · simp only
    split
    · unfold Ev.captureLift
      simp only
      have hr := fun p b => (changeResult_rel ((e.changeSession fun y => { y with phase := .liftoff p })) (fun t =>
          { t with plift := some (channelValue e.st.meas .load) })).trans (takeReading_rel _ b)
      have h2 := fun p b n => raise_pool (n := n) (takeReading_pool _ b (changeResult_pool _ (fun t =>
          { t with plift := some (channelValue e.st.meas .load) }) (fun _ => rfl) (p0 p)))
      split
      · exact endWith_p _ _ (h2 _ _ _)
      · exact failLift_path _ _ ((hr _ _).walk.val ((h0 _).2.2.val hv)) (h2 _ _ _) ((hr _ _).ok (h0 _).1) ((hr _
          _).lifting (h0 _).2.1)
    · split
      · have hr := takeReading_rel (e.changeSession fun y =>
          { y with phase := .liftoff (l.judge (channelValue e.st.meas .load) e.st.meas.extension (lockLoad e.st x.anchor)) })
        exact failLift_path _ _ ((hr _).walk.val ((h0 _).2.2.val hv)) (takeReading_pool _ _ (p0 _)) ((hr _).ok (h0
            _).1) ((hr _).lifting (h0 _).2.1)
      · exact (h0 _).1

theorem judgeSession_path (e : Ev) (hv : ResultsCurrent e.st) (hp : PoolSound e.st) (h : SessionOnPath e.st) :
    SessionOnPath e.judgeSession.st := by
  unfold Ev.judgeSession
  split
  · exact h
  · rename_i x hx
    have key : ∀ y, e.st.session = some y → y = x := fun y hy => by rw [hx] at hy; cases hy; rfl
    split
    · rename_i hph hst
      refine judgeHold_path _ _ _ _ _ hx hst hv hp h fun y hy => ?_
      have := (h x hx).phase
      unfold PhaseSuits at this
      rw [hph] at this
      rw [key y hy]; exact this
    · rename_i hph
      refine judgeLift_path _ _ _ hv hp h fun y hy => ?_
      have := (h x hx).phase
      unfold PhaseSuits at this
      rw [hph] at this
      rw [key y hy]; exact this
    · exact h

/-! Advance -/
theorem carryOut_path (e : Ev) (o : OpenTest) (arrival : Nat) (hv : ResultsCurrent e.st) (hp : PoolSound e.st)
    (h : SessionOnPath e.st) {x} (hx : e.st.session = some x) (ho : SameSess x o.sess) :
    SessionOnPath (e.carryOut o arrival).st := by
  have hs : o.sess.step = x.step := ho.step
  have only : ∀ y, e.st.session = some y → y = x := fun y hy => by rw [hx] at hy; cases hy; rfl
  have wch : ∀ f, SameWalk e.st (e.changeSession f).st := fun f => SameWalk.of_frame (changeSession_frame e f)
      (by simp) (by simp) (by simp)
  unfold Ev.carryOut
  split
  · rename_i f n hk
    rw [hs] at hk
    refine moveOn_path _ ((wch _).val hv) fun y hy => ?_
    simp only [Ev.changeSession, Ev.mod_st, Option.map_eq_some_iff] at hy
    obtain ⟨z, hz, rfl⟩ := hy
    cases only z hz
    exact datum_due hv (h _ hz) hk (wch _) (SameSess.refl _) rfl rfl rfl
  · rename_i f n hk
    rw [hs] at hk
    refine moveOn_path _ ((wch _).val hv) fun y hy => ?_
    simp only [Ev.changeSession, Ev.mod_st, Option.map_eq_some_iff] at hy
    obtain ⟨z, hz, rfl⟩ := hy
    cases only z hz
    exact load_due (fr := stageFrame e.st x f arrival) hv (h _ hz) hk (wch _) ⟨rfl, rfl⟩ ⟨rfl, rfl, rfl, rfl, rfl,
        rfl, rfl⟩
  · rename_i f n hk
    rw [hs] at hk
    unfold Ev.unload
    simp only
    have hts := fun p => takeSummaries_rel e (poppedFrames f o.sess) p
    have hd : ∀ p, SessionDue ((e.takeSummaries (poppedFrames f o.sess) p).changeSession fun x =>
        { x with stages := x.stages.dropWhile fun g => decide (f < g.fraction) }).st := by
      intro p y hy
      have w2 := SameWalk.of_frame (changeSession_frame (e.takeSummaries (poppedFrames f o.sess) p) fun x =>
          { x with stages := x.stages.dropWhile fun g => decide (f < g.fraction) }) (by simp) (by simp) (by simp)
      simp only [Ev.changeSession, Ev.mod_st, Option.map_eq_some_iff] at hy
      obtain ⟨z, hz, rfl⟩ := hy
      have hzs := (hts p).ok h z hz
      have hkz : stepAt (e.takeSummaries (poppedFrames f o.sess) p).st.schedule z.step = .unloadTo f n := by
        obtain ⟨x', hx', hs', _⟩ := (hts p).2 z hz
        cases only x' hx'
        rw [(hts p).walk.sch, hs'.step]; exact hk
      exact unload_due ((hts p).walk.val hv) hzs hkz w2 (SameSess.refl _)
    have hpool := fun p => changeSession_pool' _ (fun x =>
        { x with stages := x.stages.dropWhile fun g => decide (f < g.fraction) }) (fun x => ⟨rfl, rfl, drop_sublist
        f x⟩) (takeSummaries_pool e (poppedFrames f o.sess) p hp)
    have hval : ∀ p, ResultsCurrent ((e.takeSummaries (poppedFrames f o.sess) p).changeSession fun x =>
        { x with stages := x.stages.dropWhile fun g => decide (f < g.fraction) }).st := fun p =>
      SameWalk.val (SameWalk.of_frame (changeSession_frame _ _) (by simp) (by simp) (by simp)) ((hts p).walk.val hv)
    split
    · unfold Ev.evaluate
      rename_i v _ _
      have h1 : ∀ p, WalkKept ((e.takeSummaries (poppedFrames f o.sess) p).changeSession fun x =>
          { x with stages := x.stages.dropWhile fun g => decide (f < g.fraction) }).st
          ((match v.lapp with | none => ((e.takeSummaries (poppedFrames f o.sess) p).changeSession fun x => { x with stages := x.stages.dropWhile fun g => decide (f < g.fraction) }) | some l => ((e.takeSummaries (poppedFrames f o.sess) p).changeSession fun x => { x with stages := x.stages.dropWhile fun g => decide (f < g.fraction) }).changeResult fun t => { t with lapp := some l }) : Ev).st := by
        intro p
        split
        · exact WalkKept.refl _
        · exact changeResult_rel _ _
      have h2 : ∀ p, PoolSound
          ((match v.lapp with | none => ((e.takeSummaries (poppedFrames f o.sess) p).changeSession fun x => { x with stages := x.stages.dropWhile fun g => decide (f < g.fraction) }) | some l => ((e.takeSummaries (poppedFrames f o.sess) p).changeSession fun x => { x with stages := x.stages.dropWhile fun g => decide (f < g.fraction) }).changeResult fun t => { t with lapp := some l }) : Ev).st := by
        intro p
        split
        · exact hpool p
        · exact changeResult_pool _ _ (fun _ => rfl) (hpool p)
      simp only
      split
      · exact moveOn_path _ ((h1 _).walk.val (hval _)) ((h1 _).due (hd _))
      · exact endWith_p _ _ (h2 _)
    · exact moveOn_path _ (hval _) (hd _)
  · rename_i n hk
    rw [hs] at hk
    intro y hy
    simp only [Ev.changeSession, Ev.mod_st, Option.map_eq_some_iff] at hy
    obtain ⟨z, hz, rfl⟩ := hy
    cases only z hz
    refine OnPath.congr (x := x) (wch _) ⟨rfl, rfl, rfl, rfl, rfl, rfl, rfl⟩ ?_ (h _ hz)
    show (stepAt e.st.schedule x.step).kind = .lockOff
    rw [hk]; rfl
  all_goals exact h

theorem advanceReply_path (s : State) (hv : ResultsCurrent s) (hp : PoolSound s) (h : SessionOnPath s) :
    SessionOnPath (advanceReply s).ev.st := by
  unfold advanceReply
  split
  · exact h
  rename_i o ho
  obtain ⟨_, h2, _, _⟩ := openTest_find' ho
  split
  · exact h
  · exact h
  · exact h
  all_goals
    split
    · exact h
    unfold advanceOn
    split_ifs <;> first | exact h | skip
    unfold advanceDone
    have hr := takeReading_rel (Ev.of s)
    have hp2 := fun b => takeReading_pool (Ev.of s) b hp
    simp only
    rename_i k _ _ _ _ _ _
    have hx : ∃ x, ((Ev.of s).takeReading (readingNow s k)).st.session = some x ∧ SameSess x o.sess := by
      cases hs : ((Ev.of s).takeReading (readingNow s k)).st.session with
      | none =>
        exfalso
        have : ((Ev.of s).takeReading (readingNow s k)).st.session ≠ none := by
          unfold Ev.takeReading
          split
          · simp [Ev.changeSession, Ev.writeAnchor, Ev.mod, Ev.dirtied, Ev.of, h2]
          · simp [Ev.of, h2]
        exact this hs
      | some x =>
        obtain ⟨x', hx', e, _⟩ := (hr (readingNow s k)).2 x hs
        rw [show (Ev.of s).st.session = some o.sess from h2] at hx'
        cases hx'
        exact ⟨x, rfl, ⟨e.1.symm, e.2.symm, e.3.symm, e.4.symm, e.5.symm, e.6.symm, e.7.symm⟩⟩
    obtain ⟨x, hx, he⟩ := hx
    exact carryOut_path _ _ _ ((hr _).walk.val hv) (hp2 _) ((hr _).ok h) hx he

theorem stage_rel {s u : State} (old new : AnchorRec) (hid : new.id = old.id) (hf : findAnchor s old.id = some old)
    (hd : new.design = old.design) (ha : u.anchors = s.anchors) (h1 : u.schedule = s.schedule)
    (h2 : u.results = s.results) (hs : u.session = s.session) : WalkKept s ((Ev.of u).changeStage old new).st := by
  have h0 : WalkKept s u := WalkKept.of_session ⟨h1, h2, fun a => by unfold testLoad findAnchor; rw [ha]⟩ hs
  exact h0.trans (changeStage_rel (Ev.of u)
      (by rw [hid]; show findAnchor u old.id = _; unfold findAnchor; rw [ha]; exact hf) hd)

theorem testLoad_other {s t : State} (a) (h : findAnchor t a = findAnchor s a) : testLoad t a = testLoad s a := by
  unfold testLoad; rw [h]

/-- Only the loads of anchors under test matter. -/
theorem path_of {s t : State} (h1 : t.schedule = s.schedule) (h2 : t.results = s.results) (h3 : t.session = s.session)
    (h4 : ∀ x, s.session = some x → testLoad t x.anchor = testLoad s x.anchor) (g : SessionOnPath s) :
    SessionOnPath t := by
  intro x hx
  rw [h3] at hx
  obtain ⟨⟨path, count, before, after, g1, g2, g3, g4, g5⟩, gp, g6⟩ := g x hx
  refine ⟨⟨path, count, before, after, by rw [h2]; exact g1,
      g2, by rw [h1]; exact g3, by rw [h1, h4 x hx]; exact g4, by rw [h1]; exact g5⟩, ?_, ?_⟩
  · unfold PhaseSuits at gp ⊢; rw [h1]; exact gp
  · unfold TargetsFit at g6 ⊢; rw [h4 x hx]; exact g6

theorem underTest {s : State} (hp : PoolSound s) {x} (hx : s.session = some x) : ∃ r, findAnchor s x.anchor = some r ∧
    r.stage = .stressing := by
  obtain ⟨o, ho, rfl, hm, hst, _⟩ := openTest_spec hp hx
  obtain ⟨g1, g2, g3, g4⟩ := openTest_find' ho
  exact ⟨o.rec_, by rw [← g3]; exact g1, hst⟩

theorem defineAnchorReply_path (pl) (s : State) (hp : PoolSound s) (h : SessionOnPath s) :
    SessionOnPath (defineAnchorReply pl s).ev.st := by
  unfold defineAnchorReply
  split
  · exact h
  · split
    · split
      · rename_i r hr hst
        refine path_of (s := s) rfl rfl rfl (fun x hx => ?_) h
        obtain ⟨q, hq, hqs⟩ := underTest hp hx
        apply testLoad_other
        have hne : x.anchor ≠ r.id := by
          intro he
          have := find_self hr
          rw [← he, hq] at this; cases this
          rw [hqs] at hst; cases hst
        unfold findAnchor
        show (replaceAnchor s.anchors _).find? _ = _
        exact find_replace_ne _ _ _ hne
      · exact h
    · split
      · exact h
      · rename_i d hd _ hn _
        refine path_of (s := s) rfl rfl rfl (fun x hx => ?_) h
        obtain ⟨q, hq, hqs⟩ := underTest hp hx
        apply testLoad_other
        have hne : x.anchor ≠ anchorField pl := by
          intro he; rw [he, hn] at hq; cases hq
        unfold findAnchor
        show (insertAnchor _ s.anchors).find? _ = _
        exact find_insert_ne _ _ _ hne

theorem deleteAnchorReply_path (pl) (s : State) (hp : PoolSound s) (h : SessionOnPath s) :
    SessionOnPath (deleteAnchorReply pl s).ev.st := by
  unfold deleteAnchorReply
  split
  · exact h
  · rename_i r hr
    split
    · rename_i hst
      refine path_of (s := s) rfl rfl rfl (fun x hx => ?_) h
      obtain ⟨q, hq, hqs⟩ := underTest hp hx
      apply testLoad_other
      have hne : x.anchor ≠ r.id := by
        intro he
        have := find_self hr
        rw [← he, hq] at this; cases this
        rw [hqs] at hst; rcases hst with h | h <;> cases h
      unfold findAnchor
      show (eraseAnchor s.anchors r.id).find? _ = _
      exact find_erase_ne _ _ _ hne
    · exact h

theorem setAnchorGeometryReply_rel (pl) (s : State) : WalkKept s (setAnchorGeometryReply pl s).ev.st := by
  unfold setAnchorGeometryReply
  split
  · exact WalkKept.refl _
  · rename_i r hr
    split
    · exact WalkKept.refl _
    · split
      · exact WalkKept.refl _
      · exact writeAnchor_rel (Ev.of s) (old := r) (find_self hr) rfl

theorem abandonAnchorReply_rel (pl) (s : State) : WalkKept s (abandonAnchorReply pl s).ev.st := by
  unfold abandonAnchorReply
  split
  · exact WalkKept.refl _
  · rename_i r hr
    split
    · exact WalkKept.refl _
    · split
      · exact WalkKept.refl _
      · exact stage_rel (s := s) r _ rfl (find_self hr) rfl rfl rfl rfl rfl

theorem retestAnchorReply_rel (pl) (s : State) : WalkKept s (retestAnchorReply pl s).ev.st := by
  unfold retestAnchorReply
  split
  · exact WalkKept.refl _
  · rename_i r hr
    split
    · exact stage_rel (s := s) r _ rfl (find_self hr) rfl rfl rfl rfl rfl
    · exact WalkKept.refl _

theorem settleAnchorReply_rel (pl) (s : State) : WalkKept s (settleAnchorReply pl s).ev.st := by
  unfold settleAnchorReply
  split
  · exact WalkKept.refl _
  · rename_i r hr
    split
    · exact WalkKept.refl _
    · split
      · exact WalkKept.refl _
      · rename_i dest hdest
        split
        · exact WalkKept.refl _
        · split
          · exact WalkKept.refl _
          · split
            · exact WalkKept.refl _
            · refine stage_rel (s := s) r _ ?_ (find_self hr) ?_ ?_ ?_ ?_ ?_
              · unfold settledRecord; exact decided_id _ _ _ _
              · unfold settledRecord decidedRecord; split <;> rfl
              all_goals unfold settledFree settledPool; split_ifs <;> rfl

theorem cureExpiry_rel (s : State) (e) (he : cureExpiryEvent s = some e) : WalkKept s e.st := by
  unfold cureExpiryEvent at he
  split at he
  · split at he
    · simp only [Option.map_eq_some_iff] at he
      obtain ⟨r, hr, rfl⟩ := he
      exact stage_rel (s := s) r _ rfl (find_self hr) rfl rfl rfl rfl rfl
    · cases he
  · cases he

theorem tendonStartReply_rel (pl) (s : State) : WalkKept s (tendonStartReply pl s).ev.st := by
  unfold tendonStartReply
  split
  · exact WalkKept.refl _
  · rename_i r hr
    repeat (first | exact WalkKept.refl _ | exact stage_rel (s := s) r _ rfl (find_self hr) rfl rfl rfl rfl rfl |
        split)

theorem tendonDoneReply_rel (pl) (s : State) : WalkKept s (tendonDoneReply pl s).ev.st := by
  unfold tendonDoneReply
  split
  · exact WalkKept.refl _
  · rename_i r hr
    split
    · exact WalkKept.refl _
    · exact stage_rel (s := s) r _ rfl (find_self hr) rfl rfl rfl rfl rfl

theorem tendonWithdrawReply_rel (pl) (s : State) : WalkKept s (tendonWithdrawReply pl s).ev.st := by
  unfold tendonWithdrawReply
  split
  · exact WalkKept.refl _
  · rename_i r hr
    split
    · exact WalkKept.refl _
    · exact stage_rel (s := s) r _ rfl (find_self hr) rfl rfl rfl rfl rfl

theorem injectStartReply_rel (pl) (s : State) : WalkKept s (injectStartReply pl s).ev.st := by
  unfold injectStartReply
  split
  · unfold injectStartOn
    split
    · exact WalkKept.refl _
    · rename_i r hr
      repeat (first | exact WalkKept.refl _ | exact stage_rel (s := s) r _ rfl (find_self hr) rfl rfl rfl rfl rfl |
          split)
  · exact WalkKept.refl _

theorem injectEndReply_rel (pl) (s : State) : WalkKept s (injectEndReply pl s).ev.st := by
  unfold injectEndReply
  split
  · exact WalkKept.refl _
  split
  · exact WalkKept.refl _
  rename_i r hr
  split
  · exact WalkKept.refl _
  unfold injectEndDone
  refine stage_rel (s := s) r _ ?_ (find_self hr) ?_ rfl rfl rfl rfl
  all_goals unfold injectedRecord; split <;> rfl

theorem interruptReply_path (how) (s : State) (h : SessionOnPath s) : SessionOnPath (interruptReply how s).ev.st := by
  unfold interruptReply
  split
  · exact h
  · apply SessionOnPath.none
    refine Eq.trans ((changeStage_frame _ _ _) .session (by simp)) ?_
    unfold interruptedPool; split <;> rfl

theorem stressOpenReply_path (pl) (s : State) (hv : ResultsCurrent s) (h : SessionOnPath s) :
    SessionOnPath (stressOpenReply pl s).ev.st := by
  unfold stressOpenReply
  split
  · exact h
  rename_i r hr
  split
  · exact h
  split
  · exact h
  rename_i now hnow
  split
  · exact h
  split
  · exact h
  rename_i d hd
  split
  · exact h
  split
  · exact h
  split
  · exact h
  split
  · exact h
  unfold stressOpenOn
  split
  · exact h
  rename_i path count hres
  split
  · exact h
  rename_i heq
  split
  · exact h
  split
  · exact h
  split
  · exact h
  unfold stressOpenDone
  simp only [doneWith]
  refine announce_path _ ?_
  generalize hw : worstCase count s.config.params.relockMax = w at *
  generalize hx : openedSession s r d.cls path (fieldNat pl 2 2) w = x
  generalize hu : ({ s with session := some x, pool := reserveEntries s.pool w } : State) = u
  have ho : openedRecord r now w = openedRecord r now w := rfl
  have hrel : WalkKept u ((Ev.of u).changeStage r (openedRecord r now w)).st :=
    stage_rel (s := u) r _ rfl (by rw [← hu]; exact find_self hr) rfl rfl rfl rfl rfl
  refine hrel.ok fun y hy => ?_
  rw [← hu] at hy
  cases hy
  obtain ⟨hpw, hpn⟩ := valid_walked hv hres
  have htl : testLoad u r.id = d.tl := by
    unfold testLoad
    rw [show findAnchor u r.id = some r by rw [← hu]; exact find_self hr]
    simp [hd]
  have hsch : u.schedule = s.schedule := by rw [← hu]
  cases path with
  | nil => exact absurd rfl hpn
  | cons i rest =>
    refine ⟨⟨i :: rest, count, [], rest, ?_, ?_, ?_, ?_, ?_⟩, ?_, ?_⟩
    · rw [← hx, ← hu]; exact hres
    · rw [← hx]; rfl
    · rw [← hx]; exact ⟨rfl, rfl⟩
    · rw [← hx]; show equalTargets u.schedule (testLoad u r.id) [] _ = false
      rw [htl, hsch]; simpa using heq
    · rw [← hx, hsch]; rfl
    · rw [← hx]; exact rfl
    · rw [← hx]; exact ⟨fun g hg => (by cases hg), fun e he => (by cases he)⟩

theorem releaseReply_path (s : State) (hv : ResultsCurrent s) (h : SessionOnPath s) :
    SessionOnPath (releaseReply s).ev.st := by
  unfold releaseReply
  split
  · exact h
  rename_i o ho
  obtain ⟨_, h2, _, _⟩ := openTest_find' ho
  split
  · rename_i hph
    split
    · exact h
    · unfold releaseDone
      simp only [doneWith]
      refine announce_path _ ?_
      have hr := fun b => (changeResult_rel (Ev.of s) (fun t =>
          { t with plock := some (channelValue s.meas .load) })).trans (takeReading_rel _ b)
      generalize readingNow s .release = b
      have hr := hr b
      generalize ((Ev.of s).changeResult fun t => { t with plock := some (channelValue s.meas .load) }).takeReading
          b = e at hr ⊢
      intro y hy
      simp only [Ev.changeSession, Ev.mod_st, Option.map_eq_some_iff] at hy
      obtain ⟨z, hz, rfl⟩ := hy
      obtain ⟨x, hx, hs, hp⟩ := hr.2 z hz
      rw [show (Ev.of s).st.session = some o.sess from h2] at hx
      cases hx
      have w : SameWalk e.st (e.changeSession (releasedSession s)).st := SameWalk.of_frame (changeSession_frame e _)
          (by simp) (by simp) (by simp)
      have g := (hr.ok h) z hz
      have hv2 := hr.walk.val hv
      have hsch : s.schedule = e.st.schedule := hr.walk.sch.symm
      obtain ⟨⟨path, count, before, after, g1, g2, ⟨g3, g3'⟩, g4, g5⟩, gp, g6⟩ := g
      have hk : (stepAt e.st.schedule z.step).kind = .lockOff := by
        unfold PhaseSuits at gp
        rw [hp, hph] at gp; exact gp
      obtain ⟨a1, a2⟩ := at_step hv2 g1 g2
      have hlock : z.lockStep = z.step := by
        rw [g5]; unfold lockStepOf
        rw [(find_lock path Sim.start (valid_walked hv2 g1).1).2 before z.step after g2 hk]; rfl
      have hn := (finding_kind a1).2.2 (by rw [hk]; simp)
      cases after with
      | nil => rw [a2] at hn; simp at hn
      | cons j rest =>
        have hnext : (stepAt e.st.schedule z.step).next = some j := by rw [a2]; rfl
        have hrs : releasedSession s z =
            { z with step := j, phase := .liftoff { lowSeen := false, ref := none } } := by
          unfold releasedSession; rw [hlock, hsch, hnext]; rfl
        have hsame : (simAlong e.st.schedule (before ++ [z.step])).stack = (simAlong e.st.schedule before).stack ∧
            (simAlong e.st.schedule (before ++ [z.step])).cycles = (simAlong e.st.schedule before).cycles := by
          rw [simAlong_snoc]
          cases hst : stepAt e.st.schedule z.step <;> rw [hst] at hk <;> simp only [StepRec.kind, reduceCtorEq] at hk
          exact ⟨rfl, rfl⟩
        have g2' : path = (before ++ [z.step]) ++ j :: rest := by rw [g2]; simp
        have b1 := (at_step hv2 g1 g2').1
        have hkj : (stepAt e.st.schedule j).kind = .liftOff := by
          by_contra hc
          have hpv : (simAlong e.st.schedule (before ++ [z.step])).previous = some
              .lockOff := by rw [previous_snoc, hk]
          unfold stepFinding at b1
          by_cases c1 : 24 ≤ (simAlong e.st.schedule (before ++ [z.step])).path.length
          · rw [if_pos c1] at b1; cases b1
          rw [if_neg c1] at b1
          by_cases c2 : (simAlong e.st.schedule (before ++ [z.step])).path = [] ∧ (stepAt e.st.schedule j).kind ≠
              .datum
          · rw [if_pos c2] at b1; cases b1
          rw [if_neg c2, if_pos ⟨hpv, hc⟩] at b1
          cases b1
        rw [hrs]
        refine OnPath.congr (x := { z with step := j, phase := .liftoff { lowSeen := false, ref := none } }) w
            (SameSess.refl _) hkj ?_
        exact ⟨⟨path, count, before ++ [z.step], rest, g1, g2',
            ⟨by rw [hsame.1]; exact g3, by rw [hsame.2]; exact g3'⟩, g4, g5⟩, hkj, g6⟩
  · exact h

/-! ## Schedule edits -/
theorem walk_same {a b : ScheduleData} : ∀ fuel m i p c, walk a fuel m i = .valid p c →
    (∀ j ∈ p, stepAt b j = stepAt a j) → walk b fuel m i = .valid p c := by
  intro fuel
  induction fuel with
  | zero => intro m i p c h; simp [walk] at h
  | succ f ih =>
    intro m i p c h hs
    obtain ⟨l, hl, _⟩ := walk_walked a (f + 1) m i p c h
    have hi := hs i (by rw [hl]; simp)
    simp only [walk] at h ⊢
    rw [hi]
    split at h
    · cases h
    · rename_i hf
      split at h
      · exact h
      · rename_i j hn
        exact ih _ _ _ _ h hs

theorem simAlong_same {a b : ScheduleData} (l : List Nat) (h : ∀ j ∈ l, stepAt b j = stepAt a j) : simAlong b l =
    simAlong a l := by
  induction l using List.reverseRecOn with
  | nil => rfl
  | append_singleton l i ih =>
    rw [simAlong_snoc, simAlong_snoc, ih (fun j hj => h j (by simp [hj])), h i (by simp)]

theorem equalTargets_same {a b : ScheduleData} (tl) : ∀ (l stack : List Nat), (∀ j ∈ l, stepAt b j = stepAt a j) →
    equalTargets b tl stack l = equalTargets a tl stack l := by
  intro l
  induction l with
  | nil => intro _ _; rfl
  | cons i rest ih =>
    intro stack h
    have hr := fun st => ih st fun j hj => h j (by simp [hj])
    unfold equalTargets
    rw [h i (by simp)]
    split <;> simp only [hr]

theorem lock_same {a b : ScheduleData} (l : List Nat) (h : ∀ j ∈ l, stepAt b j = stepAt a j) : lockStepOf b l =
    lockStepOf a l := by
  unfold lockStepOf
  congr 1
  induction l with
  | nil => rfl
  | cons i rest ih =>
    simp only [List.find?_cons]
    rw [h i (by simp), ih fun j hj => h j (by simp [hj])]

theorem edit_path (s : State) (sch : ScheduleData) (hv : ResultsCurrent s) (h : SessionOnPath s)
    (h1 : ∀ x, s.session = some x → sch.heads.get x.cls = s.schedule.heads.get x.cls ∧ ∀ j ∈ (s.results.get x.cls).path, stepAt sch j = stepAt s.schedule j) :
    SessionOnPath (editSchedule s sch).ev.st := by
  intro x hx
  have hx' : s.session = some x := hx
  obtain ⟨e1, e2⟩ := h1 x hx'
  obtain ⟨⟨path, count, before, after, g1, g2, g3, g4, g5⟩, gp, g6⟩ := h x hx'
  rw [g1] at e2
  simp only [HeadResult.path] at e2
  have hstep : stepAt sch x.step = stepAt s.schedule x.step := e2 _ (by rw [g2]; simp)
  have get : ∀ sc c, (validateAll sc).get c = validateHead sc (sc.heads.get c) := fun sc c => by cases c <;> rfl
  refine ⟨⟨path, count, before, after, ?_, g2, ?_, ?_, ?_⟩, ?_, g6⟩
  · show (validateAll sch).get x.cls = _
    rw [get, e1]
    rw [show s.results = validateAll s.schedule from hv, get] at g1
    unfold validateHead at g1 ⊢
    split at g1
    · cases g1
    · exact walk_same _ _ _ _ _ g1 e2
  · show StackMatches (simAlong sch before) x
    rw [simAlong_same before fun j hj => e2 j (by rw [g2]; simp [hj])]; exact g3
  · show equalTargets sch (testLoad s x.anchor) [] path = false
    rw [equalTargets_same _ _ _ e2]; exact g4
  · show x.lockStep = lockStepOf sch path
    rw [lock_same _ e2]; exact g5
  · unfold PhaseSuits at gp ⊢
    show match x.phase with
      | .holding _ => (stepAt sch x.step).kind = .hold
      | .releaseWait => (stepAt sch x.step).kind = .lockOff
      | .liftoff _ => (stepAt sch x.step).kind = .liftOff
      | .opened => x.datum = none
      | .approach => True
    rw [hstep]; exact gp

theorem writeStepReply_path (pl) (s : State) (hv : ResultsCurrent s) (h : SessionOnPath s) :
    SessionOnPath (writeStepReply pl s).ev.st := by
  unfold writeStepReply
  split
  · exact h
  · split
    · exact h
    · split
      · exact h
      · rename_i r _ hu
        refine edit_path s _ hv h fun x hx => ⟨rfl, fun j hj => ?_⟩
        have hne : j ≠ fieldNat pl 0 1 := by
          intro he
          apply hu
          unfold stepInUse
          rw [hx]
          simp only [List.contains_iff_mem]
          rw [← he]; exact hj
        unfold stepAt
        simp only
        rw [List.getD_eq_getElem?_getD, List.getD_eq_getElem?_getD, List.getElem?_set_ne (by omega)]

theorem setScheduleHeadReply_path (pl) (s : State) (hv : ResultsCurrent s) (h : SessionOnPath s) :
    SessionOnPath (setScheduleHeadReply pl s).ev.st := by
  unfold setScheduleHeadReply
  split
  · split
    · exact h
    · rename_i c hd _ _ hw
      refine edit_path s _ hv h fun x hx => ⟨?_, fun j hj => rfl⟩
      have hne : x.cls ≠ c := by
        intro he; apply hw; unfold headWalked; rw [hx]; simp [he]
      cases hc : c <;> cases hxc : x.cls <;> simp_all <;> rfl
  · exact h

theorem same_path {s t : State} (h1 : t.anchors = s.anchors) (h2 : t.schedule = s.schedule)
    (h3 : t.results = s.results) (h4 : t.session = s.session) (g : SessionOnPath s) : SessionOnPath t :=
  (WalkKept.of_session (s := s) ⟨h2, h3, fun a => by unfold testLoad findAnchor; rw [h1]⟩ h4).ok g

theorem commit_path (e : Ev) (h : SessionOnPath e.st) : SessionOnPath (commit e) :=
  (WalkKept.of_frame (commit_frame e e.st [] (OnlyChanges.refl _ _)) (by simp) (by simp) (by simp) (by simp)).ok h

theorem changeOpenEntry_rel (e : Ev) (c f) : WalkKept e.st (e.changeOpenEntry c f).st := by
  unfold Ev.changeOpenEntry
  split
  · exact WalkKept.refl _
  · rename_i r hr
    have := findAnchor_id hr
    exact writeAnchor_rel e (old := r) (by rw [← this] at hr; exact hr) rfl

theorem same_rel {s t : State} (h1 : t.anchors = s.anchors) (h2 : t.schedule = s.schedule)
    (h3 : t.results = s.results) (h4 : t.session = s.session) : WalkKept s t :=
  WalkKept.of_session (s := s) ⟨h2, h3, fun a => by unfold testLoad findAnchor; rw [h1]⟩ h4

theorem judgeLine_rel (e : Ev) (l) : WalkKept e.st (e.judgeLine l).st := by
  unfold Ev.judgeLine
  split
  · exact WalkKept.refl _
  · simp only
    rename_i c hc
    have h1 : WalkKept e.st (e.judgeLineLimit l c (channelValue e.st.meas (lineChannel l))).st := by
      unfold Ev.judgeLineLimit
      simp only
      split
      · exact WalkKept.trans (b := (e.mod _).st) (same_rel rfl rfl rfl rfl) (changeOpenEntry_rel _ _ _)
      · exact same_rel rfl rfl rfl rfl
    generalize e.judgeLineLimit l c (channelValue e.st.meas (lineChannel l)) = e1 at h1
    refine h1.trans ?_
    unfold Ev.judgeLineRefusal
    simp only
    split
    · exact WalkKept.trans (b := (e1.mod _).st) (same_rel rfl rfl rfl rfl) (changeOpenEntry_rel _ _ _)
    · exact same_rel rfl rfl rfl rfl

theorem fr_rel {s t ps} (hf : OnlyChanges ps s t) (h1 : Part.anchors ∉ ps) (h2 : Part.schedule ∉ ps)
    (h3 : Part.results ∉ ps) (h4 : Part.session ∉ ps) : WalkKept s t :=
  WalkKept.of_frame hf h1 h2 h3 h4

theorem sampleEvent_path (x) (s : State) (hp : PoolSound s) (hv : ResultsCurrent s) (h : SessionOnPath s) :
    SessionOnPath (sampleEvent x s).st := by
  have hr : WalkKept s (watchedEvent x s).st := by
    unfold watchedEvent monitoredEvent
    refine WalkKept.trans ?_ (fr_rel (feedWatches_frame _ _) (by simp) (by simp) (by simp) (by simp))
    refine WalkKept.trans (WalkKept.trans ?_ (judgeLine_rel _ _)) (judgeLine_rel _ _)
    refine WalkKept.trans ?_ (fr_rel (judgeRig_frame _) (by simp) (by simp) (by simp) (by simp))
    exact fr_rel (measuredEvent_frame x s) (by simp) (by simp) (by simp) (by simp)
  have hq : PoolSound (watchedEvent x s).st := by
    unfold watchedEvent monitoredEvent
    refine PoolSound.of_frame (feedWatches_frame _ _) (by simp) (by simp) (by simp) ?_
    apply judgeLine_pool
    apply judgeLine_pool
    refine PoolSound.of_frame (judgeRig_frame _) (by simp) (by simp) (by simp) ?_
    exact PoolSound.of_frame (measuredEvent_frame x s) (by simp) (by simp) (by simp) hp
  unfold sampleEvent
  simp only [Ev.mod_st]
  exact (fr_rel (tick_frame _) (by simp) (by simp) (by simp) (by simp)).ok (judgeSession_path _ (hr.walk.val hv) hq
      (hr.ok h))

/-- The targets of a simulated stack for a test load (R145). -/
def simTargets (tl : Nat) (m : Sim) : List Nat := m.stack.map fun g => targetOf tl g.fraction

theorem targetOf_mono {tl a b : Nat} (h : a ≤ b) : targetOf tl a ≤ targetOf tl b := by
  unfold targetOf; exact Nat.div_le_div_right (Nat.mul_le_mul_left _ h)

theorem targets_rising {s : State} (hv : ResultsCurrent s) {c p n} (h : s.results.get c = .valid p n) (tl : Nat)
    (he : equalTargets s.schedule tl [] p = false) : ∀ before after, p = before ++ after →
    (simTargets tl (simAlong s.schedule before)).Pairwise (· > ·) ∧
    equalTargets s.schedule tl ((simAlong s.schedule before).stack.map (·.fraction)) after = false := by
  intro before
  induction before using List.reverseRecOn with
  | nil => intro after hp; simp only
      [List.nil_append] at hp; subst hp; exact ⟨by simp [simTargets, simAlong, Sim.start], he⟩
  | append_singleton l i ih =>
    intro after hp
    have hp' : p = l ++ i :: after := by rw [hp]; simp
    obtain ⟨i1, i2⟩ := ih _ hp'
    obtain ⟨a1, a2⟩ := at_step hv h hp'
    obtain ⟨k1, k2, k3⟩ := finding_kind a1
    rw [simAlong_snoc]
    unfold equalTargets at i2
    cases hst : stepAt s.schedule i with
    | datum f n =>
      rw [hst] at i2 k1
      simp only at i2
      have hl : l = [] := by by_contra hc; simp [kindFinding, simAlong_path, hc] at k1
      subst hl
      exact ⟨by simp [simTargets, Sim.pass, Sim.change, simAlong, Sim.start], by simpa [Sim.pass, Sim.change, simAlong, Sim.start] using i2⟩
    | loadTo f n =>
      rw [hst] at i2 k1
      simp only [Bool.or_eq_false_iff] at i2
      simp only [kindFinding] at k1
      split_ifs at k1 with c1 c2 c3
      simp only [Sim.pass, Sim.change, simTargets, List.map_cons]
      refine ⟨?_, i2.2⟩
      rw [List.pairwise_cons]
      refine ⟨fun y hy => ?_, i1⟩
      unfold simTargets at i1
      unfold Sim.top at c1
      cases hs : (simAlong s.schedule l).stack with
      | nil => rw [hs] at hy; cases hy
      | cons a rest =>
        rw [hs] at hy i1 i2 c1
        simp only [List.map_cons, List.head?_cons, Option.map_some, Option.getD_some, List.mem_cons,
            List.pairwise_cons, decide_eq_false_iff_not] at hy i1 i2 c1
        have hlt : targetOf tl a.fraction < targetOf tl f := lt_of_le_of_ne (targetOf_mono (by omega)) (fun hc =>
            i2.1 hc.symm)
        rcases hy with rfl | hy
        · exact hlt
        · exact lt_trans (i1.1 y hy) hlt
    | unloadTo f n =>
      rw [hst] at i2
      simp only at i2
      simp only [Sim.pass, Sim.change, simTargets]
      refine ⟨i1.sublist ((List.dropWhile_sublist _).map _), ?_⟩
      rw [List.dropWhile_map] at i2
      exact i2
    | hold d lm x n =>
      rw [hst] at i2
      simp only at i2
      simp only [Sim.pass, Sim.change, simTargets]
      have e1 : (holdTop (simAlong s.schedule l).stack).map (·.fraction) = (simAlong s.schedule l).stack.map
          (·.fraction) := by cases (simAlong s.schedule l).stack <;> rfl
      have e2 : (holdTop (simAlong s.schedule l).stack).map (fun g => targetOf tl g.fraction) = (simAlong s.schedule
          l).stack.map (fun g => targetOf tl g.fraction) := by cases (simAlong s.schedule l).stack <;> rfl
      rw [e1, e2]
      exact ⟨i1, i2⟩
    | lockOff n => rw [hst] at i2; exact ⟨i1, i2⟩
    | liftOff n => rw [hst] at i2; exact ⟨i1, i2⟩
    | endStep => rw [hst] at i2; exact ⟨i1, i2⟩

theorem OnPath.sound {s x} (hv : ResultsCurrent s) (g : OnPath s x) : LoadStagesSound x := by
  obtain ⟨⟨path, count, before, after, g1, g2, ⟨g3, g3'⟩, g4, g5⟩, gp, g6⟩ := g
  have htr := (targets_rising hv g1 _ g4 before _ g2).1
  have hsh := simAlong_shape hv g1 before _ g2
  have hlen : (simAlong s.schedule before).stack.length = (frameMarks x).length := by rw [← g3]; simp
  have htg : simTargets (testLoad s x.anchor) (simAlong s.schedule before) = x.stages.map (·.target) ++ (x.datum.map
      (·.target)).toList := by
    have h1 : simTargets (testLoad s x.anchor) (simAlong s.schedule before) = ((simAlong s.schedule
        before).stack.map fun g => (g.fraction, g.isDatum)).map fun p => targetOf (testLoad s x.anchor) p.1 := by
      unfold simTargets; rw [List.map_map]; rfl
    rw [h1, g3]
    unfold frameMarks
    rw [List.map_append, List.map_map]
    congr 1
    · apply List.map_congr_left
      intro q hq
      exact (g6.1 q hq).symm
    · cases hxd : x.datum with
      | none => rfl
      | some d => simp [g6.2 d hxd]
  rcases hsh with ⟨hb, hs, hc⟩ | ⟨hb, sh⟩
  · have : (frameMarks x).length = 0 := by rw [← hlen, hs]; rfl
    refine ⟨by omega, by rw [← htg]; exact htr, fun _ => ?_, by omega⟩
    unfold frameMarks at this
    simp only [List.length_append, List.length_map] at this
    exact List.eq_nil_of_length_eq_zero (by omega)
  · refine ⟨by rw [← hlen]; exact sh.depth, by rw [← htg]; exact htr, fun hd => ?_, by rw [← g3']; exact sh.cycles⟩
    have hb := sh.base
    have h2 := congrArg List.getLast? g3
    rw [List.getLast?_map] at h2
    unfold frameMarks at h2
    rw [hd] at h2
    simp only [Option.map_none, Option.toList_none, List.append_nil, List.getLast?_map] at h2
    cases hl : (simAlong s.schedule before).stack.getLast? with
    | none => rw [hl] at hb; cases hb
    | some g =>
      rw [hl] at h2 hb
      cases hxl : x.stages.getLast? with
      | none => rw [hxl] at h2; cases h2
      | some q =>
        rw [hxl] at h2
        simp only [Option.map_some, Option.some.injEq, Prod.mk.injEq] at h2 hb
        rw [h2.2] at hb; cases hb

end Sys2Proof.Machine
end

