-- ==== Sys2Proof/Tests/Slice0.lean ====
section
/-! SUPPORT. Tests: ill-formed commands that WellFormed refuses, the worked examples of the manual, and for every statement
with hypotheses a concrete state and operands that meet them. -/

namespace Sys2Proof.Tests

open Sys2Proof.Machine

set_option maxRecDepth 16000

/-! ## WellFormed refuses -/

theorem test_wf_payload_of_nine : (Instr.setHold .p4 [1, 2, 3, 4, 5, 6, 7, 8, 9]).wf = false := by decide

theorem test_wf_frame_of_thirteen :
    (Instr.frameReceived .p1
      { extended := false, remote := false, cls := 1, kind := 0x50, payload := List.replicate 13 0 }).wf = false := by decide

theorem test_wf_trigger_payload : (Instr.watchStepTrip .w1 (.report .p4 (List.replicate 10 0))).wf = false := by decide

theorem test_wf_section_zero : (Instr.sectionStale 0).wf = false := by decide

theorem test_wf_section_sixty_five : (Instr.sectionStale 65).wf = false := by decide

theorem test_wf_supply_not_low : (Instr.powerWarningRaised 190).wf = false := by decide

theorem test_wf_accepts : (Instr.watchConfigure .p4 (List.replicate 16 0)).wf = true ∧
    (Instr.setAnchorGeometry .p4 (List.replicate 12 0)).wf = true ∧ (Instr.sectionStale 64).wf = true ∧
    (Instr.powerWarningRaised 189).wf = true := by decide

/-! ## Small states -/

/-- A next state of which a test holds. -/
def nextIs (o : Host.Outcome State Fault Refusal) (f : State → Bool) : Bool :=
  match o with
  | .next t => f t
  | _ => false

/-- A channel with eight equal samples. -/
def steady (v : Nat) : ChannelState :=
  { history := List.replicate 8 v, taken := 8, value := v, notReady := false, overRange := FaultState.clear }

/-- A site at work: ports on the bus, clock SET, instruments steady, every section reported ten seconds ago. -/
def site : State :=
  { State.reset with
    recorder := { State.reset.recorder with causeDue := false }
    ports := State.reset.ports.map fun _ p => { p with link := .onBus }
    clock := { time := some 100000, mark := 90000, ticks := 0, markSeconds := 0 }
    meas := { State.reset.meas with
      chans := { load := steady 900, jackPress := steady 450, extA := steady 1000, extB := steady 1000,
                 groutPressA := steady 100, groutPressB := steady 100, winchTension := steady 100 }
      extension := 1000 }
    sections := List.replicate 64 { SectionRec.default with age := some 10, stale := false } }

/-- The state with a request waiting at a port. -/
def ask (p : Port) (k : ReqKind) (pl : List Byte) (s : State) : State :=
  { s with ports := s.ports.set p { s.ports.get p with inbound := [{ kind := k.code, payload := pl }] } }

/-- S9-T5-2, whose anchor word is 0x2210. -/
def s9t5 : AnchorId := { sect := 9, tier := 5, slot := 2 }

/-- The anchor of the worked sequences of chapters 4 and 8, in a stage. -/
def anchorIn (st : Stage) : AnchorRec :=
  { id := s9t5, imageSlot := 0, design := some { zone := 0, cls := .acceptance, dwl := 9000, tl := 9000, ll := 6000 }
    geometry := some { ea := 117000, lfree := 1200, lbond := 800, minVolume := 300 }
    stage := st, tendon := none, passes := [], cureDue := none, result := none, reserved := 0, reason := 0,
    testNumber := 0 }

/-- The site with one anchor record. -/
def withAnchor (r : AnchorRec) : State := { site with anchors := [r] }

/-- The acceptance programme of chapter 6, from step 10. -/
def acceptanceTable : ScheduleData :=
  { steps := List.replicate 10 .endStep ++
      [.datum 100 (some 11), .loadTo 400 (some 12), .loadTo 700 (some 13), .loadTo 1000 (some 14),
       .hold 600 100 true (some 15), .unloadTo 100 (some 16), .lockOff (some 17), .liftOff (some 18), .endStep] ++
      List.replicate 45 .endStep
    heads := { acceptance := some 10, suitability := none, investigation := none } }

/-- The suitability programme of chapter 6, from step 30. -/
def suitabilityTable : ScheduleData :=
  { steps := List.replicate 30 .endStep ++
      [.datum 100 (some 31), .loadTo 500 (some 32), .hold 300 0 false (some 33), .unloadTo 100 (some 34),
       .loadTo 800 (some 35), .loadTo 1250 (some 36), .hold 900 150 true (some 37), .unloadTo 500 (some 38),
       .unloadTo 100 (some 39), .lockOff (some 40), .liftOff (some 41), .endStep] ++ List.replicate 22 .endStep
    heads := { acceptance := none, suitability := some 30, investigation := none } }

/-- The schedule put into a state, validated. -/
def withTable (sch : ScheduleData) (s : State) : State := { s with schedule := sch, results := validateAll sch }

/-! ## The worked examples of the manual -/

/-- The word of S9-T5-2 (section 11.8). -/
theorem test_anchor_word : anchorField [0x22, 0x10] = s9t5 := by decide

/-- DONE is 0, ACTIVE_WORK 33, and the 34 codes have 34 values (R196). -/
theorem test_answer_codes : Code.done.value = 0 ∧ Code.badValue.value = 10 ∧ Code.paused.value = 29 ∧
    Code.activeWork.value = 33 := by decide

/-- Identify: frame 0 carries the maker's codes, frame 1 the capacities (R205). -/
theorem test_identify_frames :
    nextIs (exec (.identify .p2 []) (ask .p2 .identify [] site))
      (fun t => t.ports.p2.slot = [.cont 0x01 false 0 (.maker 0x5A4E 0x0420 2),
        .cont 0x01 true 1 (.capacities 512 64 8192 4)]) = true := by decide

/-- A works-clock value most significant byte first, and a signed value in two's complement (section 11.8). -/
theorem test_fields : fieldNat [0x00, 0x4C, 0xC1, 0x40] 0 4 = 5030208 ∧ fieldInt [0xFF, 0xFF, 0xFA, 0x23] 0 4 = -1501 := by
  decide

/-- Class 2, INVESTIGATION, has its high bit in the TL field (section 11.8). -/
theorem test_define_class : defineClass [0, 0, 0x00, 0x01, 0x80, 0x01, 0, 1] = some .investigation := by decide

/-- LOAD with zero 1200 and span 32000 (chapter 3). -/
theorem test_calibrated_samples :
    calibratedSample 30000 { zero := 1200, span := 32000 } 19800 = 9082 ∧
      calibratedResult { zero := 1200, span := 32000 } 1000 = -97 ∧
      calibratedSample 30000 { zero := 1200, span := 32000 } 1000 = 0 ∧
      calibratedSample 30000 { zero := 1200, span := 32000 } 65535 = 30000 ∧
      overRangeCondition 30000 { zero := 1200, span := 32000 } 65535 = true := by decide

/-- The eight samples after a reset give 9082 (chapter 3). -/
theorem test_history_mean :
    historyValue [9080, 9082, 9085, 9081, 9079, 9084, 9083] = 0 ∧
      historyValue (joinHistory [9080, 9082, 9085, 9081, 9079, 9084, 9083] 9086) = 9082 := by decide

/-- The load from pressure of a 20000 mm² ram (chapter 3). -/
theorem test_load_from_pressure : loadFromPressure 4500 20000 = 9000 ∧ loadFromPressure 200 20000 = 400 := by decide

/-- The valve closing during a pass: seconds 11 and 14 (chapter 3). -/
theorem test_flow_rate :
    (LineMeas.second { valve := false, gated := 43, bin := 0, bins := [4, 4, 5, 4, 4, 5, 4, 4, 5, 4], rate := 258 }).rate =
        234 ∧
      (LineMeas.second { valve := true, gated := 48, bin := 5, bins := [4, 4, 5, 4, 4, 5, 4, 0, 0, 0], rate := 180 }).rate =
        186 := by decide

/-- The snag on a 400 limit: the latch is set at 411 (chapter 4). -/
theorem test_rig_snag :
    ([388, 401, 404, 399, 402, 406, 411].foldl TendonCtx.judge
      { anchor := s9t5, start := 0, designLength := 21500, tolerance := 200, tensionLimit := 400, releaseLevel := 360,
        peak := 0, overCount := 0, latch := false, limitEvents := 0 }) =
      { anchor := s9t5, start := 0, designLength := 21500, tolerance := 200, tensionLimit := 400, releaseLevel := 360,
        peak := 411, overCount := 0, latch := true, limitEvents := 1 } := by decide

/-- The same run slacked: 372 keeps the latch, 360 clears it (chapter 4). -/
theorem test_rig_release :
    (TendonCtx.judge
      { anchor := s9t5, start := 0, designLength := 21500, tolerance := 200, tensionLimit := 400, releaseLevel := 360,
        peak := 415, overCount := 0, latch := true, limitEvents := 1 } 372).latch = true ∧
      (TendonCtx.judge
        { anchor := s9t5, start := 0, designLength := 21500, tolerance := 200, tensionLimit := 400, releaseLevel := 360,
          peak := 415, overCount := 0, latch := true, limitEvents := 1 } 360).latch = false := by decide

/-- The decision at Done: 21700 is placed, 21730 rejected (chapter 4). -/
theorem test_placed_length :
    [21640, 21700, 21730, 21280].map (placedStage
      { anchor := s9t5, start := 0, designLength := 21500, tolerance := 200, tensionLimit := 400, releaseLevel := 360,
        peak := 0, overCount := 0, latch := false, limitEvents := 0 }) =
      [.tendonPlaced, .tendonPlaced, .tendonRejected, .tendonRejected] := by decide

/-- The acceptance programme: nine steps, walk count 20, 26 entries to reserve (chapter 6). -/
theorem test_acceptance_programme :
    validateHead acceptanceTable (some 10) = .valid [10, 11, 12, 13, 14, 15, 16, 17, 18] 20 ∧
      worstCase 20 2 = 26 := by decide

/-- With step 17 still END the walk fails there (chapter 6). -/
theorem test_acceptance_unfinished :
    validateHead { acceptanceTable with steps := acceptanceTable.steps.set 17 .endStep } (some 10) =
      .invalid .liftOffMisplaced (some 17) := by decide

/-- The suitability programme fails twice and then is VALID (chapter 6). -/
theorem test_suitability_programme :
    validateHead suitabilityTable (some 30) = .invalid .unloadNotBelow (some 38) ∧
      validateHead { suitabilityTable with steps := suitabilityTable.steps.set 37 (.unloadTo 900 (some 38)) } (some 30) =
        .invalid .noEvaluation (some 39) ∧
      validateHead { suitabilityTable with steps := suitabilityTable.steps.set 36 (.hold 900 150 true (some 38)) }
        (some 30) = .valid [30, 31, 32, 33, 34, 35, 36, 38, 39, 40, 41] 26 := by decide

/-- Targets and bands of TL 9000, and of TL 400 (chapter 8). -/
theorem test_targets_and_bands :
    targetOf 9000 700 = 6300 ∧ bandOf 6300 10 = 63 ∧ bandOf 9000 20 = 180 ∧ bandOf 40 10 = 10 ∧
      inBand 8910 9000 90 = true ∧ inBand 8909 9000 90 = false := by decide

/-- Creep of 100 at a limit of 100 passes, 118 does not, −7 does (chapter 8). -/
theorem test_creep : creepPasses 100 100 = true ∧ creepPasses 100 118 = false ∧ creepPasses 100 (-7) = true := by decide

/-- The worked apparent free length, and its five further cases (chapter 8). -/
theorem test_apparent_free_length :
    evaluateFreeLength { ea := 117000, lfree := 1200, lbond := 800, minVolume := 1 } (capturedNow Params.default) 9005 9210
        905 870 = { lapp := some 1205, verdict := none } ∧
      apparentFreeLength 150000 1000 667 = 1001 ∧ apparentFreeLength 117000 8100 (-10) = 0 ∧
      apparentFreeLength 117000 8100 11500 = 1661 ∧ apparentFreeLength 2000000 500 25000 = 65535 ∧
      (evaluateFreeLength { ea := 117000, lfree := 1200, lbond := 800, minVolume := 1 } (capturedNow Params.default) 1200
        9210 750 870) = { lapp := none, verdict := some .failNotEvaluable } := by decide

/-- Lift-off at LL 6000 and tolerance 50 ‰ (chapter 8). -/
theorem test_lift_off :
    lowLevel 6000 = 3000 ∧ overrunLoad 6000 50 = 6600 ∧ liftWithin 5890 6000 50 = true ∧ liftWithin 5620 6000 50 = false ∧
      liftWithin 5700 6000 50 = true := by decide

/-- A report of 1200 does not hold against OUTSIDE(−1200, 1200), and −1201 holds (R165). -/
theorem test_outside : comparisonHolds .outside (.two (-1200) 1200) 1200 = false ∧
    comparisonHolds .outside (.two (-1200) 1200) (-1201) = true := by decide

/-! ## One step each -/

/-- −1501 against a limit of 1500 sets the DEFLECTION hold at STOP_NEW (R45). -/
theorem test_report_sets_hold :
    nextIs
      (exec (.reportDeflection .p4 [9, 0xFF, 0xFF, 0xFA, 0x23])
        (ask .p4 .reportDeflection [9, 0xFF, 0xFF, 0xFA, 0x23]
          { site with sections := site.sections.set 8 { (sectionRec site 9) with
              data := { SectionData.default with deflLimit := 1500 } } }))
      (fun t => hasHold t 9 .deflection && (effectiveLevel t 9 = some .stopNew) &&
        ((sectionRec t 9).data.lastDeflection = some { value := -1501, time := 100000 }) && t.recorder.list = [.sections]) =
      true := by decide

/-- The answer reaches P1 ahead of the notices of the start (R72). -/
theorem test_tendon_start :
    nextIs (exec (.tendonStart .p1 [0x22, 0x10]) (ask .p1 .tendonStart [0x22, 0x10] (withAnchor (anchorIn .planned))))
      (fun t => (t.rig.map (·.designLength)) = some 21500 && t.permits.rig && t.meas.paidOut = 0 &&
        (t.ports.p1.sending = some (.answer (.single 0x10 .done .none))) &&
        (t.ports.p1.notices = [.stageChanged s9t5 (some .planned) .tendonRunning, .permitChanged .rig true []]) &&
        (t.ports.p2.notices = []) && t.ports.p2.sending = none) = true := by decide

/-- Set Clock below the mark of an UNSET clock, and at it (chapter 3). -/
theorem test_set_clock :
    nextIs
      (exec (.setClock .p4 [0x00, 0x4C, 0x99, 0xA0])
        (ask .p4 .setClock [0x00, 0x4C, 0x99, 0xA0] { site with clock := ClockState.afterReset 5030400 }))
      (fun t => (t.clock.time = none) && t.ports.p4.sending = some (.answer (.single 0x60 .clockBackward .none))) = true ∧
    nextIs
      (exec (.setClock .p4 [0x00, 0x4D, 0x22, 0x58])
        (ask .p4 .setClock [0x00, 0x4D, 0x22, 0x58] { site with clock := ClockState.afterReset 5030400 }))
      (fun t => (t.clock.time = some 5055064) && t.recorder.list = [.mark]) = true := by decide

/-- A hold of STOP_NEW is answered and told to every port (R35, R36). -/
theorem test_set_hold :
    nextIs (exec (.setHold .p4 [3, 2, 7]) (ask .p4 .setHold [3, 2, 7] site))
      (fun t => sectionHeld t 3 && (t.recorder.list = [.sections]) &&
        (t.ports.p2.sending = some (.notice (.holdChanged 3 .survey (some .stopNew) (some .stopNew)))) &&
        t.ports.p4.sending = some (.answer (.single 0x50 .done .none))) = true := by decide

/-- Stress Open reserves 26 entries and opens at the datum of 900, band 10 (chapters 6 to 8). -/
theorem test_stress_open :
    nextIs
      (exec (.stressOpen .p3 [0x22, 0x10, 0x4E, 0x20])
        (ask .p3 .stressOpen [0x22, 0x10, 0x4E, 0x20] (withTable acceptanceTable (withAnchor (anchorIn .stressable)))))
      (fun t => (t.pool.reserved.length = 26) && (t.session.map (·.step) = some 10) && t.permits.jack &&
        t.ports.p3.sending = some (.answer (.single 0x30 .done (.stressOpen 26 10 900 10)))) = true := by decide

/-- The site at the end of its start-up scan, the values ready and the reset-cause record still to be written. -/
def starting : State :=
  { site with recorder := State.reset.recorder, ports := State.reset.ports, pending := [.resetCauseWritten] }

/-- The reset-cause record written, the ports are on the bus; before the values are ready they are not (R67, R190). -/
theorem test_cause_written :
    nextIs (step starting)
      (fun t => (t.ports.p1.link = .onBus) && (t.recorder.causeDue = false) && t.store.cause.isSome) = true ∧
    nextIs (step { State.reset with pending := [.resetCauseWritten] }) (fun t => t.ports.p1.link = .offBus) = true := by
  decide

/-- A POWER_ON reset of a site with an active anchor in its store leaves it TENDON_REJECTED (R27). -/
theorem test_reset_cuts_run :
    nextIs
      (exec .powerOnReset
        { site with
          store := { Store.formatted with
            images := [{ index := 0, val := anchorIn .tendonRunning }]
            dirSecond := some { seq := 1, slots := [{ index := 0, val := s9t5 }] } } })
      (fun t => (t.anchors.map (·.stage) = [.tendonRejected]) && (t.recorder.list = [.image 0]) &&
        (t.recorder.cause.interrupted = 1) && t.clock.time = none) = true := by decide

/-! ## States that meet the hypotheses of the statements -/

theorem asks {k : ReqKind} {p : Port} {pl : List Byte} {s : State}
    (h : (canTake s p k.code pl && k.allowed p && decide (pl.length = k.length)) = true) : Asked k p pl s := by
  simp only [Bool.and_eq_true, decide_eq_true_eq] at h
  exact ⟨h.1.1, h.1.2, h.2⟩

theorem one_ok (r : AnchorRec) (h : r.id = s9t5) : ∀ x ∈ [r], IdInRange x.id := by
  simp [h, IdInRange, s9t5]

theorem sized (s : State) (h1 : s.sections.length = 64 ∧ ∀ r ∈ s.sections, r.data.counts.length = 8)
    (h2 : s.config.zones.length = 16 ∧ 2 ≤ s.config.params.sectionCount ∧ s.config.params.sectionCount ≤ 64)
    (h3 : s.store = Store.formatted) (h4 : s.recorder.writer = .idle) (h5 : s.results = validateAll s.schedule)
    (h6 : s.schedule.steps.length = 64) (h7 : ∀ r ∈ s.anchors, IdInRange r.id) : TablesSized s := by
  refine ⟨h1.1, h1.2, h2, (h6 : s.schedule.steps.length = 64), ?_, ?_, ?_, ?_, h7, ?_, ?_, ?_, h5, ?_, ?_⟩
  · intro c hc
    rw [h3] at hc
    cases hc
    exact ⟨by decide, by decide, by decide⟩
  · intro c hc
    rw [h3] at hc
    cases hc
    show ScheduleData.blank.steps.length = 64
    decide
  · intro c n hc
    rw [h4] at hc
    cases hc
  · intro c n hc
    rw [h4] at hc
    cases hc
  · intro c hc
    rw [h3] at hc
    cases hc
    simp [DirSound]
  · intro c hc
    rw [h3] at hc
    cases hc
    simp [DirSound]
  · intro b c n hc
    rw [h4] at hc
    cases hc
  · intro l hl
    rw [h3] at hl
    cases hl
    exact ⟨by decide, by decide⟩
  · intro l n hc
    rw [h4] at hc
    cases hc

theorem site_sections : site.sections.length = 64 ∧ ∀ r ∈ site.sections, r.data.counts.length = 8 := by decide

theorem site_config : site.config.zones.length = 16 ∧ 2 ≤ site.config.params.sectionCount ∧
    site.config.params.sectionCount ≤ 64 := by decide

theorem site_steps : site.schedule.steps.length = 64 := by decide

theorem site_sized : TablesSized site :=
  sized _ site_sections site_config rfl rfl rfl site_steps (by intro r hr; cases hr)

theorem site_sized_ask {p : Port} {k : ReqKind} {pl : List Byte} : TablesSized (ask p k pl site) :=
  sized _ site_sections site_config rfl rfl rfl site_steps (by intro r hr; cases hr)

theorem anchor_sized (r : AnchorRec) (h : r.id = s9t5) : TablesSized (withAnchor r) :=
  sized _ site_sections site_config rfl rfl rfl site_steps (one_ok r h)

/-- A notice queue of eight on P4. -/
def fullQueue : PortState :=
  { PortState.afterReset with
    link := .onBus, sending := some (.answer (.single 0x50 .done .none))
    inbound := List.replicate 4 { kind := 0x50, payload := [1, 2, 3] }
    notices := [1, 2, 3, 4, 5, 6, 7, 8].map fun n => .holdChanged n .survey none none }

/-- The site before its next step, which takes the drum one step out. -/
def stepping : State := { site with pending := [.winchEncStep .payOut], ports := site.ports.set .p4 fullQueue }

theorem witness_StepRunsFrontCommand : State.reset.pending = [] := rfl

theorem witness_PermitLinesStayExact : PermitsExact stepping ∧ ∃ t, step stepping = .next t :=
  ⟨by intro l; cases l <;> decide, _, rfl⟩

theorem witness_PortQueuesStayBounded :
    QueuesBounded stepping ∧ NoticeKeysDistinct stepping ∧ ∃ t, step stepping = .next t :=
  ⟨by intro p; cases p <;> decide, by intro p; cases p <;> decide, _, rfl⟩

theorem witness_WorksClockNeverDecreases : ¬ IsReset .worksClockSecond ∧
    ClockInRange { site with clock := { time := some 4294967295, mark := 0, ticks := 100, markSeconds := 0 } } ∧
    ∃ t, exec .worksClockSecond { site with clock := { time := some 4294967295, mark := 0, ticks := 100, markSeconds := 0 } } =
      .next t := by
  refine ⟨by simp [IsReset], ?_, _, rfl⟩
  intro t ht
  cases ht
  decide

theorem witness_ChannelsStaySound : ChannelsSound stepping ∧ ∃ t, step stepping = .next t :=
  ⟨by intro c; cases c <;> decide, _, rfl⟩

theorem witness_PulseCountsStayInRange : PaidOutInRange { stepping with meas := { site.meas with paidOut := 80000 } } ∧
    FlowInRange stepping ∧ ∃ t, step stepping = .next t :=
  ⟨by unfold PaidOutInRange; decide, by intro l; cases l <;> decide, _, rfl⟩

/-- Unknown kind 0x07, WRONG_ROLE on P1, MALFORMED on P4. -/
theorem witness_PortChecksRefuseRequests :
    canTake { site with ports := site.ports.set .p1 { site.ports.p1 with inbound := [{ kind := 0x07, payload := [] }] } }
        .p1 0x07 [] = true ∧ isRequestCode 0x07 = false ∧
    canTake (ask .p1 .setHold [1, 1, 1] site) .p1 ReqKind.setHold.code [1, 1, 1] = true ∧
      ReqKind.setHold.allowed .p1 = false ∧
    canTake (ask .p4 .setHold [1, 1] site) .p4 ReqKind.setHold.code [1, 1] = true ∧ ReqKind.setHold.allowed .p4 = true ∧
      [1, 1].length ≠ ReqKind.setHold.length := by decide

theorem witness_UntakenFrameChangesNothing : canTake site .p4 ReqKind.setHold.code [1, 1, 1] = false ∧
    canTake site .p4 0x07 [] = false := by decide

theorem witness_IdentifyAnswersFixedContent : Asked .identify .p2 [] (ask .p2 .identify [] site) := asks (by decide)

/-- The session of the tests: the acceptance programme on S9-T5-2. -/
def sessionAt (step : Nat) (phase : Phase) (stages : List StageFrame) : Session :=
  { anchor := s9t5, cls := .acceptance, head := 10, step := step, lockStep := 16, area := 20000,
    captured := capturedNow Params.default, phase := phase,
    datum := some { fraction := 100, target := 900, load0 := 905, ext0 := 420 }, stages := stages, cycles := 1,
    relocks := 0, reservation := 20 }

/-- The frame of the test load, with the hold readings given. -/
def frame9000 (readings : List Nat) : StageFrame :=
  { fraction := 1000, target := 9000, cycle := 1, arrival := 3, holdReadings := readings, critical := true,
    creepExtended := false, holdDone := false, rehold := 0, ks := none, ks2 := none }

/-- The anchor under test, with readings 0 to 3 taken. -/
def underTest : AnchorRec :=
  { anchorIn .stressing with
    reserved := 20, testNumber := 1
    result := some
      { verdict := none, lapp := none, creep := none, plock := some 6150, plift := none, loss := none,
        readings := [.entry 0, .entry 1, .entry 2, .entry 3], stamp := { number := 1, time := 99000 } } }

/-- A reading of the pool. -/
def poolReading (i load ext : Nat) : Slot PoolEntry :=
  { index := i
    val :=
      { owner := s9t5, position := i + 1, stamp := { number := 1, time := 99000 },
        body := some { kind := .loadArrival, time := 99500, load := load, ext := ext, summary := none } } }

/-- The site with a session open, JACK asserted, the instruments at a load and an extension. -/
def testing (x : Session) (load press : Nat) : State :=
  withTable acceptanceTable
    { withAnchor underTest with
      session := some x
      permits := { rig := false, groutA := false, groutB := false, jack := true }
      pool := { reserved := List.range' 10 20,
                used := [poolReading 0 905 420, poolReading 1 3600 3000, poolReading 2 6300 6100, poolReading 3 9005 9210] }
      meas := { site.meas with chans := { site.meas.chans with load := steady load, jackPress := steady press } } }

theorem testing_sized (x : Session) (a b : Nat) : TablesSized (testing x a b) :=
  sized _ site_sections site_config rfl rfl rfl (by show acceptanceTable.steps.length = 64; decide) (one_ok underTest rfl)

/-- A stage frame of the acceptance programme, below the test load. -/
def frameBelow (fraction target arrival : Nat) : StageFrame :=
  { frame9000 [] with fraction := fraction, target := target, arrival := arrival, critical := false }

/-- The session of the tests before the test load, with 700 and 400 per mille on the datum. -/
def loading : Session := sessionAt 13 .approach [frameBelow 700 6300 2, frameBelow 400 3600 1]

/-- The site under that session, its next step a turn of the drum. -/
def walking : State := { testing loading 6300 3150 with pending := [.winchEncStep .payOut] }

theorem walking_agrees : TablesAgree walking where
  ordered := List.pairwise_singleton _ _
  cure := ⟨List.Pairwise.nil, List.nodup_nil, fun c => by
    simp [walking, testing, withTable, withAnchor, underTest, anchorIn, site, State.reset]⟩
  counts := by
    intro n tier _ h2 _ h4
    have h : ∀ n < 65, ∀ tier < 9, lockedCount walking n tier = 0 := by decide
    rw [h n (by omega) tier (by omega)]
    simp [walking, testing, withTable, withAnchor, underTest, anchorIn]
  holds := by
    intro r hr
    rw [List.eq_of_mem_replicate hr]
    exact List.Pairwise.nil

theorem walking_store : StoreAgrees walking where
  first := by intro c h; cases h; exact ⟨List.nodup_nil, by intro x hx; cases hx⟩
  second := by intro c h; cases h; exact ⟨List.nodup_nil, by intro x hx; cases hx⟩
  dirJob := by intro b c n h; cases h
  secs := by
    intro l h; cases h
    intro d hd
    rw [List.eq_of_mem_replicate hd]
    exact List.Pairwise.nil
  secJob := by intro l n h; cases h

theorem walking_pool : PoolSound walking where
  ids := by decide
  rsv := by decide
  rsvIn := by decide
  usd := by decide
  usdIn := by decide
  lists := by
    intro r hr
    rw [List.mem_singleton.1 hr]
    intro i hi
    have : i = 0 ∨ i = 1 ∨ i = 2 ∨ i = 3 := by simpa [readingsOf, underTest] using hi
    omega
  others := by
    intro r hr h
    rw [List.mem_singleton.1 hr] at h
    exact absurd rfl (h loading rfl)
  idle := by intro h; cases h
  open_ := by
    intro x hx
    cases hx
    exact ⟨⟨underTest, List.mem_singleton.2 rfl, rfl, rfl, by decide, rfl⟩, by decide, by decide, by decide⟩

theorem walking_onPath : OnPath walking loading where
  place := ⟨[10, 11, 12, 13, 14, 15, 16, 17, 18], 20, [10, 11, 12], [14, 15, 16, 17, 18], by decide, rfl,
    ⟨by decide, by decide⟩, by decide, by decide⟩
  phase := trivial
  targets := ⟨by decide, by intro d h; cases h; decide⟩

theorem witness_TablesKeepTheirSizes :
    TablesSized walking ∧ TablesAgree walking ∧ StoreAgrees walking ∧ PoolSound walking ∧ ImagesSound walking ∧
      SessionOnPath walking ∧ walking.session = some loading ∧ ∃ t, step walking = .next t :=
  ⟨testing_sized loading 6300 3150, walking_agrees, walking_store, walking_pool,
    ⟨fun x hx => (by cases hx), fun n r m h => (by cases h)⟩, fun x hx => (by cases hx; exact walking_onPath), rfl,
    _, rfl⟩

/-- An anchor read, sections 1 and 64, an open and an idle session, status 0 and 8; and what each refuses. -/
theorem witness_ReadsAnswerStateAsItStands :
    Asked .readAnchor .p1 [0x22, 0x10] (ask .p1 .readAnchor [0x22, 0x10] (withAnchor (anchorIn .planned))) ∧
    findAnchor (withAnchor (anchorIn .planned)) (anchorField [0x22, 0x10]) = some (anchorIn .planned) ∧
    Asked .readSection .p2 [1] (ask .p2 .readSection [1] site) ∧
    Asked .readSection .p2 [64] (ask .p2 .readSection [64] site) ∧ fieldNat [64] 0 1 ≤ 64 ∧
    Asked .readSession .p3 [] (ask .p3 .readSession [] (testing (sessionAt 10 .opened []) 900 450)) ∧
    Asked .readSession .p3 [] (ask .p3 .readSession [] site) ∧ site.session = none ∧
    Asked .readStatus .p4 [0] (ask .p4 .readStatus [0] site) ∧ Asked .readStatus .p4 [8] (ask .p4 .readStatus [8] site) ∧
    fieldNat [8] 0 1 ≤ 8 ∧
    Asked .readAnchor .p1 [0x22, 0x10] (ask .p1 .readAnchor [0x22, 0x10] site) ∧
    findAnchor site (anchorField [0x22, 0x10]) = none ∧
    Asked .readSection .p2 [65] (ask .p2 .readSection [65] site) ∧ 64 < fieldNat [65] 0 1 ∧
    Asked .readSection .p2 [0] (ask .p2 .readSection [0] site) ∧ fieldNat [0] 0 1 = 0 ∧
    Asked .readStatus .p4 [9] (ask .p4 .readStatus [9] site) ∧ 8 < fieldNat [9] 0 1 :=
  ⟨asks (by decide), by decide, asks (by decide), asks (by decide), by decide, asks (by decide), asks (by decide), rfl,
    asks (by decide), asks (by decide), by decide, asks (by decide), by decide, asks (by decide), by decide,
    asks (by decide), by decide, asks (by decide), by decide⟩

theorem witness_ClearPortFlagsClearsOnePort :
    Asked .clearPortFlags .p4 [2] (ask .p4 .clearPortFlags [2] site) ∧ namedPort .p4 [2] = some .p2 ∧
    PermitsExact (ask .p4 .clearPortFlags [2] site) ∧
    Asked .clearPortFlags .p1 [0] (ask .p1 .clearPortFlags [0] site) ∧ namedPort .p1 [0] = some .p1 ∧
    Asked .clearPortFlags .p4 [5] (ask .p4 .clearPortFlags [5] site) ∧ 4 < fieldNat [5] 0 1 ∧
    Asked .clearPortFlags .p1 [4] (ask .p1 .clearPortFlags [4] site) ∧ namedPort .p1 [4] = some .p4 :=
  ⟨asks (by decide), by decide, by intro l; cases l <;> decide, asks (by decide), by decide, asks (by decide), by decide,
    asks (by decide), by decide⟩

/-- Room for the fourth request, none for the fifth, and a port off the bus. -/
theorem witness_ReceivedFramesAreSorted : (site.ports.get .p1).link = .onBus ∧ (site.ports.get .p1).inbound.length < 4 ∧
    (stepping.ports.get .p4).link = .onBus ∧ 4 ≤ (stepping.ports.get .p4).inbound.length ∧
    (State.reset.ports.get .p1).link ≠ .onBus := by decide

/-- An answer being sent with frames left, with a notice waiting, and with nothing left. -/
theorem witness_SentFrameMakesRoom : (stepping.ports.get .p4).link = .onBus ∧
    (stepping.ports.get .p4).sending = some (.answer (.single 0x50 .done .none)) ∧ (stepping.ports.get .p4).slot = [] ∧
    (stepping.ports.get .p4).notices.head? = some (.holdChanged 1 .survey none none) ∧
    ({ fullQueue with slot := [.first 0x01 2] } : PortState).slot = [.first 0x01 2] ∧
    ({ fullQueue with notices := [] } : PortState).notices = [] := by decide

theorem witness_BusOffEmptiesPort : (stepping.ports.get .p4).link = .onBus ∧
    ({ fullQueue with link := .busOff } : PortState).link = .busOff := by decide

/-- A key queued already, room for a new key, a full queue, and a port off the bus. -/
theorem witness_NoticesJoinTheTail : fullQueue.link = .onBus ∧ (fullQueue.notices.map Notice.key).Nodup ∧
    (Notice.holdChanged 1 .survey none none).key = (Notice.holdChanged 1 .survey (some .advisory) none).key ∧
    (Notice.holdChanged 9 .survey none none).key ∉ fullQueue.notices.map Notice.key ∧ 8 ≤ fullQueue.notices.length ∧
    ({ fullQueue with notices := fullQueue.notices.drop 1 } : PortState).notices.length < 8 ∧
    (State.reset.ports.get .p1).link ≠ .onBus := by decide

/-! ### The anchor table -/

/-- The payload that defines S9-T5-2 in zone 0: ACCEPTANCE, DWL and TL 9000, LL 6000. -/
def defining : List Byte := [0x22, 0x10, 0x23, 0x28, 0x23, 0x28, 0x17, 0x70]

/-- An empty table, a SUSPECT record, bad data (DWL above TL), a held identity, and a full table. -/
theorem witness_DefineAnchorPlansRecord :
    Asked .defineAnchor .p4 defining (ask .p4 .defineAnchor defining site) ∧
    designOfPayload site defining = some { zone := 0, cls := .acceptance, dwl := 9000, tl := 9000, ll := 6000 } ∧
    findAnchor site (anchorField defining) = none ∧ site.anchors.length < 512 ∧
    Asked .defineAnchor .p4 defining (ask .p4 .defineAnchor defining (withAnchor (anchorIn .suspect))) ∧
    findAnchor (withAnchor (anchorIn .suspect)) (anchorField defining) = some (anchorIn .suspect) ∧
    designOfPayload site [0x22, 0x10, 0x23, 0x29, 0x23, 0x28, 0x17, 0x70] = none ∧
    Asked .defineAnchor .p4 [0x22, 0x10, 0x23, 0x29, 0x23, 0x28, 0x17, 0x70]
      (ask .p4 .defineAnchor [0x22, 0x10, 0x23, 0x29, 0x23, 0x28, 0x17, 0x70] site) ∧
    findAnchor (withAnchor (anchorIn .planned)) (anchorField defining) = some (anchorIn .planned) ∧
    findAnchor { site with anchors := List.replicate 512 { anchorIn .planned with id := { sect := 1, tier := 1, slot := 1 } } }
      (anchorField defining) = none :=
  ⟨asks (by decide), by decide, by decide, by decide, asks (by decide), by decide, by decide, asks (by decide), by decide,
    by decide⟩

/-- Valid geometry, and a bond length below its range. -/
theorem witness_SetAnchorGeometryStores :
    Asked .setAnchorGeometry .p4 [0x22, 0x10, 0, 1, 0xC9, 0x08, 4, 0xB0, 3, 0x20, 1, 0x2C]
      (ask .p4 .setAnchorGeometry [0x22, 0x10, 0, 1, 0xC9, 0x08, 4, 0xB0, 3, 0x20, 1, 0x2C]
        (withAnchor (anchorIn .planned))) ∧
    geometryOfPayload [0x22, 0x10, 0, 1, 0xC9, 0x08, 4, 0xB0, 3, 0x20, 1, 0x2C] =
      some { ea := 117000, lfree := 1200, lbond := 800, minVolume := 300 } ∧
    findAnchor (withAnchor (anchorIn .planned)) s9t5 = some (anchorIn .planned) ∧
    Asked .setAnchorGeometry .p4 [0x22, 0x10, 0, 1, 0xC9, 0x08, 4, 0xB0, 0, 99, 1, 0x2C]
      (ask .p4 .setAnchorGeometry [0x22, 0x10, 0, 1, 0xC9, 0x08, 4, 0xB0, 0, 99, 1, 0x2C]
        (withAnchor (anchorIn .suspect))) ∧
    geometryOfPayload [0x22, 0x10, 0, 1, 0xC9, 0x08, 4, 0xB0, 0, 99, 1, 0x2C] = none ∧
    findAnchor (withAnchor (anchorIn .curing)) s9t5 = some (anchorIn .curing) :=
  ⟨asks (by decide), by decide, by decide, asks (by decide), by decide, by decide⟩

/-- A request on an anchor of the empty site, by kind: its record is missing (R6, R7, R16 to R18, R76, R78, R94). -/
theorem witness_NoSuchAnchor :
    (∀ x ∈ ([(.setAnchorGeometry, [0x22, 0x10, 0, 1, 0xC9, 0x08, 4, 0xB0, 3, 0x20, 1, 0x2C]), (.deleteAnchor, [0x22, 0x10]),
        (.abandonAnchor, [0x22, 0x10, 5]), (.retestAnchor, [0x22, 0x10]), (.settleAnchor, [0x22, 0x10, 7, 3, 0, 3, 0x0D, 0x40])]
        : List (ReqKind × List Byte)),
      canTake (ask .p4 x.1 x.2 site) .p4 x.1.code x.2 = true ∧ x.1.allowed .p4 = true ∧ x.2.length = x.1.length ∧
        findAnchor (ask .p4 x.1 x.2 site) (anchorField x.2) = none) ∧
    (∀ x ∈ ([(.tendonDone, [0x22, 0x10]), (.tendonWithdraw, [0x22, 0x10])] : List (ReqKind × List Byte)),
      canTake (ask .p1 x.1 x.2 site) .p1 x.1.code x.2 = true ∧ x.1.allowed .p1 = true ∧ x.2.length = x.1.length ∧
        findAnchor (ask .p1 x.1 x.2 site) (anchorField x.2) = none) ∧
    Asked .injectEnd .p2 [0x22, 0x10, 0] (ask .p2 .injectEnd [0x22, 0x10, 0] site) ∧ findAnchor site s9t5 = none ∧
    Asked .injectEnd .p2 [0x22, 0x10, 2] (ask .p2 .injectEnd [0x22, 0x10, 2] site) ∧ lineOfCode 2 = none :=
  ⟨by decide, by decide, asks (by decide), by decide, asks (by decide), by decide⟩

theorem witness_DeleteAnchorRemovesRecord :
    Asked .deleteAnchor .p4 [0x22, 0x10] (ask .p4 .deleteAnchor [0x22, 0x10] (withAnchor (anchorIn .abandoned))) ∧
    findAnchor (withAnchor (anchorIn .abandoned)) (anchorField [0x22, 0x10]) = some (anchorIn .abandoned) ∧
    Asked .deleteAnchor .p4 [0x22, 0x10] (ask .p4 .deleteAnchor [0x22, 0x10] (withAnchor (anchorIn .curing))) ∧
    findAnchor (withAnchor (anchorIn .curing)) (anchorField [0x22, 0x10]) = some (anchorIn .curing) :=
  ⟨asks (by decide), by decide, asks (by decide), by decide⟩

/-- A LOCKED_OFF anchor with readings in the pool; an active and an ABANDONED one. -/
theorem witness_AbandonAnchorReleasesReadings :
    Asked .abandonAnchor .p4 [0x22, 0x10, 5]
      (ask .p4 .abandonAnchor [0x22, 0x10, 5] (withAnchor { underTest with stage := .lockedOff })) ∧
    findAnchor (withAnchor { underTest with stage := .lockedOff }) (anchorField [0x22, 0x10, 5]) =
      some { underTest with stage := .lockedOff } ∧
    TablesSized (ask .p4 .abandonAnchor [0x22, 0x10, 5] (withAnchor { underTest with stage := .lockedOff })) ∧
    findAnchor (withAnchor (anchorIn .grouting)) (anchorField [0x22, 0x10, 5]) = some (anchorIn .grouting) ∧
    findAnchor (withAnchor (anchorIn .abandoned)) (anchorField [0x22, 0x10, 5]) = some (anchorIn .abandoned) :=
  ⟨asks (by decide), by decide, anchor_sized _ rfl, by decide, by decide⟩

theorem witness_RetestAnchorReturnsToStressable :
    Asked .retestAnchor .p4 [0x22, 0x10]
      (ask .p4 .retestAnchor [0x22, 0x10] (withAnchor { underTest with stage := .lockedOff })) ∧
    findAnchor (withAnchor { underTest with stage := .lockedOff }) (anchorField [0x22, 0x10]) =
      some { underTest with stage := .lockedOff } ∧
    TablesSized (ask .p4 .retestAnchor [0x22, 0x10] (withAnchor { underTest with stage := .lockedOff })) ∧
    Asked .retestAnchor .p4 [0x22, 0x10] (ask .p4 .retestAnchor [0x22, 0x10] (withAnchor (anchorIn .curing))) ∧
    findAnchor (withAnchor (anchorIn .curing)) (anchorField [0x22, 0x10]) = some (anchorIn .curing) :=
  ⟨asks (by decide), by decide, anchor_sized _ rfl, asks (by decide), by decide⟩

/-- The payload that settles S9-T5-2 to a stage, with reason 3 and the due time 200000. -/
def settling (code : Byte) : List Byte := [0x22, 0x10, code, 3, 0, 3, 0x0D, 0x40]

/-- No settleable stage, no stage code, each failing check, and decisions that pass: CURING from SUSPECT and from
GROUT_SHORT, STRESSABLE and FAILED from STRESS_INTERRUPTED, PLANNED and TENDON_PLACED from TENDON_REJECTED. -/
theorem witness_SettleAnchorCarriesOutDecision :
    (∀ st, st ∈ ([.suspect, .groutShort, .stressInterrupted, .tendonRejected, .curing] : List Stage) →
      Asked .settleAnchor .p4 (settling 7) (ask .p4 .settleAnchor (settling 7) (withAnchor (anchorIn st))) ∧
      findAnchor (withAnchor (anchorIn st)) (anchorField (settling 7)) = some (anchorIn st) ∧
      TablesSized (ask .p4 .settleAnchor (settling 7) (withAnchor (anchorIn st)))) ∧
    Stage.curing.isSettleable = false ∧ stageOfCode (fieldNat (settling 15) 2 1) = none ∧
    stageOfCode (fieldNat (settling 7) 2 1) = some .curing ∧ settleAllowed .suspect .curing = true ∧
    settleAllowed .groutShort .curing = true ∧ settleNeedsClock .groutShort .curing = true ∧ site.clock.time = some 100000 ∧
    settleAllowed .stressInterrupted .stressable = true ∧ settleAllowed .stressInterrupted .failed = true ∧
    settleAllowed .tendonRejected .planned = true ∧ settleAllowed .tendonRejected .tendonPlaced = true ∧
    settleAllowed .tendonRejected .curing = false ∧
    firstFailing [(!settleAllowed .suspect .curing, .badValue), (false, .geometryUnset), (false, .clockUnset)] = none := by
  refine ⟨?_, by decide, by decide, by decide, by decide, by decide, by decide, by decide, by decide, by decide, by decide,
    by decide, by decide, by decide⟩
  intro st hst
  simp only [List.mem_cons, List.not_mem_nil, or_false] at hst
  rcases hst with rfl | rfl | rfl | rfl | rfl <;> exact ⟨asks (by decide), by decide, anchor_sized _ rfl⟩

/-- UNSET; an empty list; a due time reached to the second, and one second before it. -/
theorem witness_CureExpiryMakesStressable :
    let due (t : Nat) : State :=
      { withAnchor { anchorIn .curing with cureDue := some t } with cure := [{ due := t, id := s9t5 }] }
    State.reset.clock.time = none ∧ site.cure = [] ∧
    (due 100000).clock.time = some 100000 ∧ (due 100000).cure = [{ due := 100000, id := s9t5 }] ∧
    findAnchor (due 100000) s9t5 = some { anchorIn .curing with cureDue := some 100000 } ∧ 1 ≤ s9t5.sect ∧
    s9t5.sect ≤ (due 100000).sections.length ∧ (due 100001).cure = [{ due := 100001, id := s9t5 }] := by decide

/-- Every check passes; no such anchor; and a first failing check. -/
theorem witness_TendonStartOpensRun :
    let s := ask .p1 .tendonStart [0x22, 0x10] (withAnchor (anchorIn .planned))
    Asked .tendonStart .p1 [0x22, 0x10] s ∧ findAnchor s (anchorField [0x22, 0x10]) = some (anchorIn .planned) ∧
    TablesSized s ∧ s.clock.time = some 100000 ∧
    firstFailing
      [(s.rig.isSome, .rigBusy), (s.clock.time.isNone, .clockUnset),
       (decide ((anchorIn .planned).stage ≠ .planned), .wrongStage), ((anchorIn .planned).geometry.isNone, .geometryUnset),
       (anchorZoneClosed s (anchorIn .planned), .zoneClosed), (sectionHeld s 9, .sectionHeld),
       (rigFaulted s.meas, .sensorFault)] = none ∧
    Asked .tendonStart .p1 [0x22, 0x10] (ask .p1 .tendonStart [0x22, 0x10] site) ∧
    findAnchor site (anchorField [0x22, 0x10]) = none ∧
    firstFailing [(false, .rigBusy), (true, .clockUnset), (true, .wrongStage)] = some .clockUnset :=
  ⟨asks (by decide), by decide, anchor_sized _ rfl, by decide, by decide, asks (by decide), by decide, by decide⟩

/-- A run of the tests, two values above the limit already counted. -/
def run : TendonCtx :=
  { anchor := s9t5, start := 99000, designLength := 21500, tolerance := 200, tensionLimit := 400, releaseLevel := 360,
    peak := 406, overCount := 2, latch := false, limitEvents := 0 }

theorem witness_TendonRunIsClosed :
    let s : State := { withAnchor (anchorIn .tendonRunning) with rig := some run }
    findAnchor s (anchorField [0x22, 0x10]) = some (anchorIn .tendonRunning) ∧ TablesSized s ∧ s.rig = some run ∧
    Asked .tendonDone .p1 [0x22, 0x10] (ask .p1 .tendonDone [0x22, 0x10] s) ∧
    Asked .tendonWithdraw .p1 [0x22, 0x10] (ask .p1 .tendonWithdraw [0x22, 0x10] s) ∧
    findAnchor (withAnchor (anchorIn .planned)) (anchorField [0x22, 0x10]) = some (anchorIn .planned) :=
  ⟨by decide, anchor_sized _ rfl, rfl, asks (by decide), asks (by decide), by decide⟩

/-! ### The measurement unit -/

/-- What a sample set brings in: LOAD, JACK_PRESS, both extension transducers, both grout lines and the winch, at 24.0 V. -/
def sampleOf (load press ext grout winch : RawWord) : SampleIn :=
  { raw := { load := load, jackPress := press, extA := ext, extB := ext, groutPressA := grout, groutPressB := grout,
             winchTension := winch }
    supply := 240 }

/-- A site whose LOAD channel has seven samples, and OVER_RANGE and the two disagreements without their conditions for 99
sample sets. -/
def warming : State :=
  { site with
    meas :=
      { site.meas with
        chans := { site.meas.chans with
          load := { history := List.replicate 7 900, taken := 7, value := 0, notReady := true,
                    overRange := { present := true, absent := 99 } } }
        extDisagree := { present := true, absent := 99 }
        loadDisagree := { present := true, absent := 99 } } }

/-- Without a session, and with one. -/
theorem witness_SampleSetConvertsChannels : site.session = none ∧
    (testing (sessionAt 10 .opened []) 900 450).session = some (sessionAt 10 .opened []) := ⟨rfl, rfl⟩

theorem witness_FaultsClearAtSampleSet :
    (channelGet warming.meas.chans .load).history.length = 7 ∧ (channelGet warming.meas.chans .load).notReady = true ∧
    (channelGet warming.meas.chans .load).overRange = { present := true, absent := 99 } ∧
    Int.tdiv ((((channelGet (sampleOf 65535 0 0 0 0).raw .load).toNat : Int) - (channelGet warming.config.cals .load).zero) *
      (channelGet warming.config.cals .load).span) 65536 ≤ (channelMax .load : Int) ∧
    warming.meas.extDisagree = { present := true, absent := 99 } ∧
    warming.meas.loadDisagree = { present := true, absent := 99 } ∧ warming.session = none ∧
    nextIs (exec (.sampleSet (sampleOf 0 0 2622 0 0)) warming)
      (fun t => channelValue t.meas .extA = channelValue t.meas .extB && !t.meas.extDisagree.present &&
        !t.meas.loadDisagree.present) = true := by decide

/-- LOAD free, an undefined channel, and LOAD used by an open session. -/
theorem witness_SetCalibrationEmptiesHistory :
    Asked .setCalibration .p4 [0, 0, 0, 0, 3, 13, 64] (ask .p4 .setCalibration [0, 0, 0, 0, 3, 13, 64] site) ∧
    channelOfCode (fieldNat [0, 0, 0, 0, 3, 13, 64] 0 1) = some .load ∧ channelInUse site .load = false ∧
    Asked .setCalibration .p4 [7, 0, 0, 0, 0, 0, 0] (ask .p4 .setCalibration [7, 0, 0, 0, 0, 0, 0] site) ∧
    channelOfCode (fieldNat [7, 0, 0, 0, 0, 0, 0] 0 1) = none ∧
    channelInUse (testing (sessionAt 10 .opened []) 900 450) .load = true :=
  ⟨asks (by decide), by decide, by decide, asks (by decide), by decide, by decide⟩

/-- At the clock itself and one second below it; from P1. -/
theorem witness_SetClockMovesForwardOnly :
    Asked .setClock .p4 [0, 1, 134, 160] (ask .p4 .setClock [0, 1, 134, 160] site) ∧
    fieldNat [0, 1, 134, 160] 0 4 = 100000 ∧ site.clock.time = some 100000 ∧
    Asked .setClock .p4 [0, 1, 134, 159] (ask .p4 .setClock [0, 1, 134, 159] site) ∧
    fieldNat [0, 1, 134, 159] 0 4 < 100000 ∧
    canTake (ask .p1 .setClock [0, 1, 134, 160] site) .p1 ReqKind.setClock.code [0, 1, 134, 160] = true ∧
    (Port.p1 ≠ .p4) :=
  ⟨asks (by decide), by decide, by decide, asks (by decide), by decide, by decide, by decide⟩

/-- A reset without a cause record pending, and a Tendon Start that opens a run. -/
theorem witness_WinchEncoderCountsTendon : (∃ t, exec .powerOnReset site = .next t) ∧
    (∃ t, exec .resetLineReset site = .next t) ∧
    nextIs (exec .restartReset { site with recorder := { site.recorder with draining := true } })
      (fun t => !t.recorder.draining) = true ∧
    let s := ask .p1 .tendonStart [0x22, 0x10] (withAnchor (anchorIn .planned))
    Asked .tendonStart .p1 [0x22, 0x10] s ∧ s.rig = none ∧
    nextIs (exec (.tendonStart .p1 [0x22, 0x10]) s) (fun t => t.rig.isSome) = true :=
  ⟨⟨_, rfl⟩, ⟨_, rfl⟩, by decide, asks (by decide), rfl, by decide⟩

/-- A line at work: a TOP_UP pass of the site's anchor, two values above the limit counted, refusal one value off. -/
def passing : LineCtx :=
  { anchor := s9t5, kind := .topUp, position := 1, pressLimit := 1500, releaseLevel := 1350, refusalPress := 1200,
    peak := 1000, overCount := 2, latch := false, limitEvents := 0, refusalCount := 5999, refusalReached := false }

/-- Its pass entry. -/
def openPass : PassEntry :=
  { kind := .topUp, line := .a, start := 99000, stop := none, volume := 0, peak := 0, limitEvents := 0, refusal := false }

/-- The anchor being grouted. -/
def grouted : AnchorRec := { anchorIn .grouting with passes := [openPass] }

/-- The site with grout line A at work, its valve asserted. -/
def grouting : State :=
  { withAnchor grouted with
    grout := { a := some passing, b := none }
    meas :=
      { site.meas with
        lines := site.meas.lines.set .a { valve := true, gated := 299, bin := 3, bins := List.replicate 10 4, rate := 240 } }
    time := { site.time with flowDue := 1, riseDue := 1, refreshDue := { a := 1, b := 0 } } }

theorem witness_FlowPulsesAreGated : (grouting.meas.lines.get .a).valve = true ∧ grouting.grout.get .a ≠ none ∧
    (grouting.meas.lines.get .b).valve = false ∧ grouting.grout.get .b = none := by decide

theorem witness_FlowRateSumsTenBins : grouting.time.flowDue ≠ 0 := by decide

/-- A hundred sample periods run, and ninety-nine; UNSET; the 600th second. -/
theorem witness_WorksClockSteps :
    let at_ (ticks secs : Nat) : State := { site with clock := { site.clock with ticks := ticks, markSeconds := secs } }
    (at_ 100 0).clock.time = some 100000 ∧ 100 ≤ (at_ 100 0).clock.ticks ∧ (at_ 99 0).clock.ticks < 100 ∧
    State.reset.clock.time = none ∧ 600 ≤ (at_ 0 600).clock.markSeconds := by decide

/-- The supply falls to 18.9 V, not to 19.0 V, with the cause record written and not; the writer in each of its states; it has
stood above 20.0 V for 99 sample periods, and for fewer; 20.0 V is not above. -/
theorem witness_PowerWarningRaisedAndCleared : 189 < 190 ∧ ¬ 190 < 190 ∧ site.supply.warning = false ∧
    site.recorder.causeDue = false ∧ starting.recorder.causeDue = true ∧ starting.supply.warning = false ∧
    (∀ w ∈ [Writer.idle, .writing (.mark 5) true, .marking, .held],
      ({ site with recorder := { site.recorder with writer := w } } : State).recorder.writer = w) ∧
    ({ site with supply := { warning := true, above := 99 } } : State).supply.above = 99 ∧
    ({ site with supply := { warning := true, above := 98 } } : State).supply.above < 99 ∧
    200 < ({ sampleOf 0 0 0 0 0 with supply := 201 } : SampleIn).supply ∧
    ¬ 200 < ({ sampleOf 0 0 0 0 0 with supply := 200 } : SampleIn).supply := by decide

/-- A write in progress is kept at a warning and the mark is owed; an idle writer marks, and is HELD at a later warning of the
run (R184); 19.0 V raises nothing. -/
theorem test_warning_and_the_writer :
    let at_ (w : Writer) (warned : Bool) : State :=
      { site with recorder := { site.recorder with writer := w, warned := warned } }
    nextIs (exec (.powerWarningRaised 189) (at_ (.writing (.mark 5) true) false))
      (fun t => (t.recorder.writer = .writing (.mark 5) true) && t.recorder.markOwed) = true ∧
    nextIs (exec (.powerWarningRaised 189) (at_ .idle false)) (fun t => t.recorder.writer = .marking) = true ∧
    nextIs (exec (.powerWarningRaised 189) (at_ .idle true)) (fun t => t.recorder.writer = .held) = true ∧
    nextIs (exec (.powerWarningRaised 190) (at_ .idle false)) (fun t => t.recorder.writer = .idle) = true := by decide

/-- The write of the reset-cause record that a warning found in progress completes; one that had not begun waits (R184). -/
theorem test_cause_write_under_warning :
    let at_ (begun : Bool) : State := { starting with
      recorder := { starting.recorder with writer := .held, warned := true, causeOpen := begun }
      supply := { warning := true, above := 0 }
      pending := [.resetCauseWritten] }
    nextIs (step (at_ true)) (fun t => (t.ports.p1.link = .onBus) && (t.store.cause.map (·.mark) = some true)) = true ∧
    nextIs (step (at_ false)) (fun t => (t.ports.p1.link = .offBus) && t.recorder.causeDue) = true := by decide

/-! ### The sample set: rig and grout lines -/

/-- A run, two values above the limit counted, whose next value is 500, and one whose next value is 388. -/
theorem witness_RigJudgesEverySampleSet :
    let s : State := { withAnchor (anchorIn .tendonRunning) with
      rig := some run
      meas := { site.meas with chans := { site.meas.chans with winchTension := steady 500 } } }
    s.rig = some run ∧
    (sampledChannel 1000 s.config.cals.winchTension 32768 s.meas.chans.winchTension).value = 500 ∧ 400 < 500 ∧
    run.overCount + 1 = 3 := by decide

/-- Line A at work on its anchor, alone; its next value 2000 is above the limit and completes the refusal count. -/
theorem witness_LinesJudgeEverySampleSet :
    let s : State := { grouting with
      meas := { grouting.meas with chans := { grouting.meas.chans with groutPressA := steady 2000 } } }
    s.grout.get .a = some passing ∧ findAnchor s passing.anchor = some grouted ∧
    (∀ m d, m ≠ GLine.a → s.grout.get m = some d → d.anchor ≠ passing.anchor) ∧
    (sampledChannel 5000 (channelGet s.config.cals .groutPressA) 26215 (channelGet s.meas.chans .groutPressA)).value =
      2000 ∧ passing.overCount + 1 = 3 ∧ passing.refusalReached = false ∧ min (passing.refusalCount + 1) 6000 = 6000 := by
  refine ⟨by decide, by decide, ?_, by decide, by decide, by decide, by decide⟩
  intro m d hm hd
  cases m with
  | a => exact absurd rfl hm
  | b => cases hd

/-! ### The grout monitor -/

/-- A pass list whose last entry ended at 50000. -/
def passEnded : PassEntry := { openPass with stop := some 50000 }

/-- The window's two bounds and the seconds beyond them (R86); every check passes; no line of code 2; no such anchor; a
failing check. -/
theorem witness_InjectStartOpensPass :
    (let r := { anchorIn .curing with passes := [passEnded] }
     r.passes = [] ++ [passEnded] ∧ passEnded.stop = some 50000 ∧ windowAdmits site r 93200 = true ∧
       windowAdmits site r 93199 = false ∧ windowAdmits site r 179600 = true ∧ windowAdmits site r 179601 = false) ∧
    openPass.stop = none ∧ (anchorIn .curing).passes = [] ∧
    (let s := ask .p2 .injectStart [0x22, 0x10, 0, 0] (withAnchor (anchorIn .tendonPlaced))
     Asked .injectStart .p2 [0x22, 0x10, 0, 0] s ∧ lineOfCode 0 = some .a ∧ passKindOfCode 0 = some .primary ∧
       findAnchor s (anchorField [0x22, 0x10, 0, 0]) = some (anchorIn .tendonPlaced) ∧ TablesSized s ∧
       s.clock.time = some 100000 ∧
       firstFailing
        [((s.grout.get .a).isSome, .lineBusy), (s.clock.time.isNone, .clockUnset),
         (!stageSuits .primary .tendonPlaced, .wrongStage), (false, .windowClosed), (false, .passesFull),
         (anchorZoneClosed s (anchorIn .tendonPlaced), .zoneClosed), (sectionHeld s 9, .sectionHeld),
         (sectionIsStale s 9, .deflectionStale), (lineFaulted s.meas .a, .sensorFault)] = none) ∧
    Asked .injectStart .p2 [0x22, 0x10, 2, 0] (ask .p2 .injectStart [0x22, 0x10, 2, 0] site) ∧ lineOfCode 2 = none ∧
    findAnchor site s9t5 = none ∧ firstFailing [(true, .lineBusy), (true, .clockUnset)] = some .lineBusy :=
  ⟨⟨rfl, rfl, by decide, by decide, by decide, by decide⟩, rfl, rfl,
    ⟨asks (by decide), by decide, by decide, by decide, anchor_sized _ rfl, by decide, by decide⟩, asks (by decide),
    by decide, by decide, by decide⟩

theorem grouting_sized : TablesSized grouting :=
  sized _ site_sections site_config rfl rfl rfl site_steps (one_ok grouted rfl)

/-- A TOP_UP pass that ends one litre short of the minimum, and an anchor on no line. -/
theorem witness_InjectEndClosesPass :
    let s := ask .p2 .injectEnd [0x22, 0x10, 0] grouting
    Asked .injectEnd .p2 [0x22, 0x10, 0] s ∧ lineOfCode (fieldNat [0x22, 0x10, 0] 2 1) = some .a ∧
    findAnchor s (anchorField [0x22, 0x10, 0]) = some grouted ∧ TablesSized s ∧ s.grout.get .a = some passing ∧
    passing.anchor = grouted.id ∧ grouted.stage = .grouting ∧
    (let q := ask .p2 .injectEnd [0x22, 0x10, 1] grouting
     Asked .injectEnd .p2 [0x22, 0x10, 1] q ∧ lineOfCode 1 = some .b ∧ q.grout.get .b = none) :=
  ⟨asks (by decide), by decide, by decide, grouting_sized, rfl, by decide, rfl, asks (by decide), by decide, rfl⟩

theorem witness_PassEntryFollowsLine : grouting.grout.get .a = some passing ∧
    findAnchor grouting passing.anchor = some grouted ∧ grouted.passes[passing.position - 1]? = some openPass ∧
    grouting.time.refreshDue.get .a ≠ 0 ∧ ({ grouting with time := site.time } : State).time.refreshDue.get .a = 0 := by
  decide

/-! ### Sections and zones -/

/-- Sections 1 and 16 in use and 17 not; a level and a source without meaning; STORE. -/
theorem witness_HoldsAreSetAndReleased :
    TablesSized (ask .p4 .setHold [16, 3, 7] site) ∧ Asked .setHold .p4 [16, 3, 7] (ask .p4 .setHold [16, 3, 7] site) ∧
    inSections site 16 = true ∧ levelOfCode 3 = some .stopAll ∧
    Asked .setHold .p4 [17, 0, 7] (ask .p4 .setHold [17, 0, 7] site) ∧ inSections site 17 = false ∧ levelOfCode 0 = none ∧
    TablesSized (ask .p4 .releaseHold [1, 0] site) ∧ Asked .releaseHold .p4 [1, 0] (ask .p4 .releaseHold [1, 0] site) ∧
    inSections site 1 = true ∧ sourceOfCode 0 = some .survey ∧
    Asked .releaseHold .p4 [1, 6] (ask .p4 .releaseHold [1, 6] site) ∧ sourceOfCode 6 = some .store ∧
    sourceOfCode 7 = none :=
  ⟨site_sized_ask, asks (by decide), by decide, by decide, asks (by decide), by decide, by decide, site_sized_ask,
    asks (by decide), by decide, by decide, asks (by decide), by decide, by decide⟩

/-- Zones 15 and 16; sections 1 and 0. -/
theorem witness_ZonesAndSectionLimitsAreSet :
    TablesSized (ask .p4 .openZone [15] site) ∧ Asked .openZone .p4 [15] (ask .p4 .openZone [15] site) ∧
    fieldNat [15] 0 1 ≤ 15 ∧ Asked .openZone .p4 [16] (ask .p4 .openZone [16] site) ∧ 15 < fieldNat [16] 0 1 ∧
    Asked .closeZone .p4 [0] (ask .p4 .closeZone [0] site) ∧ Asked .closeZone .p4 [16] (ask .p4 .closeZone [16] site) ∧
    Asked .setSection .p4 [1, 0, 0, 255, 255, 0, 0] (ask .p4 .setSection [1, 0, 0, 255, 255, 0, 0] site) ∧
    inSections site 1 = true ∧
    Asked .setSection .p4 [0, 0, 0, 0, 0, 0, 0] (ask .p4 .setSection [0, 0, 0, 0, 0, 0, 0] site) ∧
    inSections site 0 = false :=
  ⟨site_sized_ask, asks (by decide), by decide, asks (by decide), by decide, asks (by decide), asks (by decide),
    asks (by decide), by decide, asks (by decide), by decide⟩

/-- A report on section 16 and one on 17; an age at the period, one second below it, and a period of 0. -/
theorem witness_ReportsKeepSectionsFresh :
    let aged (n : Nat) : State := { site with sections := site.sections.set 0 { SectionRec.default with
      age := some n, stale := false } }
    TablesSized (ask .p4 .reportDeflection [16, 0, 0, 0, 1] site) ∧
    Asked .reportDeflection .p4 [16, 0, 0, 0, 1] (ask .p4 .reportDeflection [16, 0, 0, 0, 1] site) ∧
    inSections site 16 = true ∧
    Asked .reportDeflection .p4 [17, 0, 0, 0, 1] (ask .p4 .reportDeflection [17, 0, 0, 0, 1] site) ∧
    inSections site 17 = false ∧ TablesSized (aged 300) ∧ site.config.params.stalePeriod = 300 ∧
    (sectionRec (aged 300) 1).age = some 300 ∧ (sectionRec (aged 300) 1).stale = false ∧
    (sectionRec (aged 299) 1).age = some 299 ∧
    ({ site with config := { site.config with params := { site.config.params with stalePeriod := 0 } } } :
      State).config.params.stalePeriod = 0 :=
  ⟨site_sized_ask, asks (by decide), by decide, asks (by decide), by decide,
    sized _ (by decide) site_config rfl rfl rfl site_steps (by intro r hr; cases hr), by decide, by decide, by decide,
    by decide, by decide⟩

/-! ### Parameters and the schedule table -/

/-- Section count 16 to 8; below an anchor's section; chain mode with a channel ENABLED; an undefined parameter. -/
theorem witness_SetParameterStoresClampedValue :
    let enabled : State := { site with watch := site.watch.set .w1 { WatchState.afterReset with enabled := true } }
    Asked .setParameter .p4 [1, 0, 0, 0, 8] (ask .p4 .setParameter [1, 0, 0, 0, 8] site) ∧
    paramOfCode (fieldNat [1, 0, 0, 0, 8] 0 1) = some .sectionCount ∧ clampParam .sectionCount 8 = 8 ∧
    firstFailing
      [(decide (ParamId.sectionCount = .sectionCount) && site.anchors.any (fun r => decide (8 < r.id.sect)), .badValue),
       (decide (ParamId.sectionCount = .chainMode) && allWatches.any (fun w => (site.watch.get w).enabled),
         .configLocked)] = none ∧
    TablesSized (ask .p4 .setParameter [1, 0, 0, 0, 8] site) ∧
    (withAnchor (anchorIn .planned)).anchors.any (fun r => decide (8 < r.id.sect)) = true ∧
    Asked .setParameter .p4 [22, 0, 0, 0, 1] (ask .p4 .setParameter [22, 0, 0, 0, 1] enabled) ∧
    paramOfCode (fieldNat [22, 0, 0, 0, 1] 0 1) = some .chainMode ∧
    allWatches.any (fun w => (enabled.watch.get w).enabled) = true ∧
    Asked .setParameter .p4 [0, 0, 0, 0, 1] (ask .p4 .setParameter [0, 0, 0, 0, 1] site) ∧ paramOfCode 0 = none ∧
    paramOfCode 23 = none :=
  ⟨asks (by decide), by decide, by decide, by decide, site_sized_ask, by decide, asks (by decide), by decide, by decide,
    asks (by decide), by decide, by decide⟩

/-- Step 63 written, step 64 refused; a head of 63, a head of 64, a class of 3; the walked head of an open session. -/
theorem witness_ScheduleEditsRevalidateHeads :
    Asked .writeStep .p4 [63, 1, 1, 0x90, 255, 0, 0, 0] (ask .p4 .writeStep [63, 1, 1, 0x90, 255, 0, 0, 0] site) ∧
    (stepKindOfCode 1).bind (fun k => stepOfPayload k [63, 1, 1, 0x90, 255, 0, 0, 0]) = some (.loadTo 400 none) ∧
    firstFailing [(decide (64 ≤ 63), .badValue), (false, .badValue), (stepInUse site 63, .scheduleInUse)] = none ∧
    Asked .writeStep .p4 [64, 1, 1, 0x90, 255, 0, 0, 0] (ask .p4 .writeStep [64, 1, 1, 0x90, 255, 0, 0, 0] site) ∧
    stepInUse (testing (sessionAt 10 .opened []) 900 450) 18 = true ∧
    Asked .setScheduleHead .p4 [0, 63] (ask .p4 .setScheduleHead [0, 63] site) ∧ classOfCode 0 = some .acceptance ∧
    linkOfCode 63 = some (some 63) ∧ headWalked site .acceptance = false ∧
    headWalked (testing (sessionAt 10 .opened []) 900 450) .acceptance = true ∧
    Asked .setScheduleHead .p4 [0, 64] (ask .p4 .setScheduleHead [0, 64] site) ∧ linkOfCode 64 = none ∧
    classOfCode 3 = none :=
  ⟨asks (by decide), by decide, by decide, asks (by decide), by decide, asks (by decide), by decide, by decide, by decide,
    by decide, asks (by decide), by decide, by decide⟩

theorem witness_ValidProgrammesHaveTheirShape :
    validateHead acceptanceTable (some 10) = .valid [10, 11, 12, 13, 14, 15, 16, 17, 18] 20 :=
  test_acceptance_programme.1

/-! ### The stressing session -/

/-- The site ready for a test of its anchor. -/
def ready : State := withTable acceptanceTable (withAnchor (anchorIn .stressable))

theorem ready_sized {p : Port} {k : ReqKind} {pl : List Byte} : TablesSized (ask p k pl ready) :=
  sized _ site_sections site_config rfl rfl rfl (by show acceptanceTable.steps.length = 64; decide) (one_ok (anchorIn .stressable) rfl)

/-- Every check passes; a first failing check; no such anchor. -/
theorem witness_StressOpenOpensSession :
    let s := ask .p3 .stressOpen [0x22, 0x10, 0x4E, 0x20] ready
    let d : Design := { zone := 0, cls := .acceptance, dwl := 9000, tl := 9000, ll := 6000 }
    let head := s.results.get .acceptance
    Asked .stressOpen .p3 [0x22, 0x10, 0x4E, 0x20] s ∧
    findAnchor s (anchorField [0x22, 0x10, 0x4E, 0x20]) = some (anchorIn .stressable) ∧
    (anchorIn .stressable).design = some d ∧ TablesSized s ∧ s.clock.time = some 100000 ∧
    head.path.head? = some 10 ∧ stepAt s.schedule 10 = .datum 100 (some 11) ∧
    firstFailing
      [(s.session.isSome, .sessionBusy), (s.clock.time.isNone, .clockUnset), (false, .wrongStage),
       (anchorZoneClosed s (anchorIn .stressable), .zoneClosed), (sectionHeld s 9, .sectionHeld),
       (sectionIsStale s 9, .deflectionStale), (!staggerPasses s s9t5, .stagger),
       (head.walkCount.isNone, .scheduleInvalid), (equalTargets s.schedule 9000 [] head.path, .scheduleInvalid),
       (false, .badValue), (jackFaulted s.meas, .sensorFault),
       (decide (8192 - (s.pool.reserved.length + s.pool.used.length) < head.walkCount.getD 0 + 3 * 2), .poolExhausted)] =
      none ∧
    firstFailing [(false, .sessionBusy), (true, .clockUnset), (true, .wrongStage)] = some .clockUnset ∧
    findAnchor site s9t5 = none :=
  ⟨asks (by decide), by decide, by decide, ready_sized, by decide, by decide, by decide, by decide, by decide, by decide⟩

/-- An Advance of a session at a load. -/
def advancing (x : Session) (load press : Nat) : State := ask .p3 .advance [] (testing x load press)

theorem advancing_asked (x : Session) (a b : Nat) : Asked .advance .p3 [] (advancing x a b) := asks rfl

/-- At the datum, at a LOAD_TO with its band's lower bound, at the LOCK_OFF; out of band; in a hold; in RELEASE_WAIT. -/
theorem witness_AdvanceCarriesOutStep :
    Asked .advance .p3 [] (advancing (sessionAt 10 .opened []) 890 445) ∧
    (advancing (sessionAt 10 .opened []) 890 445).session = some (sessionAt 10 .opened []) ∧
    findAnchor (advancing (sessionAt 10 .opened []) 890 445) s9t5 = some underTest ∧ underTest.result.isSome = true ∧
    arrivalKind (stepAt acceptanceTable 10) = some .datumArrival ∧
    firstFailing
      [(jackFaulted (advancing (sessionAt 10 .opened []) 890 445).meas && Config.faultBeforePaused, .sensorFault),
       (!(advancing (sessionAt 10 .opened []) 890 445).permits.jack, .paused),
       (jackFaulted (advancing (sessionAt 10 .opened []) 890 445).meas, .sensorFault), (false, .zoneClosed),
       (decide (900 + 10 < channelValue (advancing (sessionAt 10 .opened []) 890 445).meas .load ∨
          channelValue (advancing (sessionAt 10 .opened []) 890 445).meas .load + 10 < 900), .targetNotReached)] = none ∧
    (advancing (sessionAt 10 .opened []) 890 445).pool.reserved = 10 :: List.range' 11 19 ∧
    arrivalKind (stepAt acceptanceTable 13) = some .loadArrival ∧ (sessionAt 13 .approach []).phase = .approach ∧
    stepAt acceptanceTable 13 = .loadTo 1000 (some 14) ∧ arrivalKind (stepAt acceptanceTable 16) = some .lockArrival ∧
    stepAt acceptanceTable 16 = .lockOff (some 17) ∧
    firstFailing [(false, .paused), (false, .sensorFault), (false, .zoneClosed), (true, .targetNotReached)] =
      some .targetNotReached ∧
    (sessionAt 14 (.holding (newAttempt 600 100 true)) [frame9000 []]).phase = .holding (newAttempt 600 100 true) ∧
    (sessionAt 16 .releaseWait []).phase = .releaseWait ∧ (ask .p3 .advance [] site).session = none :=
  ⟨advancing_asked _ _ _, rfl, by decide, rfl, by decide, by decide, by decide, by decide, rfl, by decide, by decide,
    by decide, by decide, rfl, rfl, rfl⟩

/-- The evaluating unload of the acceptance programme, two frames on the stack; the datum's fraction, and an unload to a
fraction above it. -/
theorem witness_UnloadPopsFramesAndEvaluates :
    let x := sessionAt 15 .approach [frame9000 [], { frame9000 [] with fraction := 700, target := 6300, arrival := 2, critical := false }]
    let s := advancing x 900 450
    Asked .advance .p3 [] s ∧ TablesSized s ∧ s.session = some x ∧ findAnchor s x.anchor = some underTest ∧
    underTest.result.isSome = true ∧ underTest.geometry = some { ea := 117000, lfree := 1200, lbond := 800, minVolume := 300 } ∧
    stepAt s.schedule x.step = .unloadTo 100 (some 16) ∧
    x.datum = some { fraction := 100, target := 900, load0 := 905, ext0 := 420 } ∧ s.permits.jack = true ∧
    jackFaulted s.meas = false ∧ channelValue s.meas .load = 900 ∧
    (s.pool.reserved.take 3) = [10, 11, 12] ∧ s.pool.reserved.Nodup ∧
    (∀ m ∈ s.pool.reserved, tableGet s.pool.used m = none) ∧
    (∀ q ∈ x.stages, tableGet s.pool.used (q.holdReadings.getLast?.getD q.arrival) ≠ none) ∧
    x.stages.any (·.critical) = true ∧ (x.stages.takeWhile fun q => 700 < q.fraction).length = 1 :=
  ⟨advancing_asked _ _ _, testing_sized (sessionAt 15 .approach []) 900 450, rfl, by decide, rfl, rfl, by decide, rfl, rfl, by decide, by decide,
    by decide, by decide, by decide, by decide, by decide, by decide⟩

/-- In RELEASE_WAIT, in another phase, and without a session. -/
theorem witness_ReleaseRecordsLockOffLoad :
    let s := ask .p3 .release [] (testing (sessionAt 16 .releaseWait []) 6150 3075)
    Asked .release .p3 [] s ∧ s.session = some (sessionAt 16 .releaseWait []) ∧ findAnchor s s9t5 = some underTest ∧
    underTest.result.isSome = true ∧ jackFaulted s.meas = false ∧ s.pool.reserved = 10 :: List.range' 11 19 ∧
    (stepAt s.schedule 16).next = some 17 ∧ (sessionAt 13 .approach []).phase ≠ .releaseWait ∧
    firstFailing [(true, .wrongPhase), (false, .sensorFault)] = some .wrongPhase ∧
    Asked .release .p3 [] (ask .p3 .release [] site) ∧ site.session = none :=
  ⟨asks rfl, rfl, by decide, rfl, by decide, by decide, by decide, by decide, by decide, asks (by decide), rfl⟩

/-- With a CRITICAL frame and without one; without a session. -/
theorem witness_AbortOrStopClosesSession :
    let s := ask .p3 .stressAbort [] (testing (sessionAt 15 .approach [frame9000 []]) 9000 4500)
    let q := ask .p4 .stopSession [] (testing (sessionAt 10 .opened []) 900 450)
    Asked .stressAbort .p3 [] s ∧ TablesSized s ∧ findAnchor s s9t5 = some underTest ∧ underTest.result.isSome = true ∧
    (sessionAt 15 .approach [frame9000 []]).stages.any (·.critical) = true ∧ Asked .stopSession .p4 [] q ∧
    TablesSized q ∧ (sessionAt 10 .opened []).stages.any (·.critical) = false ∧
    Asked .stressAbort .p3 [] (ask .p3 .stressAbort [] site) ∧ site.session = none :=
  ⟨asks rfl, testing_sized (sessionAt 15 .approach []) 9000 4500, by decide, rfl, by decide, asks rfl,
    testing_sized (sessionAt 10 .opened []) 900 450, by decide, asks (by decide), rfl⟩

/-- The state with five readings of the hold at 9000 in the pool, its first at an extension of 900 or 899. -/
def holding (h : HoldCtx) (top : StageFrame) (ext0 : Nat) : State :=
  let s := testing (sessionAt 14 (.holding h) [top]) 9000 4500
  { s with pool := { s.pool with used := s.pool.used ++
      [poolReading 4 9000 ext0, poolReading 5 9000 905, poolReading 6 9000 910, poolReading 7 9000 915] } }

/-- A hold of ten minutes a sample period before a reading point. -/
def holdBefore (point : Nat) (extendable : Bool) : HoldCtx :=
  { newAttempt 600 100 extendable with begun := true, elapsed := pointFactor point * 600 - 1, nextPoint := point }

/-- A sample set that leaves every value as it stands: load 9000, jack pressure 4500, extension 1000. -/
def steadySample : SampleIn := sampleOf 19661 36864 2622 0 0

theorem holding_sized (h : HoldCtx) (top : StageFrame) (n : Nat) : TablesSized (holding h top n) :=
  sized _ site_sections site_config rfl rfl rfl (by show acceptanceTable.steps.length = 64; decide) (one_ok underTest rfl)

/-- The readings of a hold that ran to its ninth point. -/
def longHolding (limit ext4 : Nat) : State :=
  let h := { holdBefore 9 true with limit := limit }
  let s := testing (sessionAt 14 (.holding h) [frame9000 [4, 5, 6, 7, 8, 40, 41, 42]]) 9000 4500
  { s with pool := { s.pool with used := s.pool.used ++ [poolReading 4 9000 900, poolReading 8 9000 ext4] } }

/-- The first reading point; the fifth under a creep limit of 0, with a creep at the limit, and one above it, extendable and
not; the ninth with a creep at the limit and above it; between two points. -/
theorem witness_HoldsReadAndVoidAtSampleSets :
    let s := holding (holdBefore 1 true) (frame9000 []) 900
    let u := (watchedEvent steadySample s).st
    TablesSized s ∧ s.session = some (sessionAt 14 (.holding (holdBefore 1 true)) [frame9000 []]) ∧
    findAnchor s s9t5 = some underTest ∧ underTest.result.isSome = true ∧
    (∀ l c, s.grout.get l = some c → c.anchor ≠ s9t5) ∧ s.pool.reserved = 10 :: List.range' 11 19 ∧
    tableGet s.pool.used 10 = none ∧ jackFaulted u.meas = false ∧ lineUp u .jack = true ∧ channelValue u.meas .load = 9000 ∧
    (holdBefore 1 true).elapsed + 1 = pointFactor 1 * 600 ∧ ({ holdBefore 5 true with limit := 0 } : HoldCtx).limit = 0 ∧
    (let q := holding (holdBefore 5 true) (frame9000 [4, 5, 6, 7]) 900
     (holdBefore 5 true).elapsed + 1 = pointFactor 5 * 600 ∧ (frame9000 [4, 5, 6, 7]).holdReadings.length = 4 ∧
       tableGet q.pool.used 4 ≠ none ∧
       ((watchedEvent steadySample q).st.meas.extension : Int) - (entryValues q 4).2 = 100 ∧
       (stepAt q.schedule 14).next = some 15) ∧
    (let q := holding (holdBefore 5 false) (frame9000 [4, 5, 6, 7]) 899
     ((watchedEvent steadySample q).st.meas.extension : Int) - (entryValues q 4).2 = 101 ∧
       (frame9000 [4, 5, 6, 7]).creepExtended = false) ∧
    (let q := longHolding 100 900
     (holdBefore 9 true).elapsed + 1 = pointFactor 9 * 600 ∧ (frame9000 [4, 5, 6, 7, 8, 40, 41, 42]).holdReadings[4]? = some 8 ∧
       tableGet q.pool.used 8 ≠ none ∧
       ((watchedEvent steadySample q).st.meas.extension : Int) - (entryValues q 8).2 = 100) ∧
    (newAttempt 600 100 true).elapsed + 1 ≠ pointFactor (newAttempt 600 100 true).nextPoint * 600 := by
  refine ⟨holding_sized _ _ _, rfl, ?_, rfl, ?_, ?_, ?_, ?_, ?_, ?_, ?_, rfl, ?_, ?_, ?_, ?_⟩
  case refine_2 => intro l c hc; cases l <;> cases hc
  all_goals decide

/-- A begun attempt, its counts at their limits. -/
def holdAtLimits : HoldCtx := { holdBefore 2 true with pause := 60000, offBand := 6000 }

/-- Voids by a fault, by a pause and out of band, with reholds left and without, the attempt's readings last on the list; the
same pause and time out of band one set before; an attempt that has not begun. -/
theorem witness_HoldVoidsAtSampleSets :
    holdAtLimits.begun = true ∧ (frame9000 [3]).rehold < 2 ∧ 2 ≤ ({ frame9000 [3] with rehold := 2 } : StageFrame).rehold ∧
    (capturedNow Params.default).reholdMax = 2 ∧
    underTest.result.map (·.readings) =
      some ([.entry 0, .entry 1, .entry 2] ++ (frame9000 [3]).holdReadings.map .entry) ∧
    (let s := holding holdAtLimits (frame9000 [3]) 900
     let faulted : State := { s with meas := { s.meas with chans := { s.meas.chans with load := ChannelState.emptied } } }
     jackFaulted (watchedEvent steadySample faulted).st.meas = true) ∧
    (let s := holding holdAtLimits (frame9000 [3]) 900
     let stopped : State := { s with sections := s.sections.set 8 { SectionRec.default with
       data := { SectionData.default with holds := [{ source := .survey, level := .stopAll, time := 1, reason := some 1 }] } } }
     let u := (watchedEvent steadySample stopped).st
     jackFaulted u.meas = false ∧ lineUp u .jack = false ∧ (capturedNow Params.default).pauseVoid * 100 < 60000 + 1 ∧
       59999 + 1 ≤ (capturedNow Params.default).pauseVoid * 100) ∧
    (let s := testing (sessionAt 14 (.holding holdAtLimits) [frame9000 [3]]) 5890 2945
     let u := (watchedEvent (sampleOf 12867 24126 2622 0 0) s).st
     jackFaulted u.meas = false ∧ lineUp u .jack = true ∧ channelValue u.meas .load = 5890 ∧
       (capturedNow Params.default).offBandVoid * 100 < 6000 + 1 ∧
       5999 + 1 ≤ (capturedNow Params.default).offBandVoid * 100) ∧
    (newAttempt 600 100 true).begun = false := by
  refine ⟨?_, ?_, ?_, ?_, ?_, ?_, ?_, ?_, ?_⟩ <;> decide

/-- The session in LIFTOFF, the reference taken at 980 mm. -/
def lifting (relocks : Nat) : Session :=
  { sessionAt 17 (.liftoff { lowSeen := true, ref := some 980 }) [] with relocks := relocks }

/-- Captured at 1000 mm under LL 6000: a load within tolerance and one outside it, with and without relocks left; an overrun
at 9000 kN without a reference. -/
theorem witness_LiftOffEndsTheTest :
    let s := testing (lifting 0) 5890 2945
    let u := (watchedEvent (sampleOf 12867 24126 2622 0 0) s).st
    TablesSized s ∧ s.session = some (lifting 0) ∧ (lifting 0).phase = .liftoff { lowSeen := true, ref := some 980 } ∧
    findAnchor s s9t5 = some underTest ∧ underTest.result.isSome = true ∧
    (∀ l c, s.grout.get l = some c → c.anchor ≠ s9t5) ∧
    (let q := testing { lifting 0 with phase := .liftoff { lowSeen := false, ref := none } } 9000 4500
     channelValue (watchedEvent steadySample q).st.meas .load = 9000 ∧ 6000 * (1000 + 2 * 50) / 1000 < 9000) ∧
    underTest.design = some { zone := 0, cls := .acceptance, dwl := 9000, tl := 9000, ll := 6000 } ∧
    underTest.stage = .stressing ∧ s.pool.reserved = 10 :: List.range' 11 19 ∧ jackFaulted u.meas = false ∧
    channelValue u.meas .load = 5890 ∧ u.meas.extension = 1000 ∧ 980 + (capturedNow Params.default).liftThreshold ≤ 1000 ∧
    (let v := (watchedEvent (sampleOf 12278 23020 2622 0 0) (testing (lifting 2) 5620 2810)).st
     jackFaulted v.meas = false ∧ channelValue v.meas .load = 5620 ∧ ¬ (6000 - 5620) * 1000 ≤ 50 * 6000) ∧
    (lifting 1).relocks < (capturedNow Params.default).relockMax ∧
    (capturedNow Params.default).relockMax ≤ (lifting 2).relocks := by
  refine ⟨testing_sized _ _ _, rfl, rfl, ?_, rfl, ?_, ?_, rfl, rfl, ?_, ?_, ?_, ?_, ?_, ?_, ?_, ?_⟩
  case refine_2 => intro l c hc; cases l <;> cases hc
  all_goals decide

/-! ### The watch unit -/

/-- A Watch Configure of W1: LOAD above 9600, persistence 2, STOP_NEW and JACK. -/
def configuring : List Byte := [1, 0, 0, 0, 0, 0, 0, 0x25, 0x80, 0, 0, 0, 2, 0x24, 0, 60]

/-- A site whose W1 is ENABLED and ARMED with a staged threshold. -/
def watching : State :=
  { site with watch := site.watch.set .w1 { WatchState.afterReset with enabled := true, armed := true, staged := some (.one 500) } }

/-- A configuration of W1, RISE_OVER of W4 and a pair of OUTSIDE; disabled and ENABLED; no channel 0 or 5; no value. -/
theorem witness_WatchSettingsAreStored :
    (configOfPayload site .w1 configuring).isSome = true ∧
    (configOfPayload site .w4 [4, 7, 0, 3, 0, 5, 0, 0, 30, 0, 0, 0, 1, 0, 0, 0]).isSome = true ∧
    (configOfPayload site .w2 [2, 8, 9, 2, 0, 0, 255, 251, 80, 0, 4, 176, 1, 0, 0, 0]).map (·.threshold) =
      some (.two (-1200) 1200) ∧
    Asked .watchConfigure .p4 configuring (ask .p4 .watchConfigure configuring site) ∧
    watchOfCode (fieldNat configuring 0 1) = some .w1 ∧ (site.watch.get .w1).enabled = false ∧
    (watching.watch.get .w1).enabled = true ∧
    configOfPayload site .w1 [1, 9, 0, 0, 0, 0, 0, 0, 0, 0, 0, 0, 1, 0, 0, 0] = none ∧ watchOfCode 0 = none ∧
    watchOfCode 5 = none ∧
    Asked .watchThreshold .p4 [1, 1, 0, 3, 132, 0, 0, 0] (ask .p4 .watchThreshold [1, 1, 0, 3, 132, 0, 0, 0] watching) ∧
    givenThreshold (site.config.watch.get .w1) [1, 1, 0, 3, 132, 0, 0, 0] = some (.one 900) ∧
    givenThreshold (site.config.watch.get .w1) [1, 2, 0, 3, 132, 0, 4, 0] = none :=
  ⟨by decide, by decide, by decide, asks (by decide), by decide, by decide, by decide, by decide, by decide, by decide,
    asks (by decide), by decide, by decide⟩

/-- Every request on W1 and on channel 5; a DEFLECTION source outside 1..N. -/
theorem witness_WatchChannelsAreSwitched :
    Asked .watchEnable .p4 [1] (ask .p4 .watchEnable [1] site) ∧ watchOfCode (fieldNat [1] 0 1) = some .w1 ∧
    (∀ n, (site.config.watch.get .w1).source = .deflection n → inSections site n = true) ∧
    (({ WatchConfig.default with source := .deflection 17 } : WatchConfig).source = .deflection 17 ∧
      inSections site 17 = false) ∧
    Asked .watchDisable .p4 [1] (ask .p4 .watchDisable [1] watching) ∧ (watching.watch.get .w1).enabled = true ∧
    (site.watch.get .w1).enabled = false ∧ Asked .watchRearm .p4 [1] (ask .p4 .watchRearm [1] watching) ∧
    Asked .watchEnable .p4 [5] (ask .p4 .watchEnable [5] site) ∧
    Asked .watchDisable .p4 [5] (ask .p4 .watchDisable [5] site) ∧
    Asked .watchRearm .p4 [5] (ask .p4 .watchRearm [5] site) ∧ watchOfCode (fieldNat [5] 0 1) = none := by
  refine ⟨asks (by decide), by decide, ?_, by decide, asks (by decide), by decide, by decide, asks (by decide),
    asks (by decide), asks (by decide), asks (by decide), by decide⟩
  intro n h
  exact absurd h (by simp [show (site.config.watch.get .w1).source = WatchSource.load from rfl])

/-- A configuration of LOAD above a value. -/
def loadAbove (v : Int) (drop : Option PLine) (level : Option HoldLevel) : WatchConfig :=
  { WatchConfig.default with threshold := .one v, level := level, drop := drop, chainWindow := 60 }

/-- A channel ENABLED and ARMED. -/
def armedWatch : WatchState := { WatchState.afterReset with enabled := true, armed := true }

/-- The test at 9000 kN watched: W1 independent, or first of the chain W1 to W4. -/
def watched (mode : Nat) : State :=
  let s := testing (sessionAt 15 .approach [frame9000 []]) 9000 4500
  { s with
    config := { s.config with
      params := { s.config.params with chainMode := mode }
      watch := { w1 := loadAbove 8999 (some .jack) (some .stopAll), w2 := loadAbove 8999 none none,
                 w3 := WatchConfig.default, w4 := WatchConfig.default } }
    watch := { w1 := armedWatch, w2 := { armedWatch with armed := false }, w3 := WatchState.afterReset,
               w4 := WatchState.afterReset } }

theorem watched_sized : TablesSized (watched 0) ∧ TablesSized (watched 3) :=
  ⟨sized _ site_sections site_config rfl rfl rfl (by show acceptanceTable.steps.length = 64; decide) (one_ok underTest rfl),
    sized _ site_sections site_config rfl rfl rfl (by show acceptanceTable.steps.length = 64; decide) (one_ok underTest rfl)⟩

/-- W1 trips on 9000 kN above 8999: an action in mode 0, a step to W2 in mode 3. -/
theorem witness_ChannelsTripOnPersistence :
    (∀ mode ∈ ([0, 3] : List Nat),
      let s := watched mode
      let u := (monitoredEvent steadySample s).st
      fedAt (.sample steadySample) s = some (u, fedBySample) ∧ evaluating u .w1 = true ∧
      fedBySample (s.config.watch.get .w1).source = true ∧ (s.config.watch.get .w1).kind ≠ .riseOver ∧
      sourceValue u (s.config.watch.get .w1).source = some 9000 ∧
      comparisonHolds (s.config.watch.get .w1).kind (s.config.watch.get .w1).threshold 9000 = true ∧
      (s.config.watch.get .w1).persistence ≤ (u.watch.get .w1).count + 1 ∧
      relatedSection u (s.config.watch.get .w1).source = some 9) ∧
    TablesSized (watched 0) ∧ TablesSized (watched 3) ∧
    (∀ q, watchSuccessor (watched 0) q = some .w1 → ((watched 0).watch.get q).armed = false) ∧
    (∀ q, watchSuccessor (watched 3) q = some .w1 → ((watched 3).watch.get q).armed = false) ∧
    watchSuccessor (watched 0) .w1 = none ∧ watchSuccessor (watched 3) .w1 = some .w2 ∧
    ((watched 3).watch.get .w2).armed = false ∧ ((watched 3).watch.get .w2).enabled = true := by
  refine ⟨?_, watched_sized.1, watched_sized.2, ?_, ?_, by decide, by decide, by decide, by decide⟩
  · intro mode hm
    simp only [List.mem_cons, List.not_mem_nil, or_false] at hm
    rcases hm with rfl | rfl <;> refine ⟨rfl, ?_, ?_, ?_, ?_, ?_, ?_, ?_⟩ <;> decide
  · intro q; cases q <;> decide
  · intro q; cases q <;> decide

/-- The step trip of W1 arms W2 with its window of 60 s, 59 s after the sample set that is the last of its second, and leaves
the section's holds and the latch as they stood (R166, R168). -/
theorem test_step_trip :
    (∀ p ∈ [(0, 60), (99, 59)],
      let s : State := { watched 3 with time := { (watched 3).time with periods := p.1 } }
      nextIs (exec (.watchStepTrip .w1 (.sample steadySample)) s)
        (fun t => (t.watch.get .w1).tripped && (t.watch.get .w2).armed && ((t.watch.get .w2).window = some p.2) &&
          (!(t.watch.get .w1).latch) && ((sectionRec t 9).data.holds = (sectionRec s 9).data.holds)) = true) := by
  decide

/-- The rig watched by W4 for a rise of 30 over one second, with one snapshot taken. -/
def risingSite : State :=
  let s : State := { withAnchor (anchorIn .tendonRunning) with rig := some run }
  { s with
    time := { s.time with riseDue := 1 }
    config := { s.config with
      watch := s.config.watch.set .w4
        { WatchConfig.default with source := .winchTension, kind := .riseOver, riseWindow := some 1, threshold := .one 30 } }
    watch := s.watch.set .w4 { armedWatch with history := [60] } }

/-- An armed successor whose window has run out, and one with a second left; a rise from 60 to 100. -/
theorem witness_ChainsLapseAndRisesAreCounted :
    let chained (left : Nat) : State :=
      { watched 3 with watch := { (watched 3).watch with w2 := { armedWatch with window := some left } } }
    (∃ w ∈ chainMembers 3, ((chained 0).watch.get w).armed = true ∧ ((chained 0).watch.get w).window = some 0) ∧
    (∀ w ∈ chainMembers 3, ((chained 1).watch.get w).armed = false ∨ ((chained 1).watch.get w).window ≠ some 0) ∧
    risingSite.time.riseDue ≠ 0 ∧ (risingSite.config.watch.get .w4).kind = .riseOver ∧
    (∀ w, w ≠ WatchId.w4 → (risingSite.config.watch.get w).kind ≠ .riseOver) ∧
    (risingSite.config.watch.get .w4).riseWindow = some 1 ∧ (risingSite.config.watch.get .w4).threshold = .one 30 ∧
    evaluating risingSite .w4 = true ∧ sourceValue risingSite (risingSite.config.watch.get .w4).source = some 100 ∧
    (risingSite.watch.get .w4).history = [60] ∧ 30 < (100 : Int) - [(60 : Int), 100].headD 0 := by
  refine ⟨by decide, by decide, by decide, by decide, ?_, by decide, by decide, by decide, by decide, by decide, by decide⟩
  intro w hw
  cases w <;> first | decide | exact absurd rfl hw

/-! ### The record store -/

/-- A state with items to write. -/
def dirty : State := { site with recorder := { site.recorder with list := [.directory, .sections] } }

/-- The writer IDLE; writing, held or in the start-up scan; the two copies; a write in progress; the warning mark. -/
theorem witness_WriterTakesItemsInOrder :
    dirty.recorder.list = .directory :: [.sections] ∧ dirty.recorder.writer = .idle ∧ dirty.supply.warning = false ∧
    dirty.recorder.causeDue = false ∧ State.reset.recorder.causeDue = true ∧
    dirty.store.dirFirst = some { seq := 0, slots := [] } ∧ dirty.store.dirSecond = some { seq := 1, slots := [] } ∧
    ({ dirty with recorder := { dirty.recorder with writer := .writing (.mark 5) true } } : State).recorder.writer =
      .writing (.mark 5) true ∧
    ({ dirty with recorder := { dirty.recorder with writer := .marking } } : State).recorder.writer = .marking := by
  decide

/-- A Restart without active work, one with a run active; the reset due, and not due. -/
theorem witness_RestartDrainsThenResets :
    let s : State := { site with recorder := { site.recorder with draining := true } }
    Asked .restart .p4 [] (ask .p4 .restart [] site) ∧ site.rig = none ∧ site.grout.a = none ∧ site.grout.b = none ∧
    site.session = none ∧ Asked .restart .p4 [] (ask .p4 .restart [] grouting) ∧ grouting.grout.a ≠ none ∧
    s.recorder.draining = true ∧ s.recorder.list = [] ∧ s.recorder.writer = .idle ∧ (∀ q, (s.ports.get q).inHand = none) ∧
    (∃ t, exec .restartReset s = .next t) ∧ site.recorder.draining = false :=
  ⟨asks (by decide), by decide, by decide, by decide, by decide, asks (by decide), by decide, rfl, rfl, rfl,
    by intro q; cases q <;> rfl, ⟨_, rfl⟩, rfl⟩

/-- A reset in a write, in the write of the mark, with the writer IDLE, and of a drained part; in a write of the cause record
that is in progress, and delayed; a directory of one slot; the cause record still to be written with the values ready, with
POWER_WARNING, and before the values are ready. -/
theorem witness_ResetsReturnVolatileState :
    ({ dirty with recorder := { dirty.recorder with writer := .writing (.mark 5) true } } : State).recorder.writer =
      .writing (.mark 5) true ∧ site.recorder.writer = .idle ∧ site.recorder.causeDue = false ∧
    ({ dirty with recorder := { dirty.recorder with writer := .marking } } : State).recorder.writer = .marking ∧
    (let s : State := { site with recorder := { site.recorder with draining := true } }
     s.recorder.draining = true ∧ s.recorder.list = [] ∧ s.recorder.writer = .idle ∧
       ∀ q, q ∈ [Port.p1, .p2, .p3, .p4] → (s.ports.get q).inHand = none) ∧
    (∀ open_ ∈ [true, false],
      let s : State := { starting with
        recorder := { starting.recorder with writer := .held, warned := true, causeOpen := open_ }
        supply := { warning := true, above := 0 } }
      s.recorder.causeDue = true ∧ s.recorder.causeOpen = open_ ∧ s.recorder.writer = .held ∧ s.supply.warning = true) ∧
    (let st : Store := { Store.formatted with
       images := [{ index := 0, val := anchorIn .tendonRunning }]
       dirSecond := some { seq := 1, slots := [{ index := 0, val := s9t5 }] } }
     st.isBlank = false ∧ ((directoryInUse st).map (·.val)).Nodup ∧ ((directoryInUse st).map (·.index)).Nodup ∧
       (directoryInUse st).length = 1) ∧
    starting.recorder.causeDue = true ∧ starting.supply.warning = false ∧
    (∀ c ∈ allChannels, faultPresent starting.meas (.notReady c) = false) ∧
    ({ starting with supply := { warning := true, above := 0 } } : State).supply.warning = true ∧
    State.reset.recorder.causeDue = true ∧ faultPresent State.reset.meas (.notReady .load) = true := by decide

end Sys2Proof.Tests
end

section
/-! SUPPORT. The measurement inputs and the works clock (chapter 3): what one sample set makes of the channels, the derived
values and the faults, and the three statements of the chapter settled here. -/

namespace Sys2Proof.Machine

/-! ## One channel (R51, R52, R54) -/

/-- The judgement of a fault, its condition given as a proposition. -/
theorem judge_eq_faultAfter (f : FaultState) {b : Bool} {P : Prop} [Decidable P] (h : b = true ↔ P) :
    f.judge b = faultAfter f P := by
  by_cases hP : P
  · simp [FaultState.judge, faultAfter, hP, h.2 hP]
  · have hb : b = false := by simpa using mt h.1 hP
    simp only [FaultState.judge, faultAfter, hP, hb, Bool.false_eq_true, if_false]
    rfl

/-- The sample is the result brought within 0 and the channel maximum, whichever bound is taken first. -/
theorem calibratedSample_eq (m : Nat) (cal : Calibration) (raw : RawWord) :
    calibratedSample m cal raw = (max 0 (min (calibratedResult cal raw) (m : Int))).toNat := by
  simp only [calibratedSample, clampInt]
  omega

theorem joinHistory_eq (h : List Nat) (v : Nat) :
    joinHistory h v = (if 8 ≤ h.length then h.drop 1 else h) ++ [v] := by
  unfold joinHistory Config.historyLength
  split <;> rfl

theorem sample_eq_sampledChannel (x : ChannelState) (m : Nat) (cal : Calibration) (raw : RawWord) :
    x.sample m cal raw = sampledChannel m cal raw x := by
  have hover : x.overRange.judge (overRangeCondition m cal raw) =
      faultAfter x.overRange ((m : Int) < calibratedResult cal raw) :=
    judge_eq_faultAfter _ (by simp [overRangeCondition])
  simp only [ChannelState.sample, hover, joinHistory_eq, calibratedSample_eq]
  rfl

/-! ## The seven conversions (R49) -/

/-- A conversion writes its channel and nothing else of the state. -/
theorem sampleChannel_st (e : Ev) (c : Channel) (raw : RawWord) :
    (e.sampleChannel c raw).st = setChannel e.st c
      ((channelGet e.st.meas.chans c).sample (channelMax c) (channelGet e.st.config.cals c) raw) := by
  simp only [Ev.sampleChannel, faultChange_st, Ev.mod_st]

@[simp] theorem sampleChannel_config (e : Ev) (c : Channel) (raw : RawWord) :
    (e.sampleChannel c raw).st.config = e.st.config :=
  sampleChannel_frame e c raw .config (by simp)

/-- Conversions of distinct channels sample each of them once, and leave the other channels alone. -/
theorem sampleChannels_get (raw : PerChannel RawWord) (l : List Channel) (hl : l.Nodup) (e : Ev) (c : Channel) :
    channelGet (l.foldl (fun acc d => acc.sampleChannel d (channelGet raw d)) e).st.meas.chans c =
      if c ∈ l then
        (channelGet e.st.meas.chans c).sample (channelMax c) (channelGet e.st.config.cals c) (channelGet raw c)
      else channelGet e.st.meas.chans c := by
  induction l generalizing e with
  | nil => simp
  | cons d rest ih =>
    obtain ⟨hd, hrest⟩ := List.nodup_cons.1 hl
    rw [List.foldl_cons, ih hrest, sampleChannel_config, sampleChannel_st]
    by_cases hc : c = d
    · subst hc
      simp [hd, setChannel]
    · simp [hc, setChannel, channelGet_set_ne _ _ hc]

theorem convert_get (e : Ev) (raw : PerChannel RawWord) (c : Channel) :
    channelGet (e.convert raw).st.meas.chans c =
      sampledChannel (channelMax c) (channelGet e.st.config.cals c) (channelGet raw c) (channelGet e.st.meas.chans c) := by
  have hc : c ∈ allChannels := by cases c <;> decide
  rw [← sample_eq_sampledChannel]
  exact (sampleChannels_get raw allChannels (by decide) e c).trans (if_pos hc)

/-- The conversions touch the channels alone of the measurement unit. -/
theorem convert_meas (e : Ev) (raw : PerChannel RawWord) :
    (e.convert raw).st.meas = { e.st.meas with chans := (e.convert raw).st.meas.chans } := by
  unfold Ev.convert
  induction allChannels generalizing e with
  | nil => rfl
  | cons c rest ih =>
    rw [List.foldl_cons, ih, sampleChannel_st]
    rfl

/-! ## The derived values (R56, R57) -/

theorem sampleExtension_st (e : Ev) :
    e.sampleExtension.st = { e.st with meas := { e.st.meas with
      extension := (channelValue e.st.meas .extA + channelValue e.st.meas .extB) / 2
      extDisagree := e.st.meas.extDisagree.judge (extDisagreeCondition e.st) } } := by
  simp only [Ev.sampleExtension, faultChange_st, Ev.mod_st]

theorem crossCheck_st (e : Ev) :
    e.crossCheck.st = { e.st with meas := { e.st.meas with
      loadDisagree := e.st.meas.loadDisagree.judge (loadDisagreeCondition e.st) } } := by
  simp only [Ev.crossCheck, faultChange_st, Ev.mod_st]

/-- The derived values are formed and judged after the conversions; they leave the channels alone. -/
theorem measure_chans (e : Ev) (raw : PerChannel RawWord) :
    (e.measure raw).st.meas.chans = (e.convert raw).st.meas.chans := by
  simp only [Ev.measure, crossCheck_st, sampleExtension_st]

theorem measure_extension (e : Ev) (raw : PerChannel RawWord) : (e.measure raw).st.meas.extension =
    (channelValue (e.measure raw).st.meas .extA + channelValue (e.measure raw).st.meas .extB) / 2 := by
  simp only [channelValue, measure_chans]
  simp only [Ev.measure, crossCheck_st, sampleExtension_st, channelValue]

/-- A sample set's measurement leaves the pulse and valve inputs alone. -/
theorem measure_inputs (e : Ev) (raw : PerChannel RawWord) :
    (e.measure raw).st.meas.paidOut = e.st.meas.paidOut ∧ (e.measure raw).st.meas.lines = e.st.meas.lines := by
  simp only [Ev.measure, crossCheck_st, sampleExtension_st]
  rw [convert_meas]
  exact ⟨rfl, rfl⟩

/-- The EXT_DISAGREE condition, as R56 words it. -/
theorem extDisagreeCondition_iff (s : State) : extDisagreeCondition s = true ↔
    faultPresent s.meas (.notReady .extA) = false ∧ faultPresent s.meas (.notReady .extB) = false ∧
      s.config.params.extDisagree <
        (channelValue s.meas .extA - channelValue s.meas .extB) +
          (channelValue s.meas .extB - channelValue s.meas .extA) := by
  simp only [extDisagreeCondition, Bool.and_eq_true, Bool.not_eq_true', decide_eq_true_eq, and_assoc]
  rfl

/-- The LOAD_DISAGREE condition with a session open, as R57 words it. -/
theorem loadDisagreeCondition_iff {s : State} {y : Session} (h : s.session = some y) :
    loadDisagreeCondition s = true ↔
      faultPresent s.meas (.notReady .load) = false ∧ faultPresent s.meas (.notReady .jackPress) = false ∧
        500 ≤ channelValue s.meas .load ∧
        s.config.params.loadTol * channelValue s.meas .load <
          ((channelValue s.meas .load - channelValue s.meas .jackPress * y.area / 10000) +
            (channelValue s.meas .jackPress * y.area / 10000 - channelValue s.meas .load)) * 1000 := by
  simp only [loadDisagreeCondition, h, Bool.and_eq_true, Bool.not_eq_true', decide_eq_true_eq, and_assoc]
  rfl

theorem loadDisagreeCondition_of_closed {s : State} (h : s.session = none) : loadDisagreeCondition s = false := by
  simp only [loadDisagreeCondition, h]

theorem channelValue_congr {m n : Meas} (h : n.chans = m.chans) (c : Channel) : channelValue n c = channelValue m c := by
  rw [channelValue, h, channelValue]

theorem notReady_congr {m n : Meas} (h : n.chans = m.chans) (c : Channel) :
    faultPresent n (.notReady c) = faultPresent m (.notReady c) := by
  rw [faultPresent, h, faultPresent]

/-- The EXT_DISAGREE condition depends on the channels and the configuration alone. -/
theorem extDisagreeCondition_congr {s t : State} (hm : t.meas.chans = s.meas.chans) (hc : t.config = s.config) :
    extDisagreeCondition t = extDisagreeCondition s := by
  simp only [extDisagreeCondition, notReady_congr hm, channelValue_congr hm, hc]

/-- The LOAD_DISAGREE condition depends on the channels, the configuration and the session alone. -/
theorem loadDisagreeCondition_congr {s t : State} (hm : t.meas.chans = s.meas.chans) (hc : t.config = s.config)
    (hs : t.session = s.session) : loadDisagreeCondition t = loadDisagreeCondition s := by
  simp only [loadDisagreeCondition, notReady_congr hm, channelValue_congr hm, hc, hs]

theorem measure_extDisagree (e : Ev) (raw : PerChannel RawWord) : (e.measure raw).st.meas.extDisagree =
    e.st.meas.extDisagree.judge (extDisagreeCondition (e.measure raw).st) := by
  have hold : (e.convert raw).st.meas.extDisagree = e.st.meas.extDisagree := by rw [convert_meas]
  rw [extDisagreeCondition_congr (s := (e.convert raw).st) (measure_chans e raw), ← hold] <;>
    simp only [Ev.measure, crossCheck_st, sampleExtension_st]

theorem measure_loadDisagree (e : Ev) (raw : PerChannel RawWord) : (e.measure raw).st.meas.loadDisagree =
    e.st.meas.loadDisagree.judge (loadDisagreeCondition (e.measure raw).st) := by
  have hold : (e.convert raw).sampleExtension.st.meas.loadDisagree = e.st.meas.loadDisagree := by
    rw [sampleExtension_st, convert_meas]
  rw [loadDisagreeCondition_congr (s := (e.convert raw).sampleExtension.st), ← hold] <;>
    simp only [Ev.measure, crossCheck_st]

/-! ## Faults are told (R55) -/

/-- Every fault whose presence two events in progress differ in is reported, as it stands in the second, among the
notices of the second. -/
def Ev.Reports (e f : Ev) : Prop :=
  e.Grows f ∧ ∀ x, faultPresent f.st.meas x ≠ faultPresent e.st.meas x →
    .sensorFault x (faultPresent f.st.meas x) ∈ f.notices

theorem Ev.Reports.of_meas {e f : Ev} (hg : e.Grows f) (hm : f.st.meas = e.st.meas) : e.Reports f :=
  ⟨hg, fun x hx => absurd (by rw [hm]) hx⟩

theorem Ev.Reports.trans {a b c : Ev} (h : a.Reports b) (g : b.Reports c) : a.Reports c := by
  refine ⟨h.1.trans g.1, fun x hx => ?_⟩
  by_cases hbc : faultPresent c.st.meas x = faultPresent b.st.meas x
  · rw [hbc] at hx ⊢
    exact g.1 _ (h.2 x hx)
  · exact g.2 x hbc

theorem reports_foldl {α : Type} (f : Ev → α → Ev) (hf : ∀ (e : Ev) a, e.Reports (f e a)) (l : List α) (e : Ev) :
    e.Reports (l.foldl f e) := by
  induction l generalizing e with
  | nil => exact .of_meas (.refl e) rfl
  | cons a rest ih => exact (hf e a).trans (ih _)

theorem sampleChannel_reports (e : Ev) (c : Channel) (raw : RawWord) : e.Reports (e.sampleChannel c raw) := by
  refine ⟨sampleChannel_grows e c raw, fun x hx => ?_⟩
  rw [sampleChannel_st] at hx ⊢
  have other : ∀ d, d ≠ c → ∀ y : ChannelState,
      channelGet (setChannel e.st c y).meas.chans d = channelGet e.st.meas.chans d :=
    fun d hd y => channelGet_set_ne _ _ hd
  cases x with
  | notReady d =>
    by_cases hd : d = c
    · subst hd
      simp only [faultPresent, setChannel, channelGet_set_self] at hx ⊢
      exact faultChange_grows _ _ _ _ _ (faultChange_raises _ _ (Ne.symm hx))
    · exact absurd (by simp only [faultPresent, other d hd]) hx
  | overRange d =>
    by_cases hd : d = c
    · subst hd
      simp only [faultPresent, setChannel, channelGet_set_self] at hx ⊢
      exact faultChange_raises _ _ (Ne.symm hx)
    · exact absurd (by simp only [faultPresent, other d hd]) hx
  | extDisagree => exact absurd rfl hx
  | loadDisagree => exact absurd rfl hx

theorem sampleExtension_reports (e : Ev) : e.Reports e.sampleExtension := by
  refine ⟨sampleExtension_grows e, fun x hx => ?_⟩
  rw [sampleExtension_st] at hx ⊢
  cases x with
  | extDisagree => exact faultChange_raises _ _ (Ne.symm hx)
  | notReady | overRange | loadDisagree => exact absurd rfl hx

theorem crossCheck_reports (e : Ev) : e.Reports e.crossCheck := by
  refine ⟨crossCheck_grows e, fun x hx => ?_⟩
  rw [crossCheck_st] at hx ⊢
  cases x with
  | loadDisagree => exact faultChange_raises _ _ (Ne.symm hx)
  | notReady | overRange | extDisagree => exact absurd rfl hx

theorem measure_reports (e : Ev) (raw : PerChannel RawWord) : e.Reports (e.measure raw) :=
  ((reports_foldl _ (fun acc c => sampleChannel_reports acc c (channelGet raw c)) allChannels e).trans
    (sampleExtension_reports _)).trans (crossCheck_reports _)

/-! ## The sample set (R49) -/

@[simp] theorem sampleSupply_meas (v : Nat) (s : State) : (sampleSupply v s).meas = s.meas :=
  sampleSupply_frame v s .meas (by simp)

@[simp] theorem sampleSupply_config (v : Nat) (s : State) : (sampleSupply v s).config = s.config :=
  sampleSupply_frame v s .config (by simp)

/-- After the measurement nothing in a sample set touches the measurement unit. -/
theorem sampleEvent_meas (x : SampleIn) (s : State) : (sampleEvent x s).st.meas = (measuredEvent x s).st.meas := by
  have hmon : OnlyChanges [.rig, .grout, .anchors] (measuredEvent x s).st (monitoredEvent x s).st :=
    (((judgeRig_frame _).mono (by simp)).step (judgeLine_frame _ .a) (by simp)).step (judgeLine_frame _ .b) (by simp)
  calc (sampleEvent x s).st.meas = (watchedEvent x s).judgeSession.st.meas := tick_frame _ .meas (by simp)
    _ = (watchedEvent x s).st.meas := judgeSession_frame _ .meas (by simp)
    _ = (monitoredEvent x s).st.meas := feedWatches_frame _ _ .meas (by simp)
    _ = (measuredEvent x s).st.meas := hmon .meas (by simp)

/-- A sample set counts a sample period of the works clock's second; its value and its mark stand. -/
theorem sampleEvent_clock (x : SampleIn) (s : State) :
    (sampleEvent x s).st.clock.time = s.clock.time ∧ (sampleEvent x s).st.clock.mark = s.clock.mark := by
  have hbefore : (watchedEvent x s).judgeSession.st.clock = s.clock :=
    (judgeSession_frame (watchedEvent x s) .clock (by simp)).trans (watchedEvent_frame x s .clock (by simp))
  have htick : ∀ u : State, (tickTime (tickClock u)).clock.time = u.clock.time ∧
      (tickTime (tickClock u)).clock.mark = u.clock.mark := by
    intro u
    unfold tickTime tickClock
    split_ifs <;> simp
  rw [← hbefore]
  exact htick _

/-- Every fault that a sample set raises or clears is among its notices. -/
theorem sampleEvent_reports (x : SampleIn) (s : State) : (Ev.of s).Reports (sampleEvent x s) := by
  have hsupply : (Ev.of s).Reports ((Ev.of s).mod (sampleSupply x.supply)) := .of_meas (.refl _) (by simp)
  have hafter : (measuredEvent x s).Reports (sampleEvent x s) :=
    .of_meas (((monitored_grows x s).trans (watched_grows x s)).trans (sample_grows x s)) (sampleEvent_meas x s)
  exact (hsupply.trans (measure_reports _ x.raw)).trans hafter

/-- Any notice raised in a sample set is told. -/
theorem sampleSet_tells {x : SampleIn} {s : State} {n : Notice} (hn : n ∈ (sampleEvent x s).notices) :
    Tells [n] s (commit (sampleEvent x s)) := by
  refine ⟨_, by simpa using hn, ?_⟩
  have hports : (sampleEvent x s).st.ports = s.ports := sampleEvent_frame x s .ports (by simp)
  have htold := commit_told (sampleEvent x s) s (sampleEvent_frame x s .permits (by simp))
  rwa [hports] at htold

/-- Settles O27: every clause but the notices speaks of the measurement unit, which stands at the end of the sample set as
the measurement left it; the notices come from `sampleEvent_reports`. -/
theorem sampleSetConvertsChannels : Obligations.SampleSetConvertsChannels := by
  intro x s
  have hmeas : (commit (sampleEvent x s)).meas = (measuredEvent x s).st.meas :=
    (commit_meas _).trans (sampleEvent_meas x s)
  have hsupply : ((Ev.of s).mod (sampleSupply x.supply)).st.meas = s.meas := sampleSupply_meas _ _
  have hconfig : (measuredEvent x s).st.config = s.config := measuredEvent_frame x s .config (by simp)
  have hsession : (measuredEvent x s).st.session = s.session := measuredEvent_frame x s .session (by simp)
  have hinputs := measure_inputs ((Ev.of s).mod (sampleSupply x.supply)) x.raw
  have hload : (measuredEvent x s).st.meas.loadDisagree =
      s.meas.loadDisagree.judge (loadDisagreeCondition (measuredEvent x s).st) := by
    rw [← hsupply]
    exact measure_loadDisagree _ x.raw
  rw [hsupply] at hinputs
  refine ⟨commit (sampleEvent x s), rfl, ?channels, ?extension, ?extDisagree, ?loadClosed, ?loadOpen, ?faults, ?paidOut,
    ?lines, ?time, ?mark, commit_exact _, commit_frame _ s _ (sampleEvent_frame x s)⟩
  case channels =>
    intro c
    rw [hmeas, measuredEvent, measure_chans, convert_get, hsupply, Ev.mod_st, sampleSupply_config, Ev.of_st]
  case extension =>
    rw [hmeas]
    exact measure_extension _ x.raw
  case extDisagree =>
    have hext := measure_extDisagree ((Ev.of s).mod (sampleSupply x.supply)) x.raw
    rw [hsupply] at hext
    rw [hmeas]
    exact hext.trans (judge_eq_faultAfter _ (by rw [extDisagreeCondition_iff, ← hconfig]; rfl))
  case loadClosed =>
    intro hnone
    rw [hmeas, hload, loadDisagreeCondition_of_closed (hsession.trans hnone)]
    exact judge_eq_faultAfter _ (by simp)
  case loadOpen =>
    intro y hy
    rw [hmeas, hload]
    exact judge_eq_faultAfter _ (by rw [loadDisagreeCondition_iff (hsession.trans hy), hconfig])
  case faults =>
    intro f hf
    rw [commit_meas] at hf ⊢
    exact sampleSet_tells ((sampleEvent_reports x s).2 f hf)
  case paidOut => exact (congrArg Meas.paidOut hmeas).trans hinputs.1
  case lines => exact (congrArg Meas.lines hmeas).trans hinputs.2
  case time => exact (congrArg ClockState.time (commit_clock _)).trans (sampleEvent_clock x s).1
  case mark => exact (congrArg ClockState.mark (commit_clock _)).trans (sampleEvent_clock x s).2

/-! ## Set Clock (R64) -/

/-- A request that its port may not make is turned away by the role check. -/
theorem take_wrongRole {k : ReqKind} {p : Port} {pl : List Byte} {s : State} (body : State → Reply)
    (h : canTake s p k.code pl = true) (hrole : k.allowed p = false) :
    ∃ t, take k p pl body s = .next t ∧
      TurnedAway k.code p .wrongRole (fun f => { f with wrongRole := true }) s t :=
  ⟨_, by simp only [take, takeEvent, h, if_true, decide_, hrole, Bool.false_eq_true, if_false, occurs],
    turnedAway_commit .wrongRole (fun f => { f with wrongRole := true }) (canTake_link h)⟩

theorem setClockReply_backward {pl : List Byte} {s : State} (h : fieldNat pl 0 4 < s.clock.time.getD s.clock.mark) :
    setClockReply pl s = refuse s .clockBackward := if_pos h

theorem setClockReply_forward {pl : List Byte} {s : State} (h : s.clock.time.getD s.clock.mark ≤ fieldNat pl 0 4) :
    setClockReply pl s =
      done ((Ev.of { s with clock :=
        { time := some (fieldNat pl 0 4), mark := s.clock.mark, ticks := 0, markSeconds := 0 } }).dirtied .mark) :=
  if_neg (Nat.not_lt.2 h)

/-- Settles O30: the bound of R64 is the clock's value, or the mark while it is UNSET, and the request splits on it. -/
theorem setClockMovesForwardOnly : Obligations.SetClockMovesForwardOnly := by
  refine ⟨fun p pl s hc hp => take_wrongRole _ hc (by simpa [ReqKind.allowed] using hp), fun p pl s h => ?_⟩
  intro bound
  have hbound : bound = (takeFrame s p).clock.time.getD (takeFrame s p).clock.mark := by
    simp only [bound, takeFrame_clock]
    cases s.clock.time <;> rfl
  refine ⟨fun hge => ⟨_, take_asked _ h, ?_⟩, fun hlt => ⟨_, take_asked _ h, ?_⟩⟩
  · have hr := setClockReply_forward (hbound ▸ hge)
    have hnone : (setClockReply pl (takeFrame s p)).ev.notices = [] := by rw [hr]; rfl
    refine ⟨?accepted, ?clock, putAnswer_watches (setClockReply_frame pl _ .watch (by simp))⟩
    case accepted =>
      rw [← hnone]
      exact accepted_body h (by rw [hr, done_body]) (by rw [hr]; rfl) (setClockReply_frame pl _) (by simp) (by simp)
        (by simp)
    case clock => rw [commit_clock, putAnswer_clock, hr, done_ev, Ev.dirtied_st, Ev.of_st, takeFrame_clock]
  · rw [setClockReply_backward (hbound ▸ hlt)]
    exact refused_body _ h

/-! ## The winch encoder (R60) -/

/-- Tendon Start is refused by one of its eight checks (R71) with nothing changed, or opens its run. -/
theorem tendonStartReply_cases (pl : List Byte) (s : State) :
    (∃ c, tendonStartReply pl s = refuse s c) ∨
      ∃ r g now, tendonStartReply pl s = done (tendonStartEvent s r g now) := by
  unfold tendonStartReply
  iterate 8
    split
    · exact .inl ⟨_, rfl⟩
  exact .inr ⟨_, _, _, rfl⟩

/-- The run that Tendon Start opens begins with nothing paid out. -/
theorem tendonStartEvent_paidOut (s : State) (r : AnchorRec) (g : Geometry) (now : Nat) :
    (tendonStartEvent s r g now).st.meas.paidOut = 0 :=
  congrArg Meas.paidOut (changeStage_frame _ r { r with stage := .tendonRunning } .meas (by simp))

theorem resetAs_paidOut (k : ResetKind) (s : State) : (resetAs k s).meas.paidOut = 0 := by
  rw [resetAs, joinItems_meas]
  rfl

/-- A Restart reset that occurs is a reset; otherwise it leaves a drain going on. -/
theorem restartReset_cases (s : State) :
    exec .restartReset s = .next (resetAs .restart s) ∨ exec .restartReset s = .next s := by
  by_cases h : drained s = true
  · exact .inl (congrArg Host.Outcome.next (if_pos h))
  · exact .inr (congrArg Host.Outcome.next (if_neg h))

/-- Settles O31: one clause each for the two directions of a step, the resets, Read Status and Tendon Start. -/
theorem winchEncoderCountsTendon : Obligations.WinchEncoderCountsTendon := by
  refine ⟨fun s => ?payOut, fun s => ?haulIn, fun s t h => ?reset, fun s => ⟨_, _, _, _, _, _, _, rfl⟩,
    fun p pl s t hasked h hidle hopen => ?start⟩
  case payOut =>
    have hstep : paidOutAfter .payOut s.meas.paidOut = if s.meas.paidOut < 80000 then s.meas.paidOut + 1 else 80000 := by
      simp only [paidOutAfter, Config.maxPaidOut]
      split <;> omega
    rw [← hstep]
    rfl
  case haulIn =>
    have hstep : paidOutAfter .haulIn s.meas.paidOut = if s.meas.paidOut = 0 then 0 else s.meas.paidOut - 1 := by
      simp only [paidOutAfter]
      split <;> omega
    rw [← hstep]
    rfl
  case reset =>
    obtain hpower | hline | ⟨hrestart, hbefore, hafter⟩ := h
    · cases hpower
      exact resetAs_paidOut .powerOn s
    · cases hline
      exact resetAs_paidOut .resetLine s
    · obtain hcase | hcase := restartReset_cases s
      · cases hcase.symm.trans hrestart
        exact resetAs_paidOut .restart s
      · cases hcase.symm.trans hrestart
        exact absurd (hbefore.symm.trans hafter) (by decide)
  case start =>
    cases (take_asked (tendonStartReply pl) hasked).symm.trans h
    obtain ⟨c, hr⟩ | ⟨r, g, now, hr⟩ := tendonStartReply_cases pl (takeFrame s p)
    · rw [hr] at hopen
      exact absurd (by simpa using hidle) hopen
    · rw [hr, commit_meas, putAnswer_meas]
      exact tendonStartEvent_paidOut _ r g now

end Sys2Proof.Machine
end

section
/-! SUPPORT. The port units (chapter 11): how a received frame is sorted, what a quiet event leaves of the lines and the
ports, and the two statements of the chapter settled here. -/

namespace Sys2Proof.Machine

/-! ## Received frames (R193) -/

theorem PerPort.set_get {α : Type} (x : PerPort α) (p : Port) : x.set p (x.get p) = x := by
  cases p <;> rfl

theorem exec_frameReceived (p : Port) (f : RxFrame) (s : State) : exec (.frameReceived p f) s =
    .next { s with ports := s.ports.set p (receiveFrame f (s.ports.get p)) } := rfl

/-- A port on the bus sorts what it receives. -/
theorem frameReceived_onBus {p : Port} {s : State} (f : RxFrame) (h : (s.ports.get p).link = .onBus) :
    exec (.frameReceived p f) s = .next { s with ports := s.ports.set p (sortFrame f (s.ports.get p)) } := by
  rw [exec_frameReceived, receiveFrame, if_pos h]

/-- A port off the bus receives nothing (R192). -/
theorem frameReceived_offBus {p : Port} {s : State} (f : RxFrame) (h : (s.ports.get p).link ≠ .onBus) :
    exec (.frameReceived p f) s = .next s := by
  rw [exec_frameReceived, receiveFrame, if_neg h, PerPort.set_get]

theorem sortFrame_request {f : RxFrame} {q : PortState} (hdata : ¬ (f.extended = true ∨ f.remote = true))
    (hcls : f.cls = 1) (hroom : q.inbound.length < 4) :
    sortFrame f q = { q with inbound := q.inbound ++ [{ kind := f.kind, payload := f.payload }] } := by
  rw [sortFrame, if_neg hdata, if_pos hcls]
  exact if_pos hroom

theorem sortFrame_overrun {f : RxFrame} {q : PortState} (hdata : ¬ (f.extended = true ∨ f.remote = true))
    (hcls : f.cls = 1) (hfull : 4 ≤ q.inbound.length) :
    sortFrame f q = { q with flags := { q.flags with overrun := true } } := by
  rw [sortFrame, if_neg hdata, if_pos hcls]
  exact if_neg (Nat.not_lt.2 hfull)

theorem sortFrame_unsolicited {f : RxFrame} {q : PortState} (hdata : ¬ (f.extended = true ∨ f.remote = true))
    (hcls : f.cls = 2 ∨ f.cls = 3 ∨ f.cls = 4) :
    sortFrame f q = { q with flags := { q.flags with unsolicited := true } } := by
  have hreq : f.cls ≠ 1 := by
    revert hcls
    generalize f.cls = c
    revert c
    decide
  rw [sortFrame, if_neg hdata, if_neg hreq, if_pos hcls]

/-- A 29-bit identifier and a remote frame are malformed whatever the class; a data frame by an undefined class. -/
theorem sortFrame_malformed {f : RxFrame} {q : PortState}
    (hf : f.extended = true ∨ f.remote = true ∨ f.cls = 0 ∨ f.cls = 5 ∨ f.cls = 6 ∨ f.cls = 7) :
    sortFrame f q = { q with flags := { q.flags with malformed := true } } := by
  by_cases hdata : f.extended = true ∨ f.remote = true
  · exact if_pos hdata
  · have hcls : f.cls = 0 ∨ f.cls = 5 ∨ f.cls = 6 ∨ f.cls = 7 := by tauto
    have hundefined : f.cls ≠ 1 ∧ ¬ (f.cls = 2 ∨ f.cls = 3 ∨ f.cls = 4) := by
      revert hcls
      generalize f.cls = c
      revert c
      decide
    rw [sortFrame, if_neg hdata, if_neg hundefined.1, if_neg hundefined.2]

/-- Settles O13: the rows of the table of R193 on the bus, and the port off the bus. -/
theorem receivedFramesAreSorted : Obligations.ReceivedFramesAreSorted := by
  refine fun p f s => ⟨fun hon => ?onBus, frameReceived_offBus f⟩
  rw [frameReceived_onBus f hon]
  have hdata : f.extended = false → f.remote = false → ¬ (f.extended = true ∨ f.remote = true) := by simp_all
  refine ⟨fun hx hr hc hroom => ?request, fun hx hr hc hfull => ?overrun, fun hx hr hc => ?unsolicited,
    fun hf => ?malformed⟩
  case request => rw [sortFrame_request (hdata hx hr) hc hroom]
  case overrun => rw [sortFrame_overrun (hdata hx hr) hc hfull]
  case unsolicited => rw [sortFrame_unsolicited (hdata hx hr) hc]
  case malformed => rw [sortFrame_malformed hf]

/-! ## The ports through a taking (R194, R196) -/

theorem PerPort.get_set {α : Type} (x : PerPort α) (p : Port) (v : α) (r : Port) :
    (x.set p v).get r = if r = p then v else x.get r := by
  split
  · subst r; exact x.get_set_self p v
  · exact x.get_set_ne v ‹_›

theorem takeFrame_get (s : State) (p r : Port) :
    (takeFrame s p).ports.get r =
      if r = p then
        { s.ports.get r with inbound := (s.ports.get r).inbound.drop 1, inHand := (s.ports.get r).inbound.head? }
      else s.ports.get r := by
  rw [takeFrame, PerPort.get_set]
  split
  · subst r; rfl
  · rfl

@[simp] theorem takeFrame_flags (s : State) (p r : Port) :
    ((takeFrame s p).ports.get r).flags = (s.ports.get r).flags := by
  rw [takeFrame_get]
  split <;> rfl

theorem setFlags_get (s : State) (q : Port) (f : PortFlags → PortFlags) (r : Port) :
    (setFlags s q f).ports.get r =
      { s.ports.get r with flags := if r = q then f (s.ports.get r).flags else (s.ports.get r).flags } := by
  rw [setFlags, PerPort.get_set]
  split
  · subst r; rfl
  · rfl

theorem putAnswer_get (k : Byte) (p : Port) (x : Reply) (r : Port) :
    (putAnswer k p x).st.ports.get r =
      if r = p then { x.ev.st.ports.get r with slot := answerFrames k x.body } else x.ev.st.ports.get r := by
  rw [putAnswer, Ev.mod_st, PerPort.get_set]
  split
  · subst r; rfl
  · rfl

/-! ## Quiet events: no line changes (R176, R177) -/

theorem PerPermit.ext_get {α : Type} {x y : PerPermit α} (h : ∀ l, x.get l = y.get l) : x = y := by
  obtain ⟨xrig, xgroutA, xgroutB, xjack⟩ := x
  obtain ⟨yrig, ygroutA, ygroutB, yjack⟩ := y
  have hrig : xrig = yrig := h .rig
  have hgroutA : xgroutA = ygroutA := h .groutA
  have hgroutB : xgroutB = ygroutB := h .groutB
  have hjack : xjack = yjack := h .jack
  subst hrig hgroutA hgroutB hjack
  rfl

/-- Of the ports, the lines look at the links alone. -/
theorem lineUp_of_ports {s t : State} (hst : OnlyChanges [.ports] s t)
    (hlink : ∀ r, (t.ports.get r).link = (s.ports.get r).link) (l : PLine) : lineUp t l = lineUp s l := by
  have hwatch : t.watch = s.watch := hst .watch (by simp)
  have hsupply : t.supply = s.supply := hst .supply (by simp)
  have hcauses : lineCauses t l = lineCauses s l :=
    lineCauses_congr s t (hst .rig (by simp)) (hst .grout (by simp)) (hst .session (by simp)) (hst .sections (by simp))
      (hst .config (by simp)) (hst .meas (by simp)) (by rw [hsupply]) hlink (fun w => by rw [hwatch]) l
  rw [lineUp, lineUp, hcauses]

/-- An event that touches the ports but no link leaves exact lines as they stand. -/
theorem commit_permits_same {e : Ev} {s : State} (hs : PermitsExact s) (he : OnlyChanges [.ports] s e.st)
    (hlink : ∀ r, (e.st.ports.get r).link = (s.ports.get r).link) : (commit e).permits = s.permits :=
  PerPermit.ext_get fun l => by rw [commit_permits, lineUp_of_ports he hlink, hs l]

/-- An event that raises nothing and moves no line tells the ports nothing: they only begin their next frames. -/
theorem Told.quiet {base : Port → PortState} {s t : State} (h : Told base [] s t) (hp : t.permits = s.permits)
    (r : Port) : t.ports.get r = pump (base r) := by
  have hnone : permitChanges s t = [] := by simp [permitChanges, hp]
  have hr := h r
  rwa [hnone] at hr

/-! ## Beginning a frame (R197) -/

@[simp] theorem pump_flags (q : PortState) : (pump q).flags = q.flags := by
  unfold pump
  split
  · split <;> rfl
  · rfl

/-- No notice leaves its queue while an answer frame waits in the slot. -/
theorem pump_notices_of_slot {q : PortState} {f : AnswerFrame} {rest : List AnswerFrame} (h : q.slot = f :: rest) :
    (pump q).notices = q.notices := by
  unfold pump
  rw [h]
  split <;> rfl

/-! ## Clear Port Flags (R201) -/

theorem portOfCode_eq_none {n : Nat} (h : 4 < n) : portOfCode n = none := by
  obtain ⟨m, rfl⟩ := Nat.exists_eq_add_of_lt h
  rw [show 4 + m + 1 = m + 5 by omega]
  rfl

theorem namedPort_eq_none {p : Port} {pl : List Byte} (h : 4 < fieldNat pl 0 1) : namedPort p pl = none := by
  rw [namedPort, if_neg (by omega), portOfCode_eq_none h]

theorem clearPortFlagsReply_unnamed {p : Port} {pl : List Byte} {s : State} (h : namedPort p pl = none) :
    clearPortFlagsReply p pl s = refuse s .badValue := by
  rw [clearPortFlagsReply, h]

theorem clearPortFlagsReply_foreign {p q : Port} {pl : List Byte} {s : State} (h : namedPort p pl = some q)
    (hp : p ≠ .p4) (hq : q ≠ p) :
    clearPortFlagsReply p pl s = refuse (setFlags s p fun f => { f with wrongRole := true }) .wrongRole := by
  rw [clearPortFlagsReply, h]
  exact if_pos ⟨hp, hq⟩

theorem clearPortFlagsReply_accepted {p q : Port} {pl : List Byte} {s : State} (h : namedPort p pl = some q)
    (hq : p = .p4 ∨ q = p) :
    clearPortFlagsReply p pl s =
      doneWith (Ev.of (setFlags s q fun _ => PortFlags.clear)) (.flags (s.ports.get q).flags) := by
  rw [clearPortFlagsReply, h]
  exact if_neg (by tauto)

/-- The answer of an accepted Clear Port Flags: the flags of the named port as they stood. -/
def clearedAnswer (q : Port) (s : State) : List AnswerFrame :=
  [.single ReqKind.clearPortFlags.code .done (.flags (s.ports.get q).flags)]

/-- The ports as an accepted Clear Port Flags leaves them before free ports begin a frame. -/
def clearedPorts (p q : Port) (s : State) (r : Port) : PortState :=
  { tookRequest p (clearedAnswer q s) s r with
    flags := if r = q then PortFlags.clear else (s.ports.get r).flags }

theorem clearedPorts_other {p q r : Port} (s : State) (hr : r ≠ p) :
    clearedPorts p q s r =
      { s.ports.get r with flags := if r = q then PortFlags.clear else (s.ports.get r).flags } := by
  simp [clearedPorts, tookRequest, hr]

theorem clearedPorts_link (p q : Port) (s : State) (r : Port) :
    (clearedPorts p q s r).link = (s.ports.get r).link := by
  by_cases hr : r = p <;> simp [clearedPorts, tookRequest, hr]

/-- An accepted Clear Port Flags, decided after its frame is taken. -/
def clearedReply (p q : Port) (s : State) : Reply :=
  doneWith (Ev.of (setFlags (takeFrame s p) q fun _ => PortFlags.clear)) (.flags (s.ports.get q).flags)

/-- The event of an accepted Clear Port Flags. -/
def clearedEvent (p q : Port) (s : State) : Ev := putAnswer ReqKind.clearPortFlags.code p (clearedReply p q s)

theorem clearedEvent_ports (p q : Port) (s : State) (r : Port) :
    (clearedEvent p q s).st.ports.get r = clearedPorts p q s r := by
  have hreply : (clearedReply p q s).ev.st.ports.get r =
      { (takeFrame s p).ports.get r with flags := if r = q then PortFlags.clear else (s.ports.get r).flags } := by
    rw [← takeFrame_flags s p r]
    exact setFlags_get (takeFrame s p) q _ r
  rw [clearedEvent, putAnswer_get, hreply, takeFrame_get, clearedPorts, tookRequest]
  split
  · subst r; rfl
  · rfl

theorem clearedEvent_frame (p q : Port) (s : State) : OnlyChanges [.ports] s (clearedEvent p q s).st := by
  intro x hx
  cases x <;> simp_all [SamePart, clearedEvent, clearedReply, putAnswer, setFlags]

theorem exec_clearPortFlags_accepted {p q : Port} {pl : List Byte} {s : State} (h : Asked .clearPortFlags p pl s)
    (hname : namedPort p pl = some q) (hq : p = .p4 ∨ q = p) :
    exec (.clearPortFlags p pl) s = .next (commit (clearedEvent p q s)) := by
  have hreply := clearPortFlagsReply_accepted (s := takeFrame s p) hname hq
  rw [takeFrame_flags] at hreply
  calc exec (.clearPortFlags p pl) s
      = .next (commit (putAnswer ReqKind.clearPortFlags.code p (clearPortFlagsReply p pl (takeFrame s p)))) :=
        take_asked _ h
    _ = .next (commit (clearedEvent p q s)) := by rw [hreply, clearedEvent, clearedReply]

theorem clearedEvent_permits {p q : Port} {s : State} (hs : PermitsExact s) :
    (commit (clearedEvent p q s)).permits = s.permits :=
  commit_permits_same hs (clearedEvent_frame p q s) fun r => by rw [clearedEvent_ports, clearedPorts_link]

/-- The lines stand, so nothing is told and the cleared flags stay cleared (log 31). -/
theorem clearedEvent_commit_ports {p q : Port} {s : State} (hs : PermitsExact s) (r : Port) :
    (commit (clearedEvent p q s)).ports.get r = pump (clearedPorts p q s r) := by
  have htold : Told (fun r => (clearedEvent p q s).st.ports.get r) [] s (commit (clearedEvent p q s)) :=
    commit_told (clearedEvent p q s) s (clearedEvent_frame p q s .permits (by simp))
  rw [htold.quiet (clearedEvent_permits hs), clearedEvent_ports]

/-- Settles O12: the accepted request ends in `clearedPorts` with free ports begun; its refusals are those of every
request. -/
theorem clearPortFlagsClearsOnePort : Obligations.ClearPortFlagsClearsOnePort := by
  refine fun p pl s h hs => ⟨fun q hname hq => ⟨_, exec_clearPortFlags_accepted h hname hq, ?accepted⟩,
    fun hbig => ⟨_, take_asked _ h, ?badValue⟩, fun q hname hp hq => ⟨_, take_asked _ h, ?wrongRole⟩⟩
  case badValue =>
    rw [clearPortFlagsReply_unnamed (namedPort_eq_none hbig)]
    exact refused_body _ h
  case wrongRole =>
    rw [clearPortFlagsReply_foreign hname hp hq]
    exact turnedAway_commit _ _ (canTake_link h.1)
  case accepted =>
    have hports := clearedEvent_commit_ports (p := p) (q := q) hs
    have hown : clearedPorts p q s p = { s.ports.get p with
        inbound := (s.ports.get p).inbound.drop 1, inHand := (s.ports.get p).inbound.head?, slot := clearedAnswer q s
        flags := if p = q then PortFlags.clear else (s.ports.get p).flags } := by
      simp [clearedPorts, tookRequest]
    obtain ⟨⟨hlink, hinbound, hhand, htaking⟩, -⟩ := pump_keeps (clearedPorts p q s p)
    rw [← hports, hown] at hlink hinbound hhand htaking
    refine ⟨?answers, ?cleared, fun r hr => ?flags, hhand, hinbound, ?notices, hlink, htaking, fun r hr => ?others,
      fun r hrp hrq => ?pumped, clearedEvent_permits hs, ?items, commit_exact _,
      putAnswer_watches (by simp [clearedReply]), (commit_frame _ s _ (clearedEvent_frame p q s)).mono (by simp)⟩
    case answers =>
      rw [hports, hown]
      exact pump_answers _ _ _ _ [] rfl (canTake_link h.1) rfl rfl
    case cleared => simp [hports, clearedPorts]
    case flags => simp [hports, clearedPorts, hr]
    case notices =>
      rw [hports, hown]
      exact pump_notices_of_slot (f := .single _ _ _) (rest := []) rfl
    case others =>
      have hkeep := (pump_keeps (clearedPorts p q s r)).1
      rw [← hports, clearedPorts_other s hr] at hkeep
      exact hkeep
    case pumped => rw [hports, clearedPorts_other s hrp, if_neg hrq]
    case items => exact putAnswer_dirties (r := clearedReply p q s) rfl

end Sys2Proof.Machine
end

section
/-! SUPPORT. What one step can do, said once: the decision of every request kind under one name, the events that are no
requests, and the inversion of a step that every invariant below goes through. -/

namespace Sys2Proof.Machine

/-! ## The decision of a request (R194) -/

/-- How the owning block decides a request of a kind. -/
def reqReply (k : ReqKind) (p : Port) (pl : List Byte) : State → Reply :=
  match k with
  | .identify => identifyReply
  | .readStatus => readStatusReply pl
  | .readAnchor => readAnchorReply pl
  | .readSection => readSectionReply pl
  | .readSession => readSessionReply
  | .clearPortFlags => clearPortFlagsReply p pl
  | .tendonStart => tendonStartReply pl
  | .tendonDone => tendonDoneReply pl
  | .tendonWithdraw => tendonWithdrawReply pl
  | .injectStart => injectStartReply pl
  | .injectEnd => injectEndReply pl
  | .stressOpen => stressOpenReply pl
  | .advance => advanceReply
  | .release => releaseReply
  | .stressAbort => interruptReply .abort
  | .defineAnchor => defineAnchorReply pl
  | .setAnchorGeometry => setAnchorGeometryReply pl
  | .deleteAnchor => deleteAnchorReply pl
  | .abandonAnchor => abandonAnchorReply pl
  | .retestAnchor => retestAnchorReply pl
  | .settleAnchor => settleAnchorReply pl
  | .setHold => setHoldReply pl
  | .releaseHold => releaseHoldReply pl
  | .openZone => setZoneReply true pl
  | .closeZone => setZoneReply false pl
  | .reportDeflection => reportDeflectionReply pl
  | .setSection => setSectionReply pl
  | .setClock => setClockReply pl
  | .setParameter => setParameterReply pl
  | .setCalibration => setCalibrationReply pl
  | .writeStep => writeStepReply pl
  | .setScheduleHead => setScheduleHeadReply pl
  | .watchConfigure => watchConfigureReply pl
  | .watchThreshold => watchThresholdReply pl
  | .watchEnable => watchEnableReply pl
  | .watchDisable => watchDisableReply pl
  | .watchRearm => watchRearmReply pl
  | .stopSession => interruptReply .stop
  | .restart => restartReply

theorem exec_requestOf (k : ReqKind) (p : Port) (pl : List Byte) (s : State) :
    exec (requestOf k p pl) s = take k p pl (reqReply k p pl) s := by
  cases k <;> rfl

/-- What the decision of a request touches: Restart and Clear Port Flags alone touch the ports, and Restart the record
store. -/
def replyParts : ReqKind → List Part
  | .restart => [.ports, .recorder]
  | .clearPortFlags => [.ports]
  | k => reqTouches k

theorem readStatusReply_frame (pl : List Byte) (s : State) : OnlyChanges [.freeIdx] s (readStatusReply pl s).ev.st := by
  unfold readStatusReply
  split_ifs
  · exact OnlyChanges.refl _ s
  · exact readReply_frame _ _
  · exact readReply_frame _ _

theorem readAnchorReply_frame (pl : List Byte) (s : State) : OnlyChanges [.freeIdx] s (readAnchorReply pl s).ev.st := by
  unfold readAnchorReply
  split
  · exact OnlyChanges.refl _ s
  · exact readReply_frame _ _

theorem readSectionReply_frame (pl : List Byte) (s : State) :
    OnlyChanges [.freeIdx] s (readSectionReply pl s).ev.st := by
  unfold readSectionReply
  split
  · exact readReply_frame _ _
  · exact OnlyChanges.refl _ s

theorem readSessionReply_frame (s : State) : OnlyChanges [.freeIdx] s (readSessionReply s).ev.st := by
  unfold readSessionReply
  split
  · exact OnlyChanges.refl _ s
  · exact readReply_frame _ _

theorem reqReply_frame (k : ReqKind) (p : Port) (pl : List Byte) (s : State) :
    OnlyChanges (replyParts k) s (reqReply k p pl s).ev.st := by
  cases k
  case identify => exact OnlyChanges.refl _ s
  case readStatus => exact readStatusReply_frame pl s
  case readAnchor => exact readAnchorReply_frame pl s
  case readSection => exact readSectionReply_frame pl s
  case readSession => exact readSessionReply_frame s
  case clearPortFlags => exact clearPortFlagsReply_frame p pl s
  case tendonStart => exact tendonStartReply_frame pl s
  case tendonDone => exact tendonDoneReply_frame pl s
  case tendonWithdraw => exact tendonWithdrawReply_frame pl s
  case injectStart => exact injectStartReply_frame pl s
  case injectEnd => exact injectEndReply_frame pl s
  case stressOpen => exact stressOpenReply_frame pl s
  case advance => exact advanceReply_frame s
  case release => exact releaseReply_frame s
  case stressAbort => exact interruptReply_frame .abort s
  case stopSession => exact interruptReply_frame .stop s
  case defineAnchor => exact defineAnchorReply_frame pl s
  case setAnchorGeometry => exact setAnchorGeometryReply_frame pl s
  case deleteAnchor => exact deleteAnchorReply_frame pl s
  case abandonAnchor => exact abandonAnchorReply_frame pl s
  case retestAnchor => exact retestAnchorReply_frame pl s
  case settleAnchor => exact settleAnchorReply_frame pl s
  case setHold => exact setHoldReply_frame pl s
  case releaseHold => exact releaseHoldReply_frame pl s
  case openZone => exact setZoneReply_frame true pl s
  case closeZone => exact setZoneReply_frame false pl s
  case reportDeflection => exact reportDeflectionReply_frame pl s
  case setSection => exact setSectionReply_frame pl s
  case setClock => exact setClockReply_frame pl s
  case setParameter => exact setParameterReply_frame pl s
  case setCalibration => exact setCalibrationReply_frame pl s
  case writeStep => exact writeStepReply_frame pl s
  case setScheduleHead => exact setScheduleHeadReply_frame pl s
  case watchConfigure => exact watchConfigureReply_frame pl s
  case watchThreshold => exact watchThresholdReply_frame pl s
  case watchEnable => exact watchEnableReply_frame pl s
  case watchDisable => exact watchDisableReply_frame pl s
  case watchRearm => exact watchRearmReply_frame pl s
  case restart => exact restartReply_frame s

/-! ## The events -/

/-- The events that are no taking of a request of the kind table. -/
inductive OwnEvent (s : State) : Ev → Prop
  | unknown {p kind pl e} (h : unknownEvent p kind pl s = some e) : OwnEvent s e
  | sample (x : SampleIn) : OwnEvent s (sampleEvent x s)
  | flow {e} (h : flowRateEvent s = some e) : OwnEvent s e
  | rise {e} (h : riseEvent s = some e) : OwnEvent s e
  | lapse {e} (h : chainLapseEvent s = some e) : OwnEvent s e
  | refresh {l e} (h : refreshEvent l s = some e) : OwnEvent s e
  | clockMark {e} (h : clockMarkEvent s = some e) : OwnEvent s e
  | cure {e} (h : cureExpiryEvent s = some e) : OwnEvent s e
  | warning (h : s.supply.warning = false) : OwnEvent s (Ev.of (raiseWarning s))
  | busOff {p e} (h : busOffEvent p s = some e) : OwnEvent s e
  | rejoin {p e} (h : rejoinEvent p s = some e) : OwnEvent s e
  | causeWritten {e} (h : causeWrittenEvent s = some e) : OwnEvent s e

/-! ## What the events touch -/

theorem setPorts_frame (s : State) (x : PerPort PortState) : OnlyChanges [.ports] s { s with ports := x } := by
  intro y hy
  cases y <;> simp_all [SamePart]

theorem unknownEvent_frame {p : Port} {kind : Byte} {pl : List Byte} {s : State} {e : Ev}
    (h : unknownEvent p kind pl s = some e) : OnlyChanges [.ports] s e.st := by
  unfold unknownEvent at h
  split_ifs at h
  cases h
  intro x hx
  cases x <;> simp_all [SamePart, putAnswer, setFlags, takeFrame]

theorem busOffEvent_frame {p : Port} {s : State} {e : Ev} (h : busOffEvent p s = some e) :
    OnlyChanges [.ports] s e.st := by
  unfold busOffEvent at h
  split_ifs at h
  cases h
  exact setPorts_frame s _

theorem rejoinEvent_frame {p : Port} {s : State} {e : Ev} (h : rejoinEvent p s = some e) :
    OnlyChanges [.ports] s e.st := by
  unfold rejoinEvent at h
  split_ifs at h
  cases h
  exact setPorts_frame s _

theorem causeWrittenEvent_frame {s : State} {e : Ev} (h : causeWrittenEvent s = some e) :
    OnlyChanges [.store, .recorder, .ports] s e.st := by
  unfold causeWrittenEvent at h
  split_ifs at h
  cases h
  intro x hx
  cases x <;> simp_all [SamePart, writeCause]

theorem clockMarkEvent_frame (s : State) (e : Ev) (h : clockMarkEvent s = some e) : OnlyChanges [.clock] s e.st := by
  unfold clockMarkEvent at h
  split_ifs at h
  cases h
  intro x hx
  cases x <;> simp_all [SamePart]

/-- What a command that is no reset does: nothing, the taking of a request, an event of the part, or one of the small
changes that end without a commit. -/
inductive Effect (s : State) : State → Prop
  | nothing : Effect s s
  | request {k p pl} (h : canTake s p k.code pl = true) :
      Effect s (commit (putAnswer k.code p (decide_ k p pl (reqReply k p pl) (takeFrame s p))))
  | event {e} (h : OwnEvent s e) : Effect s (commit e)
  | received (p : Port) (f : RxFrame) : Effect s { s with ports := s.ports.set p (receiveFrame f (s.ports.get p)) }
  | sent (p : Port) : Effect s { s with ports := s.ports.set p (finishFrame (s.ports.get p)) }
  | stale (n : Nat) : Effect s (setSection s n { sectionRec s n with stale := true })
  | second {now : Nat} (h : s.clock.time = some now) : Effect s { s with clock := s.clock.second now }
  | winch (d : WinchDir) : Effect s { s with meas := { s.meas with paidOut := paidOutAfter d s.meas.paidOut } }
  | pulse (l : GLine) : Effect s (setLineMeas s l (s.meas.lines.get l).pulse)
  | valve (l : GLine) (b : Bool) : Effect s (setLineMeas s l { s.meas.lines.get l with valve := b })
  | writeBegun (i : Item) : Effect s (beginWrite s i)
  | writeDone {j noted} (h : s.recorder.writer = .writing j noted) :
      Effect s { s with store := storeJob s.store j, recorder := completeRecorder s.recorder j noted s.supply.warning }
  | marked : Effect s { s with store := markCause s.store
                               recorder := { s.recorder with writer := writerAfter false s.supply.warning } }

theorem Effect.of_take {k : ReqKind} {p : Port} {pl : List Byte} {s t : State}
    (h : occurs (takeEvent k p pl (reqReply k p pl) s) s = .next t) : Effect s t := by
  unfold takeEvent at h
  split at h
  · cases h; exact .request ‹_›
  · cases h; exact .nothing

theorem Effect.of_request {k : ReqKind} {p : Port} {pl : List Byte} {s t : State}
    (h : exec (requestOf k p pl) s = .next t) : Effect s t := by
  rw [exec_requestOf] at h
  exact .of_take h

theorem Effect.of_occurs {o : Option Ev} {s t : State} (ho : ∀ e, o = some e → OwnEvent s e)
    (h : occurs o s = .next t) : Effect s t := by
  cases o with
  | none => cases h; exact .nothing
  | some e => cases h; exact .event (ho e rfl)

theorem Effect.of_sampleIn {x : SampleIn} {f : Ev → Bool} {s t : State}
    (h : occurs (sampleIn x s f) s = .next t) : Effect s t := by
  refine .of_occurs (fun e he => ?_) h
  unfold sampleIn at he
  split at he
  · cases he; exact .sample x
  · cases he

/-- A trip is the event of its trigger. -/
theorem Effect.of_trip {w : WatchId} {b : Bool} {g : Trigger} {s t : State}
    (h : occurs (tripIn w b g s) s = .next t) : Effect s t := by
  have hcases : tripIn w b g s = none ∨ tripIn w b g s = triggerEvent g s := by
    unfold tripIn
    split
    · exact .inl rfl
    · split
      · exact .inr (Eq.symm ‹_›)
      · exact .inl rfl
  obtain hnone | htrigger := hcases
  · rw [hnone] at h
    cases h; exact .nothing
  · rw [htrigger] at h
    cases g with
    | sample x => cases h; exact .event (.sample x)
    | flowRate => exact .of_occurs (fun _ => .flow) h
    | report p pl => exact .of_take (k := .reportDeflection) h
    | rise => exact .of_occurs (fun _ => .rise) h

theorem Effect.of_choice {c : Prop} [Decidable c] {s u t : State} (hu : Effect s u)
    (h : (Host.Outcome.next (if c then u else s) : Host.Outcome State Fault Refusal) = .next t) : Effect s t := by
  cases h
  split
  · exact hu
  · exact .nothing

/-- The inversion of a command: the effect of one that is no reset. -/
theorem exec_effect {c : Instr} {s t : State} (hc : ¬ IsReset c) (h : exec c s = .next t) : Effect s t := by
  cases c
  case identify p pl => exact .of_request (k := .identify) h
  case readStatus p pl => exact .of_request (k := .readStatus) h
  case readAnchor p pl => exact .of_request (k := .readAnchor) h
  case readSection p pl => exact .of_request (k := .readSection) h
  case readSession p pl => exact .of_request (k := .readSession) h
  case clearPortFlags p pl => exact .of_request (k := .clearPortFlags) h
  case unknownRequestTaken p kind pl => exact .of_occurs (fun _ => .unknown) h
  case tendonStart p pl => exact .of_request (k := .tendonStart) h
  case tendonDone p pl => exact .of_request (k := .tendonDone) h
  case tendonWithdraw p pl => exact .of_request (k := .tendonWithdraw) h
  case injectStart p pl => exact .of_request (k := .injectStart) h
  case injectEnd p pl => exact .of_request (k := .injectEnd) h
  case stressOpen p pl => exact .of_request (k := .stressOpen) h
  case advance p pl => exact .of_request (k := .advance) h
  case release p pl => exact .of_request (k := .release) h
  case stressAbort p pl => exact .of_request (k := .stressAbort) h
  case stopSession p pl => exact .of_request (k := .stopSession) h
  case defineAnchor p pl => exact .of_request (k := .defineAnchor) h
  case setAnchorGeometry p pl => exact .of_request (k := .setAnchorGeometry) h
  case deleteAnchor p pl => exact .of_request (k := .deleteAnchor) h
  case abandonAnchor p pl => exact .of_request (k := .abandonAnchor) h
  case retestAnchor p pl => exact .of_request (k := .retestAnchor) h
  case settleAnchor p pl => exact .of_request (k := .settleAnchor) h
  case setHold p pl => exact .of_request (k := .setHold) h
  case releaseHold p pl => exact .of_request (k := .releaseHold) h
  case openZone p pl => exact .of_request (k := .openZone) h
  case closeZone p pl => exact .of_request (k := .closeZone) h
  case reportDeflection p pl => exact .of_request (k := .reportDeflection) h
  case setClock p pl => exact .of_request (k := .setClock) h
  case setParameter p pl => exact .of_request (k := .setParameter) h
  case setSection p pl => exact .of_request (k := .setSection) h
  case setCalibration p pl => exact .of_request (k := .setCalibration) h
  case writeStep p pl => exact .of_request (k := .writeStep) h
  case setScheduleHead p pl => exact .of_request (k := .setScheduleHead) h
  case watchConfigure p pl => exact .of_request (k := .watchConfigure) h
  case watchThreshold p pl => exact .of_request (k := .watchThreshold) h
  case watchEnable p pl => exact .of_request (k := .watchEnable) h
  case watchDisable p pl => exact .of_request (k := .watchDisable) h
  case watchRearm p pl => exact .of_request (k := .watchRearm) h
  case restart p pl => exact .of_request (k := .restart) h
  case frameReceived p f => cases h; exact .received p f
  case frameSent p => cases h; exact .sent p
  case busOffEntered p => exact .of_occurs (fun _ => .busOff) h
  case busOffRecovered p => exact .of_occurs (fun _ => .rejoin) h
  case sampleSet x => cases h; exact .event (.sample x)
  case notReadyCleared => exact .of_sampleIn h
  case faultCleared => exact .of_sampleIn h
  case rigLimitLatchSet => exact .of_sampleIn h
  case groutLimitLatchSet => exact .of_sampleIn h
  case refusalReached => exact .of_sampleIn h
  case holdPointReading => exact .of_sampleIn h
  case holdVoid => exact .of_sampleIn h
  case powerWarningCleared => exact .of_sampleIn h
  case watchStepTrip => exact .of_trip h
  case watchActionTrip => exact .of_trip h
  case chainLapse => exact .of_occurs (fun _ => .lapse) h
  case riseOverEvaluation => exact .of_occurs (fun _ => .rise) h
  case flowRateUpdate => exact .of_occurs (fun _ => .flow) h
  case passEntryRefresh => exact .of_occurs (fun _ => .refresh) h
  case sectionStale n => exact .of_choice (.stale n) h
  case worksClockSecond =>
    change execWorksClockSecond s = .next t at h
    unfold execWorksClockSecond at h
    split at h
    · cases h; exact .nothing
    · exact .of_choice (.second ‹_›) h
  case clockMarkDue => exact .of_occurs (fun _ => .clockMark) h
  case cureExpiry => exact .of_occurs (fun _ => .cure) h
  case winchEncStep d => cases h; exact .winch d
  case flowPulse l => exact .of_choice (.pulse l) h
  case valveChanged l b => cases h; exact .valve l b
  case powerWarningRaised v =>
    refine .of_occurs (fun e he => ?_) h
    unfold powerWarningEvent at he
    split at he
    · rename_i hlow
      cases he; exact .warning hlow.2
    · cases he
  case itemWriteBegin =>
    change execItemWriteBegin s = .next t at h
    unfold execItemWriteBegin at h
    split at h
    · cases h; exact .nothing
    · exact .of_choice (.writeBegun _) h
  case itemWriteComplete =>
    change execItemWriteComplete s = .next t at h
    unfold execItemWriteComplete at h
    split at h
    · cases h; exact .writeDone ‹_›
    · cases h; exact .nothing
  case warningMarkWritten => exact .of_choice .marked h
  case powerOnReset => exact absurd (.inl rfl) hc
  case resetLineReset => exact absurd (.inr (.inl rfl)) hc
  case restartReset => exact absurd (.inr (.inr rfl)) hc
  case resetCauseWritten => exact .of_occurs (fun _ => .causeWritten) h

/-- A reset command resets the part, or, a RESTART of a part that has not drained, changes nothing. -/
theorem exec_reset {c : Instr} {s t : State} (hc : IsReset c) (h : exec c s = .next t) :
    t = s ∨ ∃ k, t = resetAs k s := by
  obtain rfl | rfl | rfl := hc
  · cases h; exact .inr ⟨_, rfl⟩
  · cases h; exact .inr ⟨_, rfl⟩
  · obtain hcase | hcase := restartReset_cases s
    · cases hcase.symm.trans h; exact .inr ⟨_, rfl⟩
    · cases hcase.symm.trans h; exact .inl rfl

/-- The induction of every step invariant: a property that does not look at the waiting commands and that every effect and
every reset keeps is kept by every step. -/
theorem step_keeps {P : State → Prop} (hpending : ∀ s q, P s → P { s with pending := q })
    (heffect : ∀ s t, P s → Effect s t → P t) (hreset : ∀ k s, P s → P (resetAs k s))
    {s t : State} (hs : P s) (h : step s = .next t) : P t := by
  unfold step at h
  split at h
  · cases h; exact hs
  · rename_i c rest _
    have hrest : P { s with pending := rest } := hpending s rest hs
    by_cases hc : IsReset c
    · obtain rfl | ⟨k, rfl⟩ := exec_reset hc h
      · exact hrest
      · exact hreset k _ hrest
    · exact heffect _ _ hrest (exec_effect hc h)

/-- A property of the decision of every request kind and of the state with a port flag set is one of the decision that the
port unit and the owning block make together (R194). -/
theorem decide_induct {Q : State → Prop} {k : ReqKind} {p : Port} {pl : List Byte} {body : State → Reply} {s : State}
    (hbody : Q (body s).ev.st) (hflags : ∀ f, Q (setFlags s p f)) : Q (decide_ k p pl body s).ev.st := by
  unfold decide_
  split_ifs
  · exact hbody
  · exact hflags fun f => { f with malformed := true }
  · exact hflags fun f => { f with wrongRole := true }

end Sys2Proof.Machine
end

section
/-! SUPPORT. The invariants of every step that speak of the lines, the ports, the clock and the measurement unit. -/

namespace Sys2Proof.Machine

/-! ## The permit lines (R176, R177) -/

/-- The stale flag of a section is no matter of its holds. -/
theorem sectionRec_stale_data (s : State) (n m : Nat) (b : Bool) :
    (sectionRec (setSection s n { sectionRec s n with stale := b }) m).data = (sectionRec s m).data := by
  by_cases hnm : m - 1 = n - 1
  · by_cases hlen : n - 1 < s.sections.length
    · simp [sectionRec, setSection, hnm, List.getD_eq_getElem?_getD, hlen]
    · simp [sectionRec, setSection, hnm, List.set_eq_of_length_le (Nat.le_of_not_lt hlen)]
  · simp [sectionRec, setSection, List.getD_eq_getElem?_getD, List.getElem?_set_ne (Ne.symm hnm)]

theorem lineUp_stale (s : State) (n : Nat) (l : PLine) :
    lineUp (setSection s n { sectionRec s n with stale := true }) l = lineUp s l := by
  have hcause : ∀ c, causeStands (setSection s n { sectionRec s n with stale := true }) l c = causeStands s l c := by
    intro c
    cases c with
    | sectionStop =>
      simp only [causeStands, sectionStopped, effectiveLevel, sectionRec_stale_data]
      cases l <;> rfl
    | idle | watchDrop | limit | sensor | busOff | power => cases l <;> rfl
  simp only [lineUp, lineCauses, funext hcause]

theorem receiveFrame_link (f : RxFrame) (p : PortState) : (receiveFrame f p).link = p.link := by
  unfold receiveFrame sortFrame
  split_ifs <;> rfl

theorem finishFrame_link (p : PortState) : (finishFrame p).link = p.link := by
  unfold finishFrame
  split
  · rfl
  · exact (pump_keeps _).1.1
  · exact (pump_keeps _).1.1

theorem permitsExact_setPort {s : State} {p : Port} {q : PortState} (h : PermitsExact s)
    (hlink : q.link = (s.ports.get p).link) : PermitsExact { s with ports := s.ports.set p q } := by
  refine fun l => (h l).trans (lineUp_of_ports (setPorts_frame s _) (fun r => ?_) l).symm
  change ((s.ports.set p q).get r).link = (s.ports.get r).link
  rw [PerPort.get_set]
  split
  · subst r; exact hlink
  · rfl

/-- Every effect ends with the lines as their conditions give: the end of an event evaluates them, and what ends without
one changes no condition. -/
theorem effect_permitsExact (s t : State) (hs : PermitsExact s) (h : Effect s t) : PermitsExact t := by
  cases h with
  | nothing => exact hs
  | request | event => exact commit_exact _
  | received p f => exact permitsExact_setPort hs (receiveFrame_link f _)
  | sent p => exact permitsExact_setPort hs (finishFrame_link _)
  | stale n => exact fun l => (hs l).trans (lineUp_stale s n l).symm
  | second | winch | pulse | valve | writeBegun | writeDone | marked =>
    exact fun l => (hs l).trans (by cases l <;> rfl)

/-- A reset deasserts every line, and every line's work is idle. -/
theorem resetAs_permitsExact (k : ResetKind) (s : State) : PermitsExact (resetAs k s) := by
  intro l
  cases l <;> rfl

/-- Settles O2. -/
theorem permitLinesStayExact : Obligations.PermitLinesStayExact := fun _ _ =>
  step_keeps (fun _ _ hs l => (hs l).trans (by cases l <;> rfl)) effect_permitsExact fun k s _ =>
    resetAs_permitsExact k s

/-! ## The port queues (R192, R193, R198) -/

/-- The queues of a port within their rooms, its notices of distinct kinds and keys. -/
structure QueuesSound (p : PortState) : Prop where
  inbound : p.inbound.length ≤ Config.inboundRoom
  notices : p.notices.length ≤ Config.noticeRoom
  keys : (p.notices.map Notice.key).Nodup

theorem queuesSound_iff (s : State) :
    (QueuesBounded s ∧ NoticeKeysDistinct s) ↔ ∀ p, QueuesSound (s.ports.get p) :=
  ⟨fun h p => ⟨(h.1 p).1, (h.1 p).2, h.2 p⟩, fun h => ⟨fun p => ⟨(h p).inbound, (h p).notices⟩, fun p => (h p).keys⟩⟩

theorem QueuesSound.congr {a b : PortState} (h : QueuesSound a) (hi : b.inbound.length ≤ a.inbound.length)
    (hn : b.notices.Sublist a.notices) : QueuesSound b :=
  ⟨hi.trans h.inbound, hn.length_le.trans h.notices, (hn.map Notice.key).nodup h.keys⟩

/-- A notice that takes the place of another keeps its kind and key. -/
@[simp] theorem Notice.replacing_key (n q : Notice) : (n.replacing q).key = n.key := by
  cases n <;> cases q <;> rfl

/-- Offering a notice keeps the kinds and keys of a queue distinct: it joins where none has its key. -/
theorem offerNotice_keys (p : PortState) (n : Notice) (h : (p.notices.map Notice.key).Nodup) :
    ((offerNotice p n).notices.map Notice.key).Nodup := by
  have joins : ∀ (l : List Notice) (m : Notice), (l.map Notice.key).Nodup → (∀ q ∈ l, q.key ≠ m.key) →
      ((l ++ [m]).map Notice.key).Nodup := by
    intro l m hl hm
    rw [List.map_append, List.nodup_append]
    refine ⟨hl, by simp, fun x hx y hy => ?_⟩
    obtain ⟨q, hq, rfl⟩ := List.mem_map.1 hx
    rw [show y = m.key by simpa using hy]
    exact hm q hq
  unfold offerNotice
  split
  · split
    · refine joins _ _ ((List.filter_sublist.map _).nodup h) fun q hq => ?_
      rw [Notice.replacing_key]
      simpa using (List.mem_filter.1 hq).2
    · rename_i hnone
      have hnew : ∀ q ∈ p.notices, q.key ≠ n.key := by simpa using List.find?_eq_none.1 hnone
      split
      · exact joins _ _ (((List.drop_sublist 1 _).map _).nodup h) fun q hq => hnew q (List.mem_of_mem_drop hq)
      · exact joins _ _ h hnew
  · exact h

theorem offerAll_keys (pid : Port) (ns : List Notice) (p : PortState) (h : (p.notices.map Notice.key).Nodup) :
    ((offerAll pid ns p).notices.map Notice.key).Nodup := by
  unfold offerAll
  induction ns generalizing p with
  | nil => exact h
  | cons n rest ih =>
    refine ih _ ?_
    dsimp only
    split
    · exact offerNotice_keys p n h
    · exact h

theorem pump_notices_sublist (p : PortState) : (pump p).notices.Sublist p.notices := by
  unfold pump
  split
  · split
    · exact .refl _
    · rename_i _ hn
      exact hn ▸ List.sublist_cons_self _ _
    · exact .refl _
  · exact .refl _

theorem QueuesSound.pump {p : PortState} (h : QueuesSound p) : QueuesSound (pump p) := by
  obtain ⟨⟨-, hin, -, -⟩, -⟩ := pump_keeps p
  exact h.congr (by rw [hin]) (pump_notices_sublist p)

/-- The end of an event keeps the queues sound. -/
theorem commit_queues (e : Ev) (h : ∀ p, QueuesSound (e.st.ports.get p)) (p : Port) :
    QueuesSound ((commit e).ports.get p) := by
  obtain ⟨ns, hns⟩ := commit_ports e
  obtain ⟨⟨-, hin, -, -⟩, -⟩ := offerAll_keeps p ns (e.st.ports.get p)
  rw [hns p]
  exact QueuesSound.pump
    ⟨by rw [hin]; exact (h p).inbound, offerAll_room p ns _ (h p).notices, offerAll_keys p ns _ (h p).keys⟩

/-- The sound queues of every port. -/
def AllQueuesSound (s : State) : Prop := ∀ p, QueuesSound (s.ports.get p)

theorem AllQueuesSound.set {s : State} {p : Port} {q : PortState} (h : AllQueuesSound s) (hq : QueuesSound q) :
    ∀ r, QueuesSound ((s.ports.set p q).get r) := by
  intro r
  rw [PerPort.get_set]
  split
  · exact hq
  · exact h r

theorem AllQueuesSound.of_frame {s t : State} {ps : List Part} (h : AllQueuesSound s) (hf : OnlyChanges ps s t)
    (hp : Part.ports ∉ ps) : AllQueuesSound t := by
  have hports : t.ports = s.ports := hf .ports hp
  intro p
  rw [hports]
  exact h p

theorem takeFrame_queues {s : State} (h : AllQueuesSound s) (p : Port) : AllQueuesSound (takeFrame s p) :=
  h.set ((h p).congr (by simp) (.refl _))

theorem setFlags_queues {s : State} (h : AllQueuesSound s) (p : Port) (f : PortFlags → PortFlags) :
    AllQueuesSound (setFlags s p f) :=
  h.set ((h p).congr le_rfl (.refl _))

theorem putAnswer_queues {k : Byte} {p : Port} {r : Reply} (h : AllQueuesSound r.ev.st) :
    AllQueuesSound (putAnswer k p r).st :=
  h.set ((h p).congr le_rfl (.refl _))

theorem reqReply_queues (k : ReqKind) (p : Port) (pl : List Byte) {s : State} (h : AllQueuesSound s) :
    AllQueuesSound (reqReply k p pl s).ev.st := by
  cases k
  case restart =>
    change AllQueuesSound (restartReply s).ev.st
    have hdrain : AllQueuesSound (drain s) := fun q => by
      simp only [drain, PerPort.get_map]
      exact (h q).congr le_rfl (.refl _)
    unfold restartReply
    split
    · exact h
    · change AllQueuesSound (if s.clock.time.isSome = true then _ else _ : Ev).st
      split
      · exact hdrain
      · exact hdrain
  case clearPortFlags =>
    change AllQueuesSound (clearPortFlagsReply p pl s).ev.st
    unfold clearPortFlagsReply
    split
    · exact h
    · split
      · exact setFlags_queues h p fun f => { f with wrongRole := true }
      · exact setFlags_queues h _ _
  all_goals exact h.of_frame (reqReply_frame _ p pl s) (by simp [replyParts, reqTouches])

theorem ownEvent_queues {s : State} {e : Ev} (h : AllQueuesSound s) (he : OwnEvent s e) : AllQueuesSound e.st := by
  cases he with
  | @unknown p kind pl e he =>
    unfold unknownEvent at he
    split_ifs at he
    cases he
    exact putAnswer_queues (setFlags_queues (takeFrame_queues h p) p fun f => { f with unknownRequest := true })
  | sample x => exact h.of_frame (sampleEvent_frame x s) (by simp)
  | flow he => exact h.of_frame (flowRateEvent_frame s e he) (by simp)
  | rise he => exact h.of_frame (riseEvent_frame s e he) (by simp)
  | lapse he => exact h.of_frame (chainLapseEvent_frame s e he) (by simp)
  | refresh he => exact h.of_frame (refreshEvent_frame _ s e he) (by simp)
  | clockMark he => exact h.of_frame (clockMarkEvent_frame s e he) (by simp)
  | cure he => exact h.of_frame (cureExpiryEvent_frame s e he) (by simp)
  | warning => exact h.of_frame (raiseWarning_frame s) (by simp)
  | @busOff p e he =>
    unfold busOffEvent at he
    split_ifs at he
    cases he
    exact h.set ((h p).congr (by simp [portBusOff]) (by simp [portBusOff]))
  | @rejoin p e he =>
    unfold rejoinEvent at he
    split_ifs at he
    cases he
    exact h.set ((h p).congr le_rfl (.refl _))
  | causeWritten he =>
    unfold causeWrittenEvent at he
    split_ifs at he
    cases he
    intro q
    change QueuesSound ((s.ports.map fun _ p => { p with link := .onBus }).get q)
    rw [PerPort.get_map]
    exact (h q).congr le_rfl (.refl _)

theorem receiveFrame_queues (f : RxFrame) {p : PortState} (h : QueuesSound p) : QueuesSound (receiveFrame f p) := by
  unfold receiveFrame sortFrame
  split_ifs with hon hdata hcls hroom hresponse
  · exact ⟨h.inbound, h.notices, h.keys⟩
  · exact ⟨by simpa using hroom, h.notices, h.keys⟩
  all_goals exact ⟨h.inbound, h.notices, h.keys⟩

theorem finishFrame_queues {p : PortState} (h : QueuesSound p) : QueuesSound (finishFrame p) := by
  unfold finishFrame
  split
  · exact h
  · exact QueuesSound.pump (h.congr le_rfl (.refl _))
  · exact QueuesSound.pump (h.congr le_rfl (.refl _))

theorem effect_queues (s t : State) (hs : AllQueuesSound s) (h : Effect s t) : AllQueuesSound t := by
  cases h with
  | nothing => exact hs
  | @request k p pl =>
    have htake := takeFrame_queues hs p
    exact commit_queues _ (putAnswer_queues (decide_induct (reqReply_queues _ _ _ htake) (setFlags_queues htake _)))
  | event he => exact commit_queues _ (ownEvent_queues hs he)
  | received p f => exact hs.set (receiveFrame_queues f (hs p))
  | sent p => exact hs.set (finishFrame_queues (hs p))
  | stale | second | winch | pulse | valve | writeBegun | writeDone | marked => exact hs

theorem resetAs_queues (k : ResetKind) (s : State) : AllQueuesSound (resetAs k s) := by
  have hport : ∀ p, (resetAs k s).ports.get p = PortState.afterReset := by
    intro p
    cases p <;> rfl
  intro p
  rw [hport]
  exact ⟨by decide, by decide, by decide⟩

/-- Settles O3. -/
theorem portQueuesStayBounded : Obligations.PortQueuesStayBounded := by
  intro s t hbounded hkeys hstep
  rw [queuesSound_iff]
  exact step_keeps (fun _ _ h => h) effect_queues (fun k s _ => resetAs_queues k s)
    ((queuesSound_iff s).1 ⟨hbounded, hkeys⟩) hstep

end Sys2Proof.Machine
end

section
/-! SUPPORT. The invariants of every step that speak of the works clock and the measurement unit, and State.reset. -/

namespace Sys2Proof.Machine

/-! ## The works clock (R63, R64) -/

/-- The works clock goes on between two states: it stays in its range, stays SET and never falls. -/
def ClockGoesOn (s t : State) : Prop :=
  ClockInRange s → ClockInRange t ∧ ∀ now, s.clock.time = some now → ∃ later, t.clock.time = some later ∧ now ≤ later

theorem ClockGoesOn.of_time {s t : State} (h : t.clock.time = s.clock.time) : ClockGoesOn s t := by
  intro hs
  rw [ClockInRange, h]
  exact ⟨hs, fun now hnow => ⟨now, hnow, le_rfl⟩⟩

theorem ClockGoesOn.of_frame {s t : State} {ps : List Part} (hf : OnlyChanges ps s t) (hp : Part.clock ∉ ps) :
    ClockGoesOn s t := by
  have hclock : t.clock = s.clock := hf .clock hp
  exact .of_time (by rw [hclock])

theorem setClockReply_clock (pl : List Byte) (s : State) : ClockGoesOn s (setClockReply pl s).ev.st := by
  by_cases hback : fieldNat pl 0 4 < s.clock.time.getD s.clock.mark
  · rw [setClockReply_backward hback]
    exact .of_time rfl
  · rw [setClockReply_forward (Nat.le_of_not_lt hback)]
    intro _
    refine ⟨fun t ht => ?_, fun now hnow => ⟨_, rfl, ?_⟩⟩
    · cases ht
      exact Nat.le_of_lt_succ (fieldNat_lt pl 0 4)
    · simpa [hnow] using hback

theorem reqReply_clock (k : ReqKind) (p : Port) (pl : List Byte) (s : State) :
    ClockGoesOn s (reqReply k p pl s).ev.st := by
  cases k
  case setClock => exact setClockReply_clock pl s
  all_goals exact .of_frame (reqReply_frame _ p pl s) (by simp [replyParts, reqTouches])

theorem clockMarkEvent_clock {s : State} {e : Ev} (h : clockMarkEvent s = some e) : ClockGoesOn s e.st := by
  unfold clockMarkEvent at h
  split_ifs at h
  cases h
  refine .of_time ?_
  rw [Ev.dirtied_st, Ev.of_st]

theorem ownEvent_clock {s : State} {e : Ev} (h : OwnEvent s e) : ClockGoesOn s e.st := by
  cases h with
  | unknown he => exact .of_frame (unknownEvent_frame he) (by simp)
  | sample x => exact .of_time (sampleEvent_clock x s).1
  | flow he => exact .of_frame (flowRateEvent_frame s e he) (by simp)
  | rise he => exact .of_frame (riseEvent_frame s e he) (by simp)
  | lapse he => exact .of_frame (chainLapseEvent_frame s e he) (by simp)
  | refresh he => exact .of_frame (refreshEvent_frame _ s e he) (by simp)
  | clockMark he => exact clockMarkEvent_clock he
  | cure he => exact .of_frame (cureExpiryEvent_frame s e he) (by simp)
  | warning => exact .of_frame (raiseWarning_frame s) (by simp)
  | busOff he => exact .of_frame (busOffEvent_frame he) (by simp)
  | rejoin he => exact .of_frame (rejoinEvent_frame he) (by simp)
  | causeWritten he => exact .of_frame (causeWrittenEvent_frame he) (by simp)

theorem second_clock {s : State} {now : Nat} (h : s.clock.time = some now) :
    ClockGoesOn s { s with clock := s.clock.second now } := by
  intro hs
  refine ⟨fun t ht => ?_, fun n hn => ⟨_, rfl, ?_⟩⟩
  · cases ht
    exact Nat.min_le_right _ _
  · have hsame : now = n := Option.some.inj (h.symm.trans hn)
    subst hsame
    exact Nat.le_min.2 ⟨Nat.le_succ _, hs now h⟩

theorem effect_clock {s t : State} (h : Effect s t) : ClockGoesOn s t := by
  cases h with
  | nothing => exact .of_time rfl
  | @request k p pl =>
    have hreply : ClockGoesOn s (decide_ k p pl (reqReply k p pl) (takeFrame s p)).ev.st :=
      decide_induct (reqReply_clock k p pl (takeFrame s p)) fun _ => .of_time rfl
    simpa only [ClockGoesOn, ClockInRange, commit_clock, putAnswer_clock] using hreply
  | event he => simpa only [ClockGoesOn, ClockInRange, commit_clock] using ownEvent_clock he
  | second h => exact second_clock h
  | received | sent | stale | winch | pulse | valve | writeBegun | writeDone | marked => exact .of_time rfl

/-- Settles O4. -/
theorem worksClockNeverDecreases : Obligations.WorksClockNeverDecreases :=
  fun _ _ _ hc hs h => effect_clock (exec_effect hc h) hs

/-! ## The measurement unit (chapter 3) -/

/-- A line's gated volume and flow rate within their ranges (R61, R62). -/
def LineInRange (x : LineMeas) : Prop := x.gated ≤ Config.maxCount16 ∧ x.rate ≤ Config.maxCount16

/-- What a command that is no reset can make of the measurement unit. -/
inductive MeasMove (m : Meas) : Meas → Prop
  | same : MeasMove m m
  | paidOut {n : Nat} (h : m.paidOut ≤ Config.maxPaidOut → n ≤ Config.maxPaidOut) : MeasMove m { m with paidOut := n }
  | lines {x : PerLine LineMeas} (h : (∀ l, LineInRange (m.lines.get l)) → ∀ l, LineInRange (x.get l)) :
      MeasMove m { m with lines := x }
  | emptied (c : Channel) : MeasMove m { m with chans := channelSet m.chans c ChannelState.emptied }
  | sampled {n : Meas} (hchans : ∀ c, ∃ cal raw, channelGet n.chans c =
      (channelGet m.chans c).sample (channelMax c) cal raw) (hpaid : n.paidOut = m.paidOut) (hlines : n.lines = m.lines) :
      MeasMove m n

theorem MeasMove.of_frame {s t : State} {ps : List Part} (hf : OnlyChanges ps s t) (hp : Part.meas ∉ ps) :
    MeasMove s.meas t.meas := by
  have hmeas : t.meas = s.meas := hf .meas hp
  rw [hmeas]
  exact .same

theorem MeasMove.line (m : Meas) (l : GLine) {x : LineMeas} (h : LineInRange (m.lines.get l) → LineInRange x) :
    MeasMove m { m with lines := m.lines.set l x } := by
  refine .lines fun hm k => ?_
  by_cases hk : k = l
  · subst hk
    rw [PerLine.get_set_self]
    exact h (hm k)
  · rw [PerLine.get_set_ne _ _ hk]
    exact hm k

theorem tendonStartReply_meas (pl : List Byte) (s : State) : MeasMove s.meas (tendonStartReply pl s).ev.st.meas := by
  obtain ⟨c, hr⟩ | ⟨r, g, now, hr⟩ := tendonStartReply_cases pl s
  · rw [hr]
    exact .same
  · have hmeas : (tendonStartEvent s r g now).st.meas = { s.meas with paidOut := 0 } :=
      changeStage_frame _ _ _ .meas (by simp)
    rw [hr, done_ev, hmeas]
    exact .paidOut fun _ => Nat.zero_le _

theorem injectStartReply_cases (pl : List Byte) (s : State) : (∃ c, injectStartReply pl s = refuse s c) ∨
    ∃ r l k now, injectStartReply pl s = done (injectStartEvent s r l k now) := by
  unfold injectStartReply
  split
  · unfold injectStartOn
    split
    · exact .inl ⟨_, rfl⟩
    · split
      · exact .inl ⟨_, rfl⟩
      · split
        · exact .inl ⟨_, rfl⟩
        · split_ifs
          case neg => exact .inr ⟨_, _, _, _, rfl⟩
          all_goals exact .inl ⟨_, rfl⟩
  · exact .inl ⟨_, rfl⟩

theorem injectStartReply_meas (pl : List Byte) (s : State) : MeasMove s.meas (injectStartReply pl s).ev.st.meas := by
  have hevent : ∀ r l k now, MeasMove s.meas (injectStartEvent s r l k now).st.meas := by
    intro r l k now
    have hmeas : (injectStartEvent s r l k now).st.meas = (openLine s l (openedPass s r k)).meas :=
      changeStage_frame _ _ _ .meas (by simp)
    rw [hmeas]
    exact MeasMove.line s.meas l fun h => ⟨Nat.zero_le _, h.2⟩
  obtain ⟨c, hr⟩ | ⟨r, l, k, now, hr⟩ := injectStartReply_cases pl s
  · rw [hr]
    exact .same
  · rw [hr, done_ev]
    exact hevent r l k now

theorem setCalibrationReply_meas (pl : List Byte) (s : State) :
    MeasMove s.meas (setCalibrationReply pl s).ev.st.meas := by
  unfold setCalibrationReply
  split
  · exact .same
  · rename_i c _
    split
    · exact .same
    · have hmeas : (calibrateEvent s c (calibrationOfPayload pl)).st.meas =
          { s.meas with chans := channelSet s.meas.chans c ChannelState.emptied } := by
        simp [calibrateEvent, faultChange_st, setChannel]
      rw [doneWith_ev, hmeas]
      exact .emptied c

theorem reqReply_meas (k : ReqKind) (p : Port) (pl : List Byte) (s : State) :
    MeasMove s.meas (reqReply k p pl s).ev.st.meas := by
  cases k
  case tendonStart => exact tendonStartReply_meas pl s
  case injectStart => exact injectStartReply_meas pl s
  case setCalibration => exact setCalibrationReply_meas pl s
  all_goals exact .of_frame (reqReply_frame _ p pl s) (by simp [replyParts, reqTouches])

theorem second_inRange (x : LineMeas) (h : LineInRange x) : LineInRange x.second :=
  ⟨h.1, Nat.min_le_right _ _⟩

theorem flowRateEvent_meas {s : State} {e : Ev} (h : flowRateEvent s = some e) : MeasMove s.meas e.st.meas := by
  unfold flowRateEvent at h
  split_ifs at h
  cases h
  have hmeas : ((Ev.of (flowSecond s)).feedWatches fedByFlow).st.meas = (flowSecond s).meas :=
    feedWatches_frame _ _ .meas (by simp)
  rw [hmeas]
  refine .lines fun hm l => ?_
  cases l
  · exact second_inRange _ (hm .a)
  · exact second_inRange _ (hm .b)

theorem sampleEvent_measMove (x : SampleIn) (s : State) : MeasMove s.meas (sampleEvent x s).st.meas := by
  rw [sampleEvent_meas]
  have hinputs := measure_inputs ((Ev.of s).mod (sampleSupply x.supply)) x.raw
  simp only [Ev.mod_st, Ev.of_st, sampleSupply_meas] at hinputs
  refine .sampled (fun c => ⟨channelGet s.config.cals c, channelGet x.raw c, ?_⟩) hinputs.1 hinputs.2
  have hget := convert_get ((Ev.of s).mod (sampleSupply x.supply)) x.raw c
  rw [← measure_chans, ← sample_eq_sampledChannel] at hget
  simp only [Ev.mod_st, Ev.of_st, sampleSupply_meas, sampleSupply_config] at hget
  exact hget

theorem ownEvent_meas {s : State} {e : Ev} (h : OwnEvent s e) : MeasMove s.meas e.st.meas := by
  cases h with
  | unknown he => exact .of_frame (unknownEvent_frame he) (by simp)
  | sample x => exact sampleEvent_measMove x s
  | flow he => exact flowRateEvent_meas he
  | rise he => exact .of_frame (riseEvent_frame s e he) (by simp)
  | lapse he => exact .of_frame (chainLapseEvent_frame s e he) (by simp)
  | refresh he => exact .of_frame (refreshEvent_frame _ s e he) (by simp)
  | clockMark he => exact .of_frame (clockMarkEvent_frame s e he) (by simp)
  | cure he => exact .of_frame (cureExpiryEvent_frame s e he) (by simp)
  | warning => exact .of_frame (raiseWarning_frame s) (by simp)
  | busOff he => exact .of_frame (busOffEvent_frame he) (by simp)
  | rejoin he => exact .of_frame (rejoinEvent_frame he) (by simp)
  | causeWritten he => exact .of_frame (causeWrittenEvent_frame he) (by simp)

theorem paidOutAfter_le (d : WinchDir) {n : Nat} (h : n ≤ Config.maxPaidOut) : paidOutAfter d n ≤ Config.maxPaidOut := by
  cases d
  · exact Nat.min_le_right _ _
  · exact (Nat.sub_le _ _).trans h

theorem effect_meas {s t : State} (h : Effect s t) : MeasMove s.meas t.meas := by
  cases h with
  | @request k p pl =>
    rw [commit_meas]
    exact decide_induct (Q := fun u => MeasMove s.meas u.meas) (reqReply_meas k p pl (takeFrame s p)) fun _ => .same
  | event he =>
    rw [commit_meas]
    exact ownEvent_meas he
  | winch d => exact .paidOut (paidOutAfter_le d)
  | pulse l => exact .line s.meas l fun h => ⟨Nat.min_le_right _ _, h.2⟩
  | valve l b => exact .line s.meas l id
  | nothing | received | sent | stale | second | writeBegun | writeDone | marked => exact .same

/-! ## The channels (R51, R52) -/

/-- What `ChannelsSound` says of one channel with a maximum. -/
structure ChannelSound (maximum : Nat) (x : ChannelState) : Prop where
  length : x.history.length = min Config.historyLength x.taken
  within : ∀ v ∈ x.history, v ≤ maximum
  notReady : x.notReady = true ↔ x.history.length < Config.historyLength
  zero : x.notReady = true → x.value = 0
  value : x.value ≤ maximum

theorem channelsSound_iff (s : State) :
    ChannelsSound s ↔ ∀ c, ChannelSound (channelMax c) (channelGet s.meas.chans c) := by
  refine forall_congr' fun c => ⟨fun h => ?_, fun h => ?_⟩
  · obtain ⟨-, hlength, hwithin, hready, hzero, hvalue⟩ := h
    exact ⟨hlength, hwithin, hready, hzero, hvalue⟩
  · exact ⟨h.length ▸ Nat.min_le_left _ _, h.length, h.within, h.notReady, h.zero, h.value⟩

theorem emptied_sound (maximum : Nat) : ChannelSound maximum ChannelState.emptied :=
  ⟨rfl, by simp [ChannelState.emptied], by decide, fun _ => rfl, Nat.zero_le _⟩

theorem joinHistory_length (h : List Nat) (v : Nat) (n : Nat) (hn : h.length = min Config.historyLength n) :
    (joinHistory h v).length = min Config.historyLength (n + 1) := by
  unfold Config.historyLength at hn
  rw [joinHistory_eq]
  unfold Config.historyLength
  split <;> simp <;> omega

/-- The mean of a full history lies within the bound of its samples (R52). -/
theorem historyValue_le {h : List Nat} {m : Nat} (hm : ∀ v ∈ h, v ≤ m) : historyValue h ≤ m := by
  unfold historyValue
  split
  · rename_i hlen
    have hsum : h.sum ≤ h.length * m := by simpa using List.sum_le_card_nsmul h m hm
    rw [hlen] at hsum
    exact Nat.div_le_of_le_mul hsum
  · exact Nat.zero_le _

theorem sample_sound {maximum : Nat} {x : ChannelState} (cal : Calibration) (raw : RawWord)
    (h : ChannelSound maximum x) : ChannelSound maximum (x.sample maximum cal raw) := by
  have hsample : calibratedSample maximum cal raw ≤ maximum := by
    rw [calibratedSample_eq]
    omega
  have hlength := joinHistory_length x.history (calibratedSample maximum cal raw) x.taken h.length
  have hwithin : ∀ v ∈ joinHistory x.history (calibratedSample maximum cal raw), v ≤ maximum := by
    intro v hv
    rw [joinHistory_eq, List.mem_append, List.mem_singleton] at hv
    obtain hold | rfl := hv
    · split at hold
      · exact h.within v (List.mem_of_mem_drop hold)
      · exact h.within v hold
    · exact hsample
  have hroom : (joinHistory x.history (calibratedSample maximum cal raw)).length ≤ Config.historyLength :=
    hlength ▸ Nat.min_le_left _ _
  refine ⟨hlength, hwithin, ?_, fun hready => ?_, historyValue_le hwithin⟩
  · simp only [ChannelState.sample, ne_eq, decide_not, Bool.not_eq_true', decide_eq_false_iff_not]
    exact ⟨fun hne => lt_of_le_of_ne hroom hne, ne_of_lt⟩
  · have hne : ¬ (joinHistory x.history (calibratedSample maximum cal raw)).length = Config.historyLength := by
      simpa [ChannelState.sample] using hready
    exact if_neg hne

theorem measMove_channels {m n : Meas} (h : MeasMove m n)
    (hm : ∀ c, ChannelSound (channelMax c) (channelGet m.chans c)) (c : Channel) :
    ChannelSound (channelMax c) (channelGet n.chans c) := by
  cases h with
  | same | paidOut | lines => exact hm c
  | emptied d =>
    by_cases hc : c = d
    · subst hc
      rw [channelGet_set_self]
      exact emptied_sound _
    · rw [channelGet_set_ne _ _ hc]
      exact hm c
  | sampled hchans =>
    obtain ⟨cal, raw, hc⟩ := hchans c
    rw [hc]
    exact sample_sound cal raw (hm c)

theorem resetAs_meas (k : ResetKind) (s : State) :
    (resetAs k s).meas = Meas.afterReset { a := s.meas.lines.a.valve, b := s.meas.lines.b.valve } := rfl

theorem afterReset_channel (v : PerLine Bool) (c : Channel) :
    channelGet (Meas.afterReset v).chans c = ChannelState.emptied := by
  cases c <;> rfl

/-- Settles O5. -/
theorem channelsStaySound : Obligations.ChannelsStaySound := by
  intro s t hs h
  refine step_keeps (fun _ _ h => h) (fun u v hu huv => ?effect) (fun k u _ => ?reset) hs h
  case effect => exact (channelsSound_iff v).2 (measMove_channels (effect_meas huv) ((channelsSound_iff u).1 hu))
  case reset =>
    refine (channelsSound_iff _).2 fun c => ?_
    rw [resetAs_meas, afterReset_channel]
    exact emptied_sound _

/-! ## The pulse counts (R60 to R62) -/

theorem measMove_pulses {m n : Meas} (h : MeasMove m n)
    (hm : m.paidOut ≤ Config.maxPaidOut ∧ ∀ l, LineInRange (m.lines.get l)) :
    n.paidOut ≤ Config.maxPaidOut ∧ ∀ l, LineInRange (n.lines.get l) := by
  cases h with
  | same | emptied => exact hm
  | paidOut hn => exact ⟨hn hm.1, hm.2⟩
  | lines hx => exact ⟨hm.1, hx hm.2⟩
  | sampled _ hpaid hlines => rwa [hpaid, hlines]

/-- Settles O7. -/
theorem pulseCountsStayInRange : Obligations.PulseCountsStayInRange := by
  intro s t hpaid hflow h
  refine step_keeps (P := fun u => PaidOutInRange u ∧ FlowInRange u) (fun _ _ h => h)
    (fun u v hu huv => measMove_pulses (effect_meas huv) hu) (fun k u _ => ⟨?paid, fun l => ?flow⟩) ⟨hpaid, hflow⟩ h
  case paid => exact Nat.zero_le _
  case flow => cases l <;> exact ⟨Nat.zero_le _, Nat.zero_le _⟩

/-! ## One step, and State.reset -/

/-- Settles O1. -/
theorem stepRunsFrontCommand : Obligations.StepRunsFrontCommand :=
  ⟨fun _ _ => rfl, fun s h => by rw [step, h]⟩

theorem reset_tablesSized : TablesSized State.reset := by
  refine ⟨rfl, ?_, ⟨rfl, by decide, by decide⟩, rfl, ?_, ?_, ?_, ?_, ?_, ?_, ?_, ?_, rfl, ?_, ?_⟩
  · intro r hr
    rw [List.eq_of_mem_replicate hr]
    rfl
  · rintro _ ⟨⟩; exact ⟨rfl, by decide, by decide⟩
  · rintro _ ⟨⟩; rfl
  · rintro _ _ ⟨⟩
  · rintro _ _ ⟨⟩
  · rintro _ ⟨⟩
  · rintro _ ⟨⟩ _ ⟨⟩
  · rintro _ ⟨⟩ _ ⟨⟩
  · rintro _ _ _ ⟨⟩
  · rintro _ ⟨⟩
    refine ⟨rfl, fun d hd => ?_⟩
    rw [List.eq_of_mem_replicate hd]
    rfl
  · rintro _ _ ⟨⟩

theorem reset_sections (r : SectionRec) (h : r ∈ State.reset.sections) : r = SectionRec.default :=
  List.eq_of_mem_replicate h

theorem reset_tablesAgree : TablesAgree State.reset where
  ordered := List.Pairwise.nil
  cure := ⟨List.Pairwise.nil, List.nodup_nil, fun c => by simp [State.reset]⟩
  counts := by
    intro n tier _ hn _ htier
    have hsect : sectionRec State.reset n = SectionRec.default := by
      simp only [sectionRec, State.reset, List.getD_eq_getElem?_getD, List.getElem?_replicate]
      split <;> rfl
    rw [lockedCount, hsect]
    have hcount : ∀ i < 8, SectionRec.default.data.counts.getD i 0 = 0 := by decide
    exact hcount _ (by omega)
  holds := fun r hr => reset_sections r hr ▸ List.Pairwise.nil

theorem reset_storeAgrees : StoreAgrees State.reset where
  first := by
    rintro _ ⟨⟩
    exact ⟨List.nodup_nil, by rintro _ ⟨⟩⟩
  second := by
    rintro _ ⟨⟩
    exact ⟨List.nodup_nil, by rintro _ ⟨⟩⟩
  dirJob := by rintro _ _ _ ⟨⟩
  secs := by
    rintro _ ⟨⟩ d hd
    rw [List.eq_of_mem_replicate hd]
    exact List.Pairwise.nil
  secJob := by rintro _ _ ⟨⟩

theorem reset_poolSound : PoolSound State.reset where
  ids := List.nodup_nil
  rsv := List.Pairwise.nil
  rsvIn := by rintro _ ⟨⟩
  usd := List.Pairwise.nil
  usdIn := by rintro _ ⟨⟩
  lists := by rintro _ ⟨⟩
  others := by rintro _ ⟨⟩
  idle := fun _ => rfl
  open_ := by rintro _ ⟨⟩

theorem reset_permitsExact : PermitsExact State.reset := by
  intro l
  cases l <;> rfl

/-- Settles O6: State.reset meets every invariant, and each of its parts is as the tables of R67, R179 and R192 give. -/
theorem resetMeetsTheInvariants : Obligations.ResetMeetsTheInvariants := by
  have hport : ∀ p, State.reset.ports.get p = PortState.afterReset := fun p => by cases p <;> rfl
  have hchan : ∀ c, channelGet State.reset.meas.chans c = ChannelState.emptied := afterReset_channel _
  refine ⟨reset_permitsExact, fun l => ?lines, ?queues, ?keys, by rintro _ ⟨⟩, reset_tablesSized, reset_tablesAgree,
    reset_storeAgrees, reset_poolSound, ⟨by rintro _ ⟨⟩, by rintro _ _ _ ⟨⟩⟩, by rintro _ ⟨⟩, rfl, Nat.zero_le _,
    fun l => ?flow, (channelsSound_iff _).2 fun c => hchan c ▸ emptied_sound _, fun p => ?port, fun c => ?channel,
    rfl, rfl, rfl, rfl, fun l => ?line, rfl, rfl, rfl⟩
  case lines => cases l <;> exact ⟨rfl, by decide⟩
  case queues => exact fun p => hport p ▸ ⟨by decide, by decide⟩
  case keys => exact fun p => hport p ▸ List.nodup_nil
  case flow => cases l <;> exact ⟨Nat.zero_le _, Nat.zero_le _⟩
  case port => exact hport p ▸ ⟨rfl, rfl, rfl, rfl, rfl, rfl, rfl⟩
  case channel =>
    rw [channelValue, faultPresent, hchan]
    exact ⟨rfl, rfl, rfl, rfl, rfl⟩
  case line => cases l <;> exact ⟨rfl, rfl, rfl, rfl⟩

end Sys2Proof.Machine
end

section
/-! SUPPORT. A request answered by its owning block, as the functional statements use it; and the statements about the
ports (chapter 11). -/

namespace Sys2Proof.Machine

/-! ## A request refused, accepted, turned away (R194, R196) -/

/-- A request whose owning block refuses it. -/
theorem take_refused {k : ReqKind} {p : Port} {pl : List Byte} {s : State} {body : State → Reply} {c : Code}
    (h : Asked k p pl s) (hb : body (takeFrame s p) = refuse (takeFrame s p) c) :
    ∃ t, take k p pl body s = .next t ∧ Refused k.code p c s t :=
  ⟨_, take_asked body h, by rw [hb]; exact refused_body c h⟩

/-- A request whose owning block accepts it with an answer of one frame. -/
theorem take_done {k : ReqKind} {p : Port} {pl : List Byte} {s : State} {body : State → Reply} {e : Ev} {d : AnswerData}
    (h : Asked k p pl s) (hb : body (takeFrame s p) = doneWith e d) :
    take k p pl body s = .next (commit (putAnswer k.code p (doneWith e d))) := by
  rw [take_asked body h, hb]

/-- What an accepted request does beside its own effect, from the event that the owning block makes of it. -/
theorem accepted_event {k : ReqKind} {p : Port} {pl : List Byte} {s : State} {e : Ev} {d : AnswerData}
    {items : List Item} {ns : List Notice} {parts : List Part} (h : Asked k p pl s) (hd : e.dirty = items)
    (hn : e.notices = ns) (hf : OnlyChanges parts (takeFrame s p) e.st) (hp : .ports ∉ parts) (hr : .recorder ∉ parts)
    (hq : .permits ∉ parts) : Accepted k p d items ns parts s (commit (putAnswer k.code p (doneWith e d))) := by
  subst hn
  exact accepted_body (r := doneWith e d) h rfl hd hf hp hr hq

/-- A payload of another length than its kind's is turned away by the length check. -/
theorem take_wrongLength {k : ReqKind} {p : Port} {pl : List Byte} {s : State} (body : State → Reply)
    (h : canTake s p k.code pl = true) (hrole : k.allowed p = true) (hlen : pl.length ≠ k.length) :
    ∃ t, take k p pl body s = .next t ∧
      TurnedAway k.code p .malformed (fun f => { f with malformed := true }) s t :=
  ⟨_, by simp only [take, takeEvent, h, if_true, decide_, hrole, hlen, if_false, occurs],
    turnedAway_commit .malformed (fun f => { f with malformed := true }) (canTake_link h)⟩

/-- Settles O8: the three checks of R194, one clause each. -/
theorem portChecksRefuseRequests : Obligations.PortChecksRefuseRequests := by
  refine ⟨fun p kind pl s hc hk => ?unknown, fun k p pl s hc => ⟨fun hrole => ?role, fun hrole hlen => ?length⟩⟩
  case unknown =>
    have hevent : unknownEvent p kind pl s = some (putAnswer kind p
        (refuse (setFlags (takeFrame s p) p fun f => { f with unknownRequest := true }) .unknownRequest)) := by
      simp [unknownEvent, hk, hc]
    exact ⟨_, congrArg (occurs · s) hevent, turnedAway_commit _ _ (canTake_link hc)⟩
  case role =>
    rw [exec_requestOf]
    exact take_wrongRole _ hc hrole
  case length =>
    rw [exec_requestOf]
    exact take_wrongLength _ hc hrole hlen

/-- Settles O9: the taking is absent while its condition does not stand. -/
theorem untakenFrameChangesNothing : Obligations.UntakenFrameChangesNothing := by
  refine ⟨fun k p pl s hc => ?request, fun p kind pl s hc => ?unknown⟩
  case request =>
    rw [exec_requestOf]
    exact take_unasked _ hc
  case unknown =>
    have hnone : unknownEvent p kind pl s = none := by simp [unknownEvent, hc]
    exact congrArg (occurs · s) hnone

/-! ## Identify (R205) -/

/-- Settles O10: the code table is that of `Code.value`, and Identify's reply looks at nothing. -/
theorem identifyAnswersFixedContent : Obligations.IdentifyAnswersFixedContent := by
  unfold Obligations.IdentifyAnswersFixedContent
  intro table
  refine ⟨fun c => ⟨c.value, ?listed⟩, fun c v hcv kind d => ?valued, fun _ _ => rfl, fun _ _ _ _ => rfl, fun _ => rfl,
    rfl, fun p pl s h => ?identify⟩
  case listed => cases c <;> simp [table, Code.value]
  case valued =>
    have hv : v = c.value := by
      simp only [table, List.mem_cons, Prod.mk.injEq, List.not_mem_nil, or_false] at hcv
      rcases hcv with h | h | h | h | h | h | h | h | h | h | h | h | h | h | h | h | h | h | h | h | h | h | h | h | h |
        h | h | h | h | h | h | h | h | h <;> rw [h.1, h.2] <;> rfl
    rw [AnswerFrame.codeValue, hv]
  case identify =>
    have hread : ReadOut .identify p (.identify 0x5A4E 0x0420 2 512 64 8192 4) 2 [] s
        (commit (putAnswer ReqKind.identify.code p (identifyReply (takeFrame s p)))) :=
      read_commit h rfl rfl rfl rfl rfl rfl rfl (takeFrame_frame s p)
    exact ⟨_, take_asked _ h, hread, hread.taken.1⟩

/-! ## A frame sent (R195, R197) -/

/-- A free port on the bus begins the next frame of its slot. -/
theorem pump_answer {q : PortState} {f : AnswerFrame} {rest : List AnswerFrame} (hl : q.link = .onBus)
    (hs : q.sending = none) (h : q.slot = f :: rest) : pump q = { q with slot := rest, sending := some (.answer f) } := by
  simp [pump, hl, hs, h]

/-- With an empty slot, a free port on the bus begins its oldest notice. -/
theorem pump_notice {q : PortState} {n : Notice} {rest : List Notice} (hl : q.link = .onBus)
    (hs : q.sending = none) (h : q.slot = []) (hn : q.notices = n :: rest) :
    pump q = { q with notices := rest, sending := some (.notice n) } := by
  simp [pump, hl, hs, h, hn]

/-- A port with nothing to send stays free. -/
theorem pump_nothing {q : PortState} (h : q.slot = []) (hn : q.notices = []) : pump q = q := by
  unfold pump
  split
  · simp [h, hn]
  · rfl

theorem pump_offBus {q : PortState} (h : q.link ≠ .onBus) : pump q = q := by simp [pump, h]

/-- The request that is in hand after a frame has been sent: none, once the last frame of its answer has. -/
def handAfter (q : PortState) : Sending → Option ReqFrame
  | .answer _ => if q.slot = [] then none else q.inHand
  | .notice _ => q.inHand

theorem finishFrame_eq {q : PortState} {x : Sending} (h : q.sending = some x) :
    finishFrame q = pump { q with sending := none, inHand := handAfter q x } := by
  cases x <;> simp [finishFrame, h, handAfter, List.isEmpty_iff]

/-- Settles O14: a port that has sent a frame is free, and begins the next one by what its slot and its queue hold. -/
theorem sentFrameMakesRoom : Obligations.SentFrameMakesRoom := by
  intro p s x hl hs q hand
  have hhand : hand = handAfter q x := by cases x <;> rfl
  have hexec : exec (.frameSent p) s =
      .next { s with ports := s.ports.set p (pump { q with sending := none, inHand := hand }) } := by
    rw [hhand, ← finishFrame_eq hs]
    rfl
  rw [hexec]
  refine ⟨fun f rest hslot => ?_, fun n rest hslot hnotices => ?_, fun hslot hnotices => ?_⟩
  · rw [pump_answer (q := { q with sending := none, inHand := hand }) hl rfl hslot]
  · rw [pump_notice (q := { q with sending := none, inHand := hand }) hl rfl hslot hnotices]
  · rw [pump_nothing (q := { q with sending := none, inHand := hand }) hslot hnotices]

/-! ## Bus-off (R203) -/

theorem offerAll_offBus (pid : Port) (ns : List Notice) {q : PortState} (h : q.link ≠ .onBus) :
    offerAll pid ns q = q := by
  induction ns with
  | nil => rfl
  | cons n ns ih =>
    have hone : (if n.goesTo pid then offerNotice q n else q) = q := by
      split
      · simp [offerNotice, h]
      · rfl
    rw [offerAll, List.foldl_cons, hone]
    exact ih

/-- A port off the bus is left as it stands by the end of an event. -/
theorem commit_offBus {e : Ev} {p : Port} (h : (e.st.ports.get p).link ≠ .onBus) :
    (commit e).ports.get p = e.st.ports.get p := by
  obtain ⟨ns, hns⟩ := commit_ports e
  rw [hns p, offerAll_offBus p ns h, pump_offBus h]

/-- A line is down while one of its conditions fails (R176). -/
theorem lineUp_of_cause {s : State} {l : PLine} {c : DownCause} (h : causeStands s l c = true) : lineUp s l = false := by
  have hmem : c ∈ lineCauses s l := List.mem_filter.2 ⟨by cases c <;> simp [allCauses], h⟩
  cases hc : lineCauses s l with
  | nil => simp [hc] at hmem
  | cons x rest => simp [lineUp, hc]

/-- The event in which one port changes its standing. -/
def portEvent (s : State) (p : Port) (x : PortState) : Ev := Ev.of { s with ports := s.ports.set p x }

theorem portEvent_told (s : State) (p : Port) (x : PortState) :
    Told (fun q => if q = p then x else s.ports.get q) [] s (commit (portEvent s p x)) := by
  have h := commit_told (portEvent s p x) s rfl
  have hbase : (fun q => (portEvent s p x).st.ports.get q) = fun q => if q = p then x else s.ports.get q :=
    funext fun q => PerPort.get_set s.ports p x q
  rw [hbase] at h
  exact h

theorem portEvent_keeps (s : State) (p : Port) (x : PortState) {r : Port} (hr : r ≠ p) :
    PortKeeps (s.ports.get r) ((commit (portEvent s p x)).ports.get r) ∧
      FlagsKept (s.ports.get r) ((commit (portEvent s p x)).ports.get r) := by
  have h := commit_keeps (portEvent s p x) r
  rwa [show (portEvent s p x).st.ports.get r = s.ports.get r from PerPort.get_set_ne _ _ hr] at h

theorem portEvent_frame (s : State) (p : Port) (x : PortState) :
    OnlyChanges [.watch, .permits, .recorder, .ports] s (commit (portEvent s p x)) :=
  (commit_frame (portEvent s p x) s [.ports] (setPorts_frame s _)).mono (by simp)

theorem portEvent_items (s : State) (p : Port) (x : PortState) : Dirties [] s (commit (portEvent s p x)) :=
  commit_dirties (portEvent s p x)

/-- Settles O15: both transitions change one port alone; a port in bus-off is not offered a notice. -/
theorem busOffEmptiesPort : Obligations.BusOffEmptiesPort := by
  refine fun p s => ⟨fun hl => ?off, fun hl => ?on⟩
  case off =>
    have hexec : exec (.busOffEntered p) s = .next (commit (portEvent s p (portBusOff (s.ports.get p)))) :=
      congrArg (occurs · s) (if_pos hl)
    have hself : (portEvent s p (portBusOff (s.ports.get p))).st.ports.get p = portBusOff (s.ports.get p) :=
      PerPort.get_set_self _ _ _
    have hport : (commit (portEvent s p (portBusOff (s.ports.get p)))).ports.get p = portBusOff (s.ports.get p) := by
      rw [commit_offBus (by rw [hself]; simp [portBusOff]), hself]
    refine ⟨_, hexec, hport, fun l hline => ?lines, ?told, fun r hr => portEvent_keeps s p _ hr, portEvent_items s p _,
      commit_exact _, commit_watchFlags _, portEvent_frame s p _⟩
    case lines =>
      rw [commit_permits]
      refine lineUp_of_cause (c := .busOff) ?_
      rw [causeStands, hline, hself]
      rfl
    case told =>
      rw [hport]
      exact portEvent_told s p _
  case on =>
    have hexec : exec (.busOffRecovered p) s =
        .next (commit (portEvent s p { s.ports.get p with link := .onBus })) :=
      congrArg (occurs · s) (if_pos hl)
    have hself : (portEvent s p { s.ports.get p with link := .onBus }).st.ports.get p =
        { s.ports.get p with link := .onBus } := PerPort.get_set_self _ _ _
    obtain ⟨⟨hlink, hinbound, hhand, htaking⟩, hflags⟩ :=
      commit_keeps (portEvent s p { s.ports.get p with link := .onBus }) p
    rw [hself] at hlink hinbound hhand htaking hflags
    exact ⟨_, hexec, hlink, hinbound, hhand, htaking, hflags, portEvent_told s p _,
      fun r hr => portEvent_keeps s p _ hr, portEvent_items s p _, commit_exact _, commit_watchFlags _,
      portEvent_frame s p _⟩

/-! ## How a notice joins a queue (R198, R199) -/

theorem offerNotice_fresh {q : PortState} {n : Notice} (hl : q.link = .onBus)
    (h : n.key ∉ q.notices.map Notice.key) :
    offerNotice q n = if Config.noticeRoom ≤ q.notices.length then
        { q with notices := q.notices.drop 1 ++ [n], flags := { q.flags with noticeDropped := true } }
      else { q with notices := q.notices ++ [n] } := by
  have hnone : q.notices.find? (fun m => m.key = n.key) = none := by
    rw [List.find?_eq_none]
    intro m hm hkey
    exact h (List.mem_map.2 ⟨m, hm, of_decide_eq_true hkey⟩)
  simp [offerNotice, hl, hnone]

theorem offerNotice_replaces {q : PortState} {n old : Notice} {pre post : List Notice} (hl : q.link = .onBus)
    (hd : (q.notices.map Notice.key).Nodup) (hq : q.notices = pre ++ old :: post) (hkey : old.key = n.key) :
    offerNotice q n = { q with notices := pre ++ post ++ [n.replacing old] } := by
  have hothers : ∀ m, m ∈ pre ∨ m ∈ post → m.key ≠ n.key := by
    rw [hq, List.map_append, List.map_cons, List.nodup_append, List.nodup_cons] at hd
    obtain ⟨-, ⟨hpost, -⟩, hpre⟩ := hd
    rintro m (hm | hm) hk
    · exact hpre m.key (List.mem_map_of_mem hm) old.key (by simp) (hk.trans hkey.symm)
    · exact hpost (List.mem_map.2 ⟨m, hm, hk.trans hkey.symm⟩)
  have hfind : q.notices.find? (fun m => m.key = n.key) = some old := by
    have hpre : pre.find? (fun m => m.key = n.key) = none :=
      List.find?_eq_none.2 fun m hm => by simpa using hothers m (.inl hm)
    simp [hq, List.find?_append, hpre, hkey]
  have hleft : (q.notices.filter fun m => m.key ≠ n.key) = pre ++ post := by
    have hpre : (pre.filter fun m => m.key ≠ n.key) = pre :=
      List.filter_eq_self.2 fun m hm => by simpa using hothers m (.inl hm)
    have hpost : (post.filter fun m => m.key ≠ n.key) = post :=
      List.filter_eq_self.2 fun m hm => by simpa using hothers m (.inr hm)
    rw [hq, List.filter_append, List.filter_cons_of_neg (by simp [hkey]), hpre, hpost]
  simp only [offerNotice, hl, if_true, hfind, hleft]

/-! ### The order of the notices of one event -/

theorem sortByKey_append {α : Type} (key : α → List Nat) (l : List α) (x : α) :
    sortByKey key (l ++ [x]) = insertByKey key x (sortByKey key l) := by
  simp [sortByKey, List.foldl_append]

theorem sortByKey_sorted {α : Type} (key : α → List Nat) (l : List α) :
    (sortByKey key l).Pairwise fun a b => keyLe (key a) (key b) = true := by
  induction l using List.reverseRecOn with
  | nil => exact .nil
  | append_singleton l x ih =>
    rw [sortByKey_append]
    exact insertByKey_sorted key x _ ih

theorem sortByKey_perm {α : Type} (key : α → List Nat) (l : List α) : (sortByKey key l).Perm l := by
  induction l using List.reverseRecOn with
  | nil => exact .refl _
  | append_singleton l x ih =>
    rw [sortByKey_append]
    exact (insertByKey_perm key x _).trans ((ih.cons x).trans (List.perm_append_singleton x l).symm)

/-- A new element goes behind those of its key. -/
theorem insertByKey_filter {α : Type} (key : α → List Nat) (x : α) (k : List Nat) (l : List α)
    (h : l.Pairwise fun a b => keyLe (key a) (key b) = true) :
    ((insertByKey key x l).filter fun y => key y = k) = (l ++ [x]).filter fun y => key y = k := by
  induction l with
  | nil => rfl
  | cons y rest ih =>
    obtain ⟨hhead, hrest⟩ := List.pairwise_cons.1 h
    by_cases hyx : keyLe (key y) (key x) = true
    · rw [insertByKey, if_pos hyx, List.cons_append, List.filter_cons, List.filter_cons, ih hrest]
    · rw [insertByKey, if_neg hyx]
      by_cases hxk : key x = k
      · have hlater : ((y :: rest).filter fun z => key z = k) = [] := by
          refine List.filter_eq_nil_iff.2 fun z hz hzk => hyx ?_
          have hzx : key z = key x := (of_decide_eq_true hzk).trans hxk.symm
          rcases List.mem_cons.1 hz with rfl | hz
          · rw [hzx]
            exact (keyLe_total (key x) (key x)).elim id id
          · exact hzx ▸ hhead z hz
        rw [List.filter_cons_of_pos (by simpa using hxk), List.filter_append, hlater,
          List.filter_cons_of_pos (by simpa using hxk)]
        rfl
      · have hnone : ([x].filter fun z => key z = k) = [] := List.filter_cons_of_neg (by simpa using hxk)
        rw [List.filter_cons_of_neg (by simpa using hxk), List.filter_append, hnone, List.append_nil]

theorem sortByKey_filter {α : Type} (key : α → List Nat) (k : List Nat) (l : List α) :
    ((sortByKey key l).filter fun y => key y = k) = l.filter fun y => key y = k := by
  induction l using List.reverseRecOn with
  | nil => rfl
  | append_singleton l x ih =>
    rw [sortByKey_append, insertByKey_filter key x k _ (sortByKey_sorted key l), List.filter_append, List.filter_append,
      ih]

/-! ### Where a notice goes -/

theorem sensorFault_goesTo (p : Port) (f : FaultId) (up : Bool) :
    (Notice.sensorFault f up).goesTo p = true ↔ p = .p4 ∨
      p = (match f with
        | .notReady .groutPressA | .overRange .groutPressA | .notReady .groutPressB | .overRange .groutPressB => .p2
        | .notReady .winchTension | .overRange .winchTension => .p1
        | _ => .p3) := by
  have hport : faultPort f = (match f with
      | .notReady .groutPressA | .overRange .groutPressA | .notReady .groutPressB | .overRange .groutPressB => .p2
      | .notReady .winchTension | .overRange .winchTension => .p1
      | _ => .p3) := by
    cases f with
    | notReady c => cases c <;> rfl
    | overRange c => cases c <;> rfl
    | extDisagree => rfl
    | loadDisagree => rfl
  rw [← hport]
  simp [Notice.goesTo, or_comm]

theorem goesTo_p4 (n : Notice) : n.goesTo .p4 = true := by
  cases n with
  | stageChanged a old new => cases new <;> rfl
  | limitExceeded u a v lim e => cases u <;> rfl
  | holdChanged | permitChanged | nextStep | holdReading | holdComplete | holdVoid | liftoffCaptured | sessionEnded
  | refusalReached | sensorFault | watchTripped => simp [Notice.goesTo]

theorem stageChanged_goesTo (p : Port) (a : AnchorId) (old : Option Stage) (new : Stage) :
    (Notice.stageChanged a old new).goesTo p = true ↔ p = .p4 ∨
      (p = .p1 ∧ new ∈ ([.planned, .tendonRunning, .tendonRejected, .tendonPlaced, .abandoned] : List Stage)) ∨
      (p = .p2 ∧ new ∈
        ([.tendonPlaced, .grouting, .groutShort, .groutInterrupted, .curing, .abandoned] : List Stage)) ∨
      (p = .p3 ∧ new ∈
        ([.stressable, .stressing, .stressInterrupted, .failed, .lockedOff, .abandoned] : List Stage)) := by
  cases new <;> cases p <;> simp [Notice.goesTo, stagePort]

/-- The session's notices go to P3 and P4 (R199). -/
theorem sessionNotice_goesTo {m : Notice}
    (h : (∃ a i, m = .nextStep a i) ∨ (∃ a u i n v e, m = .holdReading a u i n v e) ∨
        (∃ a u i k k2 n, m = .holdComplete a u i k k2 n) ∨ (∃ a u c n, m = .holdVoid a u c n) ∨
        (∃ a v u n, m = .liftoffCaptured a v u n) ∨ (∃ a how, m = .sessionEnded a how)) (p : Port) :
    m.goesTo p = true ↔ p = .p3 ∨ p = .p4 := by
  obtain ⟨a, i, rfl⟩ | ⟨a, u, i, n, v, e, rfl⟩ | ⟨a, u, i, k, k2, n, rfl⟩ | ⟨a, u, c, n, rfl⟩ | ⟨a, v, u, n, rfl⟩ |
    ⟨a, how, rfl⟩ := h
  all_goals simp [Notice.goesTo]

/-- Only a STAGE_CHANGED takes anything from the notice it replaces (R198). -/
theorem replacing_of_not_stage {n : Notice} (h : ∀ a previous new, n ≠ .stageChanged a previous new) (old : Notice) :
    n.replacing old = n := by
  cases n with
  | stageChanged a previous new => exact absurd rfl (h a previous new)
  | limitExceeded | holdChanged | permitChanged | nextStep | holdReading | holdComplete | holdVoid | liftoffCaptured
  | sessionEnded | refusalReached | sensorFault | watchTripped => rfl

/-- Settles O16: the cases of `offerNotice`, the laws of the sort, and the routing table row by row. -/
theorem noticesJoinTheTail : Obligations.NoticesJoinTheTail := by
  refine fun q n => ⟨fun hl hd => ⟨fun pre old post hq hkey => offerNotice_replaces hl hd hq hkey, fun hfresh hroom => ?_,
    fun hfresh hfull => ?_⟩, fun hl => by simp [offerNotice, hl], fun _ _ _ _ _ => rfl,
    fun old hn => replacing_of_not_stage hn old,
    fun ns => ⟨sortByKey_perm _ ns, ?_, fun k => sortByKey_filter Notice.key k ns⟩, fun _ _ _ => rfl, goesTo_p4 n,
    fun _ _ _ _ _ => rfl, fun p l up causes => by simp [Notice.goesTo], stageChanged_goesTo, sensorFault_goesTo,
    fun m hm p => sessionNotice_goesTo hm p, fun p u a v lim e => by cases u <;> simp [Notice.goesTo],
    fun p l a v r g => by simp [Notice.goesTo], fun p w act src v sec lv d => by simp [Notice.goesTo]⟩
  · rw [offerNotice_fresh hl hfresh, if_neg (by rw [Config.noticeRoom]; omega)]
  · exact (offerNotice_fresh hl hfresh).trans (if_pos hfull)
  · exact List.pairwise_map.2 (sortByKey_sorted _ ns)

end Sys2Proof.Machine
end

section
/-! SUPPORT. The reads: what each of them answers is the state as it stands (R28, R32, R143, R204). -/

namespace Sys2Proof.Machine

/-- What the taking of an accepted read does: its content is answered over a free number of continuation frames. -/
theorem take_read {k : ReqKind} {p : Port} {pl : List Byte} {s : State} {body : State → Reply} {content : ReadContent}
    (h : Asked k p pl s) (hb : body (takeFrame s p) = readReply (takeFrame s p) content) :
    ∃ t n, take k p pl body s = .next t ∧ 1 ≤ n ∧ n ≤ 32767 ∧ ReadOut k p content n [.freeIdx] s t := by
  refine ⟨_, freeFrames (takeFrame s p), take_asked body h, by simp [freeFrames],
    Nat.succ_le_of_lt (Nat.mod_lt _ (by decide)), ?_⟩
  rw [hb]
  refine read_commit h rfl rfl rfl rfl rfl rfl rfl ?_
  intro x hx
  cases x <;> simp_all [SamePart, readReply]

/-! ## Read Anchor (R28) -/

/-- The readings of a list by position, as the manual orders them. -/
theorem readingViews_eq (s : State) (places : List ListPlace) (n : Nat) :
    readingViews s (n + 1) places = (places.zipIdx n).map fun x =>
      { position := x.2 + 1
        body := match x.1 with | .entry i => (tableGet s.pool.used i).bind (·.body) | .lost => none } := by
  induction places generalizing n with
  | nil => rfl
  | cons place rest ih =>
    cases place with
    | lost => rw [readingViews, ih, List.zipIdx_cons, List.map_cons]
    | entry i => rw [readingViews, ih, List.zipIdx_cons, List.map_cons]

theorem readingsOf_eq (r : AnchorRec) : readingsOf r = (r.result.map (·.readings)).getD [] := by
  unfold readingsOf
  cases r.result <;> rfl

theorem readAnchorReply_found {pl : List Byte} {s : State} {r : AnchorRec} (h : findAnchor s (anchorField pl) = some r) :
    readAnchorReply pl s = readReply s (.anchor (anchorView s r)) := by
  rw [readAnchorReply, h]

theorem readAnchorReply_missing {pl : List Byte} {s : State} (h : findAnchor s (anchorField pl) = none) :
    readAnchorReply pl s = refuse s .noSuchAnchor := by
  rw [readAnchorReply, h]

/-! ## Read Section (R32) -/

theorem readSectionReply_inRange {pl : List Byte} {s : State} (h1 : 1 ≤ fieldNat pl 0 1) (h2 : fieldNat pl 0 1 ≤ 64) :
    readSectionReply pl s = readReply s (.sect (sectionView s (fieldNat pl 0 1))) := if_pos ⟨h1, h2⟩

theorem readSectionReply_outside {pl : List Byte} {s : State} (h : fieldNat pl 0 1 = 0 ∨ 64 < fieldNat pl 0 1) :
    readSectionReply pl s = refuse s .badValue := if_neg (by rw [Config.sectionCapacity]; omega)

theorem inSections_of_pos (s : State) {n : Nat} (h : 1 ≤ n) :
    inSections s n = decide (n ≤ s.config.params.sectionCount) := by
  simp [inSections, h]

/-! ## Read Session (R143) -/

theorem readSessionReply_open {s : State} {x : Session} (h : s.session = some x) :
    readSessionReply s = readReply s (.session (sessionView s x)) := by
  rw [readSessionReply, h]

theorem readSessionReply_idle {s : State} (h : s.session = none) :
    readSessionReply s = { ev := Ev.of s, body := .read (.status []) 0 } := by
  rw [readSessionReply, h]

theorem sessionPaused_open {s : State} {x : Session} (h : s.session = some x) : sessionPaused s = !s.permits.jack := by
  simp [sessionPaused, h]

/-- A read without continuation frames is answered alike whatever its content is. -/
theorem ReadOut.without_frames {k : ReqKind} {p : Port} {a : ReadContent} {parts : List Part} {s t : State}
    (h : ReadOut k p a 0 parts s t) (b : ReadContent) : ReadOut k p b 0 parts s t :=
  ⟨h.taken, h.flags, h.told, h.items, h.lines, h.watches, h.frame⟩

/-! ## Read Status (R204) -/

theorem lineCauses_takeFrame (s : State) (p : Port) (l : PLine) : lineCauses (takeFrame s p) l = lineCauses s l :=
  lineCauses_congr s (takeFrame s p) rfl rfl rfl rfl rfl rfl rfl
    (fun q => by
      rw [takeFrame_get]
      split <;> rfl)
    (fun _ => rfl) l

theorem HeadResult.worst_eq (h : HeadResult) (relocks : Nat) :
    (h.walkCount.map fun n => worstCase n relocks) =
      match h with
      | .valid _ n => some (n + 3 * relocks)
      | .invalid _ _ => none := by
  cases h <;> rfl

/-- A head as Read Status gives it, its result taken apart (R114). -/
theorem headInfo_eq (s : State) (c : TestClass) :
    headInfo s c =
      { head := s.schedule.heads.get c
        result := match s.results.get c with | .valid _ _ => .valid | .invalid f i => .invalid f i
        walkCount := match s.results.get c with | .valid _ n => some n | .invalid _ _ => none
        pathSteps := match s.results.get c with | .valid path _ => some path.length | .invalid _ _ => none
        walked := decide ((s.session.map (·.cls)) = some c) } := by
  have hwalked : headWalked s c = decide ((s.session.map (·.cls)) = some c) := by
    unfold headWalked
    cases s.session <;> simp
  rw [headInfo, hwalked]
  cases s.results.get c <;> rfl

/-- The condition of the chain, its rows spelled out (R167). -/
theorem chainCondition_eq (s : State) :
    chainCondition s =
      if chainMembers s.config.params.chainMode = [] then .none
      else if chainComplete s then .complete
      else if ((chainMembers s.config.params.chainMode).head?.map fun w => (s.watch.get w).armed) = some true then
        .waiting
      else if (chainMembers s.config.params.chainMode).any fun w => (s.watch.get w).tripped then .advanced
      else .waiting := by
  have hfirst : firstArmed s = true ↔
      ((chainMembers s.config.params.chainMode).head?.map fun w => (s.watch.get w).armed) = some true := by
    unfold firstArmed chainOf
    cases (chainMembers s.config.params.chainMode).head? <;> simp
  unfold chainCondition
  simp only [hfirst, List.isEmpty_iff, chainOf]
  rfl

theorem writer_views (w : Writer) :
    (writerName w, writtenItem w) =
      match w with
      | .idle => (.idle, none)
      | .writing j _ => (.writing, some (.item j.item))
      | .marking => (.writing, some .warningMark)
      | .held => (.held, none) := by
  cases w <;> rfl

/-- A port as the taking finds it: the frame being taken is no longer in the inbound queue (R194, R204). -/
theorem portView_takeFrame (s : State) (p q : Port) :
    portView ((takeFrame s p).ports.get q) =
      { link := (s.ports.get q).link, flags := (s.ports.get q).flags
        inbound := (s.ports.get q).inbound.length - (if q = p then 1 else 0)
        notices := (s.ports.get q).notices.length } := by
  rw [takeFrame_get]
  split <;> simp [portView]

theorem readStatusReply_above {pl : List Byte} {s : State} (h : 8 < fieldNat pl 0 1) :
    readStatusReply pl s = refuse s .badValue := if_pos h

/-- An accepted Read Status answers the parts of a list in which each stands at its number (R204). -/
theorem readStatusReply_parts {pl : List Byte} {s : State} {parts : List StatusPart} (h : fieldNat pl 0 1 ≤ 8)
    (hall : [1, 2, 3, 4, 5, 6, 7, 8].filterMap (statusPart s) = parts) :
    readStatusReply pl s =
      readReply s (.status (if fieldNat pl 0 1 = 0 then parts else (parts[fieldNat pl 0 1 - 1]?).toList)) := by
  subst hall
  rw [readStatusReply, if_neg (by omega)]
  split
  · rfl
  · congr 2
    generalize fieldNat pl 0 1 = n at *
    match n, h with
    | 1, _ => rfl
    | 2, _ => rfl
    | 3, _ => rfl
    | 4, _ => rfl
    | 5, _ => rfl
    | 6, _ => rfl
    | 7, _ => rfl
    | 8, _ => rfl

/-- Settles O11: each view of the model is the one spelled out, and no view looks at the frame that is taken but the one of
its own port. -/
theorem readsAnswerStateAsItStands : Obligations.ReadsAnswerStateAsItStands := by
  refine fun p pl s => ⟨fun r h hr => ?anchor, fun h h1 h2 => ?sect, fun x h hx => ?session, fun h hx => ?idle,
    fun h hle => ?status, fun h hr => take_refused h (readAnchorReply_missing hr),
    fun h hout => take_refused h (readSectionReply_outside hout), fun h hgt => take_refused h (readStatusReply_above hgt)⟩
  case anchor =>
    refine take_read h ((readAnchorReply_found (s := takeFrame s p) hr).trans ?_)
    rw [anchorView, readingViews_eq _ _ 0, readingsOf_eq]
    rfl
  case sect =>
    refine take_read h ((readSectionReply_inRange h1 h2).trans ?_)
    rw [sectionView, inSections_of_pos _ h1]
    rfl
  case session =>
    refine take_read h ((readSessionReply_open (s := takeFrame s p) hx).trans ?_)
    have hpaused : sessionPaused (takeFrame s p) = !s.permits.jack := sessionPaused_open hx
    simp only [sessionView, hpaused, stepInfo, sessionBand, sessionTarget, takeFrame_schedule]
    cases x.phase <;> cases stepAt s.schedule x.step <;> rfl
  case idle =>
    refine ⟨_, take_asked _ h, fun content => ?_⟩
    have hread : ReadOut .readSession p (.status []) 0 [] s
        (commit (putAnswer ReqKind.readSession.code p (readSessionReply (takeFrame s p)))) := by
      rw [readSessionReply_idle (s := takeFrame s p) hx]
      exact read_commit h rfl rfl rfl rfl rfl rfl rfl (takeFrame_frame s p)
    exact hread.without_frames content
  case status =>
    intro line measurement run pass head worst chain condition channel writer port parts
    refine take_read h (readStatusReply_parts hle ?_)
    have hhead : headInfo (takeFrame s p) = head := funext fun c => headInfo_eq (takeFrame s p) c
    have hworst : headWorst (takeFrame s p) = worst := funext fun c => HeadResult.worst_eq (s.results.get c) _
    have hcondition : chainCondition (takeFrame s p) = condition := chainCondition_eq (takeFrame s p)
    have hname : writerName (takeFrame s p).recorder.writer = writer.1 :=
      congrArg Prod.fst (writer_views s.recorder.writer)
    have hitem : writtenItem (takeFrame s p).recorder.writer = writer.2 :=
      congrArg Prod.snd (writer_views s.recorder.writer)
    have hpermits : (fun l => permitView (takeFrame s p) l) =
        fun l => { asserted := s.permits.get l, causes := lineCauses s l } := by
      funext l
      rw [permitView, lineCauses_takeFrame]
      rfl
    have hports : (takeFrame s p).ports.map (fun _ q => portView q) = s.ports.map fun q _ => port q := by
      have hview : ∀ q, portView ((takeFrame s p).ports.get q) = port q := portView_takeFrame s p
      simp only [PerPort.map]
      rw [← hview .p1, ← hview .p2, ← hview .p3, ← hview .p4]
      rfl
    have hchannels : (takeFrame s p).watch.map (watchView (takeFrame s p)) = s.watch.map fun w _ => channel w := rfl
    simp only [List.filterMap, statusPart, hhead, hworst, hcondition, hports, hchannels, hpermits, hname, hitem]
    rfl

end Sys2Proof.Machine
end

section
/-! SUPPORT. Requests that are refused by the first check that fails, requests that change the stage of an anchor, and the
statements about the anchor table (chapter 1). -/

namespace Sys2Proof.Machine

/-! ## The first check that fails (R196) -/

theorem firstFailing_cons (b : Bool) (c : Code) (rest : List (Bool × Code)) :
    firstFailing ((b, c) :: rest) = if b then some c else firstFailing rest := by
  unfold firstFailing
  cases b <;> rfl

@[simp] theorem firstFailing_nil : firstFailing [] = none := rfl

/-- A reply is that of a list of checks: the refusal by the first that fails, and where none fails, one of which `P`
holds. -/
def Checks (checks : List (Bool × Code)) (s : State) (P : Reply → Prop) (r : Reply) : Prop :=
  match firstFailing checks with
  | some c => r = refuse s c
  | none => P r

theorem Checks.none_left {s : State} {P : Reply → Prop} {r : Reply} (h : P r) : Checks [] s P r := h

theorem Checks.fails {b : Bool} {c : Code} {rest : List (Bool × Code)} {s : State} {P : Reply → Prop} (hb : b = true) :
    Checks ((b, c) :: rest) s P (refuse s c) := by
  rw [Checks, firstFailing_cons, if_pos hb]

theorem Checks.passes {b : Bool} {c : Code} {rest : List (Bool × Code)} {s : State} {P : Reply → Prop} {r : Reply}
    (hb : b = false) (h : Checks rest s P r) : Checks ((b, c) :: rest) s P r := by
  rw [Checks, firstFailing_cons, if_neg (by simp [hb])]
  exact h

theorem Checks.refused {checks : List (Bool × Code)} {s : State} {P : Reply → Prop} {r : Reply} {c : Code}
    (h : Checks checks s P r) (hc : firstFailing checks = some c) : r = refuse s c := by
  rwa [Checks, hc] at h

theorem Checks.accepted {checks : List (Bool × Code)} {s : State} {P : Reply → Prop} {r : Reply}
    (h : Checks checks s P r) (hc : firstFailing checks = none) : P r := by
  rwa [Checks, hc] at h

/-! ## A request that changes the stage of its anchor (R8) -/

/-- What a change of stage dirties when neither a count nor the STORE hold is touched. -/
theorem stageItems_plain {s : State} {old new : AnchorRec} (hl : old.stage ≠ .lockedOff) (hn : new.stage ≠ .lockedOff)
    (hs : old.stage ≠ .suspect) : stageItems s old new = [.image new.imageSlot] := by
  simp [stageItems, storeHoldGoes, hl, hn, hs]

/-- An exit from any stage but SUSPECT tells the change of stage alone. -/
theorem stageNotices_plain {s t : State} {old new : AnchorRec} (hs : old.stage ≠ .suspect) :
    stageNotices s t old new = [.stageChanged new.id (some old.stage) new.stage] := by
  simp [stageNotices, storeHoldGoes, hs]

/-- A change of stage leaves every other part of the state as its event found it. -/
theorem changeStage_keeps (u : State) (old new : AnchorRec) {x : Part} (h : x ∉ ([.anchors, .cure, .sections] : List Part)) :
    SamePart u ((Ev.of u).changeStage old new).st x := changeStage_frame (Ev.of u) old new x h

/-- An accepted request that prepares a state and changes a stage on it. -/
theorem stage_accepted {k : ReqKind} {p : Port} {pl : List Byte} {s u : State} {d : AnswerData} {parts : List Part}
    {old new : AnchorRec} (h : Asked k p pl s) (hu : OnlyChanges parts (takeFrame s p) u)
    (hparts : .ports ∉ parts ∧ .recorder ∉ parts ∧ .anchors ∉ parts ∧ .cure ∉ parts ∧ .sections ∉ parts ∧ .watch ∉ parts ∧
      .permits ∉ parts)
    (hold : findAnchor s (anchorField pl) = some old) (hid : new.id = old.id) (hz : s.sections.length = 64) :
    let t := commit (putAnswer k.code p (doneWith ((Ev.of u).changeStage old new) d))
    Accepted k p d (stageItems s old new) (stageNotices s t old new) (parts ++ [.anchors, .cure, .sections]) s t ∧
      StageMoved old new s t ∧ WatchFlagsSame s t := by
  have hall := accepted_stage (r := doneWith ((Ev.of u).changeStage old new) d) (extra := []) h rfl rfl rfl (by simp) hu
    hparts hold hid hz
  simpa using hall

/-! ## Define Anchor (R4, R5, R181) -/

/-- The first of the numbers from `i` on that is not taken. -/
theorem lowestFree_first (taken : List Nat) {m : Nat} (hm : m ∉ taken) :
    ∀ fuel i, i ≤ m → m < i + fuel → ∃ n, (lowestFree taken fuel i 1).head? = some n ∧ i ≤ n ∧ n ≤ m ∧ n ∉ taken ∧
      ∀ j, i ≤ j → j < n → j ∈ taken := by
  intro fuel
  induction fuel with
  | zero => intro i h1 h2; omega
  | succ fuel ih =>
    intro i h1 h2
    by_cases hi : i ∈ taken
    · have hne : i ≠ m := fun h => hm (h ▸ hi)
      obtain ⟨n, hhead, hin, hnm, hfree, hbelow⟩ := ih (i + 1) (by omega) (by omega)
      refine ⟨n, by simpa [lowestFree, hi] using hhead, by omega, hnm, hfree, fun j hj1 hj2 => ?_⟩
      by_cases hji : j = i
      · exact hji ▸ hi
      · exact hbelow j (by omega) hj2
    · exact ⟨i, by simp [lowestFree, hi], le_refl i, h1, hi, fun j hj1 hj2 => by omega⟩

/-- Fewer than 512 numbers leave one below 512 out. -/
theorem exists_free_below (taken : List Nat) (h : taken.length < 512) : ∃ m, m < 512 ∧ m ∉ taken := by
  have hcard : taken.toFinset.card < (Finset.range 512).card := by
    rw [Finset.card_range]
    exact lt_of_le_of_lt taken.toFinset_card_le h
  obtain ⟨m, hm, hfree⟩ := Finset.exists_mem_notMem_of_card_lt_card hcard
  exact ⟨m, Finset.mem_range.1 hm, fun hmem => hfree (List.mem_toFinset.2 hmem)⟩

/-- The slot of a new record is the lowest that no record holds (R181). -/
theorem freeImageSlot_spec {s : State} (h : s.anchors.length < 512) :
    freeImageSlot s < 512 ∧ (∀ r ∈ s.anchors, r.imageSlot ≠ freeImageSlot s) ∧
      ∀ n, n < freeImageSlot s → ∃ r ∈ s.anchors, r.imageSlot = n := by
  obtain ⟨m, hm, hfree⟩ := exists_free_below (s.anchors.map (·.imageSlot)) (by simpa using h)
  obtain ⟨n, hhead, -, hnm, hnot, hbelow⟩ :=
    lowestFree_first (s.anchors.map (·.imageSlot)) hfree Config.maxAnchors 0 (by omega)
      (by rw [Config.maxAnchors]; omega)
  have hslot : freeImageSlot s = n := by rw [freeImageSlot, hhead, Option.getD_some]
  rw [hslot]
  exact ⟨by omega, fun r hr heq => hnot (List.mem_map.2 ⟨r, hr, heq⟩), fun j hj => by
    simpa using List.mem_map.1 (hbelow j (by omega) hj)⟩

theorem defineAnchorReply_plans {pl : List Byte} {s : State} {d : Design} (hd : designOfPayload s pl = some d)
    (hf : findAnchor s (anchorField pl) = none) (hl : s.anchors.length < 512) :
    defineAnchorReply pl s = done (createAnchor s (plannedRecord (anchorField pl) (freeImageSlot s) d)) := by
  simp only [defineAnchorReply, hd, hf]
  exact if_neg (Nat.not_le.2 hl)

theorem defineAnchorReply_full {pl : List Byte} {s : State} {d : Design} (hd : designOfPayload s pl = some d)
    (hf : findAnchor s (anchorField pl) = none) (hl : 512 ≤ s.anchors.length) :
    defineAnchorReply pl s = refuse s .registerFull := by
  simp only [defineAnchorReply, hd, hf]
  exact if_pos hl

theorem defineAnchorReply_suspect {pl : List Byte} {s : State} {d : Design} {r : AnchorRec}
    (hd : designOfPayload s pl = some d) (hf : findAnchor s (anchorField pl) = some r) (hr : r.stage = .suspect) :
    defineAnchorReply pl s = done ((Ev.of s).writeAnchor { r with design := some d }) := by
  simp only [defineAnchorReply, hd, hf]
  exact if_pos hr

theorem defineAnchorReply_held {pl : List Byte} {s : State} {d : Design} {r : AnchorRec}
    (hd : designOfPayload s pl = some d) (hf : findAnchor s (anchorField pl) = some r) (hr : r.stage ≠ .suspect) :
    defineAnchorReply pl s = refuse s .alreadyDefined := by
  simp only [defineAnchorReply, hd, hf]
  exact if_neg hr

theorem defineAnchorReply_bad {pl : List Byte} {s : State} (hd : designOfPayload s pl = none) :
    defineAnchorReply pl s = refuse s .badValue := by
  simp only [defineAnchorReply, hd]

theorem insertAnchor_length (r : AnchorRec) (l : List AnchorRec) : (insertAnchor r l).length = l.length + 1 :=
  (insert_perm r l).length_eq

/-- A record written under its own identity: it is found, and every other record is the same. -/
theorem findAnchor_written {s t : State} {r new : AnchorRec} {a : AnchorId} (hf : findAnchor s a = some r)
    (hid : new.id = r.id) (ht : t.anchors = replaceAnchor s.anchors new) :
    findAnchor t r.id = some new ∧ OtherAnchorsSame r.id s t := by
  have ha : r.id = a := findAnchor_id hf
  constructor
  · rw [findAnchor, ht]
    exact find_replace_self _ r new (by rw [ha]; exact hf) hid
  · intro b hb
    rw [findAnchor, findAnchor, ht]
    exact find_replace_ne _ new b (by rwa [hid])

/-- Settles O18: the record of `plannedRecord` in the lowest free slot, the design of a SUSPECT one, and the three
refusals. -/
theorem defineAnchorPlansRecord : Obligations.DefineAnchorPlansRecord := by
  refine fun p pl s h => ⟨fun d hd hf hl => ?plans, fun d r hd hf hr => ?suspect,
    fun hd => take_refused h (defineAnchorReply_bad hd), fun d r hd hf hr => take_refused h (defineAnchorReply_held hd hf hr),
    fun d hd hf hl => take_refused h (defineAnchorReply_full hd hf hl)⟩
  case plans =>
    obtain ⟨hslot, hfree, hlow⟩ := freeImageSlot_spec hl
    have hstep := take_done h (defineAnchorReply_plans (s := takeFrame s p) hd hf hl)
    have hnew : ∀ t : State, t.anchors =
        insertAnchor (plannedRecord (anchorField pl) (freeImageSlot s) d) s.anchors →
        findAnchor t (anchorField pl) = some (plannedRecord (anchorField pl) (freeImageSlot s) d) ∧
          OtherAnchorsSame (anchorField pl) s t ∧ t.anchors.length = s.anchors.length + 1 := by
      intro t ht
      refine ⟨?_, fun b hb => ?_, by rw [ht, insertAnchor_length]⟩
      · rw [findAnchor, ht]
        exact find_insert_self s.anchors (plannedRecord (anchorField pl) (freeImageSlot s) d) hf
      · rw [findAnchor, findAnchor, ht]
        exact find_insert_ne s.anchors _ b hb
    obtain ⟨hfound, hothers, hlength⟩ := hnew (commit (putAnswer ReqKind.defineAnchor.code p
      (done (createAnchor (takeFrame s p) (plannedRecord (anchorField pl) (freeImageSlot s) d))))) rfl
    refine ⟨_, _, hstep, ?accepted, hslot, hfree, hlow, hfound, hothers, hlength, putAnswer_watches rfl⟩
    case accepted =>
      refine accepted_event h rfl rfl ?_ (by simp) (by simp) (by simp)
      intro x hx
      cases x <;> simp_all [SamePart, createAnchor]
  case suspect =>
    have hstep := take_done h (defineAnchorReply_suspect (s := takeFrame s p) hd hf hr)
    obtain ⟨hfound, hothers⟩ := findAnchor_written (new := { r with design := some d })
      (t := commit (putAnswer ReqKind.defineAnchor.code p
        (done ((Ev.of (takeFrame s p)).writeAnchor { r with design := some d })))) hf rfl (by simp)
    have ha : r.id = anchorField pl := findAnchor_id hf
    exact ⟨_, hstep, accepted_event h rfl rfl (writeAnchor_frame _ _) (by simp) (by simp) (by simp), ha ▸ hfound,
      ha ▸ hothers, putAnswer_watches rfl⟩

/-! ## Set Anchor Geometry (R6) -/

theorem setAnchorGeometryReply_missing {pl : List Byte} {s : State} (hf : findAnchor s (anchorField pl) = none) :
    setAnchorGeometryReply pl s = refuse s .noSuchAnchor := by
  simp only [setAnchorGeometryReply, hf]

theorem setAnchorGeometryReply_stage {pl : List Byte} {s : State} {r : AnchorRec}
    (hf : findAnchor s (anchorField pl) = some r) (hp : r.stage ≠ .planned) (hs : r.stage ≠ .suspect) :
    setAnchorGeometryReply pl s = refuse s .wrongStage := by
  simp only [setAnchorGeometryReply, hf]
  exact if_pos ⟨hp, hs⟩

theorem setAnchorGeometryReply_bad {pl : List Byte} {s : State} {r : AnchorRec}
    (hf : findAnchor s (anchorField pl) = some r) (hr : r.stage = .planned ∨ r.stage = .suspect)
    (hg : geometryOfPayload pl = none) : setAnchorGeometryReply pl s = refuse s .badValue := by
  simp only [setAnchorGeometryReply, hf, hg]
  exact if_neg (by tauto)

theorem setAnchorGeometryReply_stores {pl : List Byte} {s : State} {r : AnchorRec} {g : Geometry}
    (hf : findAnchor s (anchorField pl) = some r) (hr : r.stage = .planned ∨ r.stage = .suspect)
    (hg : geometryOfPayload pl = some g) :
    setAnchorGeometryReply pl s = done ((Ev.of s).writeAnchor { r with geometry := some g }) := by
  simp only [setAnchorGeometryReply, hf, hg]
  exact if_neg (by tauto)

/-- Settles O19: one clause per branch of the reply. -/
theorem setAnchorGeometryStores : Obligations.SetAnchorGeometryStores := by
  refine fun p pl s h => ⟨fun hf => take_refused h (setAnchorGeometryReply_missing hf), fun r hf =>
    ⟨fun g hr hg => ?_, fun hp hs => take_refused h (setAnchorGeometryReply_stage hf hp hs),
      fun hr hg => take_refused h (setAnchorGeometryReply_bad hf hr hg)⟩⟩
  obtain ⟨hfound, hothers⟩ := findAnchor_written (new := { r with geometry := some g })
    (t := commit (putAnswer ReqKind.setAnchorGeometry.code p
      (done ((Ev.of (takeFrame s p)).writeAnchor { r with geometry := some g })))) hf rfl (by simp)
  exact ⟨_, take_done h (setAnchorGeometryReply_stores (s := takeFrame s p) hf hr hg),
    accepted_event h rfl rfl (writeAnchor_frame _ _) (by simp) (by simp) (by simp), hfound, hothers,
    putAnswer_watches rfl⟩

/-! ## Delete Anchor (R7) -/

theorem deleteAnchorReply_missing {pl : List Byte} {s : State} (hf : findAnchor s (anchorField pl) = none) :
    deleteAnchorReply pl s = refuse s .noSuchAnchor := by
  simp only [deleteAnchorReply, hf]

theorem deleteAnchorReply_stage {pl : List Byte} {s : State} {r : AnchorRec}
    (hf : findAnchor s (anchorField pl) = some r) (hp : r.stage ≠ .planned) (ha : r.stage ≠ .abandoned) :
    deleteAnchorReply pl s = refuse s .wrongStage := by
  simp only [deleteAnchorReply, hf]
  exact if_neg (by tauto)

theorem deleteAnchorReply_removes {pl : List Byte} {s : State} {r : AnchorRec}
    (hf : findAnchor s (anchorField pl) = some r) (hr : r.stage = .planned ∨ r.stage = .abandoned) :
    deleteAnchorReply pl s =
      done ((Ev.of { s with anchors := eraseAnchor s.anchors r.id }).dirtied .directory) := by
  simp only [deleteAnchorReply, hf]
  exact if_pos hr

/-- Settles O20: the record leaves the table and the directory alone is dirtied. -/
theorem deleteAnchorRemovesRecord : Obligations.DeleteAnchorRemovesRecord := by
  refine fun p pl s h => ⟨fun hf => take_refused h (deleteAnchorReply_missing hf), fun r hf =>
    ⟨fun hr => ?_, fun hp ha => take_refused h (deleteAnchorReply_stage hf hp ha)⟩⟩
  refine ⟨_, take_done h (deleteAnchorReply_removes (s := takeFrame s p) hf hr), ?accepted,
    find_erase_self s.anchors r.id, fun b hb => find_erase_ne s.anchors r.id b hb, putAnswer_watches rfl⟩
  refine accepted_event h rfl rfl ?_ (by simp) (by simp) (by simp)
  intro x hx
  cases x <;> simp_all [SamePart]

/-! ## Abandon Anchor (R16) -/

theorem isActive_iff (st : Stage) :
    st.isActive = true ↔ st = .tendonRunning ∨ st = .grouting ∨ st = .stressing := by
  cases st <;> simp [Stage.isActive]

theorem abandonAnchorReply_missing {pl : List Byte} {s : State} (hf : findAnchor s (anchorField pl) = none) :
    abandonAnchorReply pl s = refuse s .noSuchAnchor := by
  simp only [abandonAnchorReply, hf]

theorem abandonAnchorReply_active {pl : List Byte} {s : State} {r : AnchorRec}
    (hf : findAnchor s (anchorField pl) = some r) (hr : r.stage.isActive = true) :
    abandonAnchorReply pl s = refuse s .anchorActive := by
  simp only [abandonAnchorReply, hf]
  exact if_pos hr

theorem abandonAnchorReply_again {pl : List Byte} {s : State} {r : AnchorRec}
    (hf : findAnchor s (anchorField pl) = some r) (hr : r.stage = .abandoned) :
    abandonAnchorReply pl s = refuse s .wrongStage := by
  simp [abandonAnchorReply, hf, hr, Stage.isActive]

theorem abandonAnchorReply_abandons {pl : List Byte} {s : State} {r : AnchorRec}
    (hf : findAnchor s (anchorField pl) = some r) (hr : r.stage.isActive = false) (ha : r.stage ≠ .abandoned) :
    abandonAnchorReply pl s =
      done ((Ev.of (releaseReadings s (readingsOf r))).changeStage r (abandonedRecord r (fieldNat pl 2 1))) := by
  simp [abandonAnchorReply, hf, hr, ha]

/-- Settles O21: the readings are released and the stage changed on the state so left. -/
theorem abandonAnchorReleasesReadings : Obligations.AbandonAnchorReleasesReadings := by
  refine fun p pl s h => ⟨fun hf => take_refused h (abandonAnchorReply_missing hf), fun r hf =>
    ⟨fun hz hrun hgrout hstress hab => ?_, fun hr => take_refused h (abandonAnchorReply_active hf ((isActive_iff _).2 hr)),
      fun hr => take_refused h (abandonAnchorReply_again hf hr)⟩⟩
  have hidle : r.stage.isActive = false := by
    rw [← Bool.not_eq_true, isActive_iff]
    tauto
  obtain ⟨haccepted, hmoved, hwatch⟩ := stage_accepted (d := .none) h
    (releaseReadings_frame (takeFrame s p) (readingsOf r)) (by simp) hf
    (show (abandonedRecord r (fieldNat pl 2 1)).id = r.id from rfl) hz.1
  have hpool := changeStage_keeps (releaseReadings (takeFrame s p) (readingsOf r)) r
    (abandonedRecord r (fieldNat pl 2 1)) (x := .pool) (by simp)
  refine ⟨_, take_done h (abandonAnchorReply_abandons (s := takeFrame s p) hf hidle hab), haccepted, hmoved,
    ?reserved, ?used, hwatch⟩
  case reserved => exact (congrArg Pool.reserved hpool :)
  case used => exact (congrArg Pool.used hpool :)

/-! ## Retest Anchor (R17) -/

theorem retestAnchorReply_missing {pl : List Byte} {s : State} (hf : findAnchor s (anchorField pl) = none) :
    retestAnchorReply pl s = refuse s .noSuchAnchor := by
  simp only [retestAnchorReply, hf]

theorem retestAnchorReply_stage {pl : List Byte} {s : State} {r : AnchorRec}
    (hf : findAnchor s (anchorField pl) = some r) (h1 : r.stage ≠ .failed) (h2 : r.stage ≠ .lockedOff) :
    retestAnchorReply pl s = refuse s .wrongStage := by
  simp only [retestAnchorReply, hf]
  exact if_neg (by tauto)

theorem retestAnchorReply_returns {pl : List Byte} {s : State} {r : AnchorRec}
    (hf : findAnchor s (anchorField pl) = some r) (hr : r.stage = .failed ∨ r.stage = .lockedOff) :
    retestAnchorReply pl s =
      done ((Ev.of (releaseReadings s (readingsOf r))).changeStage r (retestedRecord r)) := by
  simp only [retestAnchorReply, hf]
  exact if_pos hr

/-- Settles O22: as Abandon Anchor, to STRESSABLE and without the test result. -/
theorem retestAnchorReturnsToStressable : Obligations.RetestAnchorReturnsToStressable := by
  refine fun p pl s h => ⟨fun hf => take_refused h (retestAnchorReply_missing hf), fun r hf =>
    ⟨fun hz hr => ?_, fun h1 h2 => take_refused h (retestAnchorReply_stage hf h1 h2)⟩⟩
  obtain ⟨haccepted, hmoved, hwatch⟩ := stage_accepted (d := .none) h
    (releaseReadings_frame (takeFrame s p) (readingsOf r)) (by simp) hf
    (show (retestedRecord r).id = r.id from rfl) hz.1
  have hpool := changeStage_keeps (releaseReadings (takeFrame s p) (readingsOf r)) r (retestedRecord r) (x := .pool)
    (by simp)
  rw [stageNotices_plain (by rcases hr with hr | hr <;> simp [hr])] at haccepted
  refine ⟨_, take_done h (retestAnchorReply_returns (s := takeFrame s p) hf hr), haccepted, hmoved, ?reserved, ?used,
    hwatch⟩
  case reserved => exact (congrArg Pool.reserved hpool :)
  case used => exact (congrArg Pool.used hpool :)

/-! ## Cure expiry (R25) -/

theorem cureExpiryEvent_idle {s : State} (h : s.clock.time = none ∨ s.cure = []) : cureExpiryEvent s = none := by
  unfold cureExpiryEvent
  rcases h with h | h
  · simp [h]
  · rw [h]
    cases s.clock.time <;> rfl

theorem cureExpiryEvent_early {s : State} {now : Nat} {c : CureEntry} {rest : List CureEntry}
    (ht : s.clock.time = some now) (hc : s.cure = c :: rest) (h : now < c.due) : cureExpiryEvent s = none := by
  simp only [cureExpiryEvent, ht, hc]
  exact if_neg (Nat.not_le.2 h)

theorem cureExpiryEvent_due {s : State} {now : Nat} {c : CureEntry} {rest : List CureEntry} {r : AnchorRec}
    (ht : s.clock.time = some now) (hc : s.cure = c :: rest) (h : c.due ≤ now) (hf : findAnchor s c.id = some r) :
    cureExpiryEvent s = some ((Ev.of s).changeStage r { r with stage := .stressable, cureDue := none }) := by
  simp only [cureExpiryEvent, ht, hc, hf]
  exact if_pos h

/-- Settles O24: the head of the cure list is due, or nothing occurs. -/
theorem cureExpiryMakesStressable : Obligations.CureExpiryMakesStressable := by
  refine ⟨fun s h => congrArg (occurs · s) (cureExpiryEvent_idle h), fun s now c rest ht hc =>
    ⟨fun r hdue hf hst h1 h2 => ?_, fun h => congrArg (occurs · s) (cureExpiryEvent_early ht hc h)⟩⟩
  intro new
  have hid : new.id = c.id := findAnchor_id (r := r) hf
  obtain ⟨hoccurred, hmoved, hwatch⟩ := occurred_stage (e := (Ev.of s).changeStage r new) (extra := [])
    (parts := []) rfl rfl (by simp) (OnlyChanges.refl _ s) (by simp) (by rw [hid]; exact hf) (by rwa [hid]) (by rwa [hid])
  rw [stageItems_plain (by simp [hst]) (by simp [new]) (by simp [hst]), stageNotices_plain (by simp [hst]), hid, hst]
    at hoccurred
  refine ⟨_, congrArg (occurs · s) (cureExpiryEvent_due ht hc hdue hf), hoccurred, hmoved, ?_, hwatch⟩
  rw [hmoved.cure]
  simp [movedCure, hst, new, ← findAnchor_id hf]

end Sys2Proof.Machine
end

section
/-! SUPPORT. Settle Anchor (R18 to R21) and the rig monitor's requests (R71 to R78). -/

namespace Sys2Proof.Machine

/-! ## Settle Anchor (R18 to R21) -/

theorem settleAnchorReply_missing {pl : List Byte} {s : State} (hf : findAnchor s (anchorField pl) = none) :
    settleAnchorReply pl s = refuse s .noSuchAnchor := by
  simp only [settleAnchorReply, hf]

theorem settleAnchorReply_stage {pl : List Byte} {s : State} {r : AnchorRec}
    (hf : findAnchor s (anchorField pl) = some r) (hr : r.stage.isSettleable = false) :
    settleAnchorReply pl s = refuse s .wrongStage := by
  simp [settleAnchorReply, hf, hr]

theorem settleAnchorReply_code {pl : List Byte} {s : State} {r : AnchorRec}
    (hf : findAnchor s (anchorField pl) = some r) (hr : r.stage.isSettleable = true)
    (hc : stageOfCode (fieldNat pl 2 1) = none) : settleAnchorReply pl s = refuse s .badValue := by
  simp [settleAnchorReply, hf, hr, hc]

/-- The event of an accepted Settle Anchor. -/
def settledEvent (pl : List Byte) (s : State) (r : AnchorRec) (dest : Stage) : Ev :=
  (Ev.of (settledFree (settledPool s r dest) r dest)).changeStage r
    (settledRecord s r dest (fieldNat pl 3 1) (fieldNat pl 4 4))

/-- The last three checks of R18, and the event where none fails. -/
theorem settleAnchorReply_checks {pl : List Byte} {s : State} {r : AnchorRec} {dest : Stage}
    (hf : findAnchor s (anchorField pl) = some r) (hr : r.stage.isSettleable = true)
    (hc : stageOfCode (fieldNat pl 2 1) = some dest) :
    Checks [(!settleAllowed r.stage dest, .badValue),
      (decide (r.stage = .suspect) && (r.design.isNone || r.geometry.isNone), .geometryUnset),
      (settleNeedsClock r.stage dest && s.clock.time.isNone, .clockUnset)] s
      (fun reply => settleAllowed r.stage dest = true ∧ reply = done (settledEvent pl s r dest))
      (settleAnchorReply pl s) := by
  simp only [settleAnchorReply, hf, hr, hc, Bool.not_true, Bool.false_eq_true, if_false]
  split
  next h1 => exact .fails h1
  next h1 =>
    refine .passes (by simpa using h1) ?_
    split
    next h2 => exact .fails (by simpa using h2)
    next h2 =>
      refine .passes (by simpa [Option.isSome_iff_ne_none] using h2) ?_
      split
      next h3 => exact .fails (by simpa using h3)
      next h3 =>
        exact .passes (by simpa [Option.isSome_iff_ne_none] using h3) (.none_left ⟨by simpa using h1, rfl⟩)

/-- A decision moves the stage and at most the tendon record, the due time and the test result. -/
theorem decidedRecord_shape (s : State) (r : AnchorRec) (dest : Stage) (carried : Nat) :
    decidedRecord s r dest carried =
      { r with
        stage := dest, tendon := (decidedRecord s r dest carried).tendon,
        cureDue := (decidedRecord s r dest carried).cureDue, result := (decidedRecord s r dest carried).result } := by
  unfold decidedRecord
  split <;> simp [retestedRecord]

/-- The rows of the table of R18: a decision is allowed from one of five stages. -/
theorem settleAllowed_cases {from_ dest : Stage} (h : settleAllowed from_ dest = true) :
    (from_ = .tendonRejected ∧ (dest = .planned ∨ dest = .tendonPlaced)) ∨
      (from_ = .groutInterrupted ∧ (dest = .curing ∨ dest = .groutShort)) ∨
      (from_ = .groutShort ∧ dest = .curing) ∨
      (from_ = .stressInterrupted ∧ (dest = .stressable ∨ dest = .failed)) ∨
      (from_ = .suspect ∧ (dest = .planned ∨ dest = .tendonPlaced ∨ dest = .curing ∨ dest = .stressable ∨
        dest = .lockedOff)) := by
  unfold settleAllowed at h
  split at h <;> simp_all

/-- What a decision does to the tendon record (R12, R19). -/
theorem decidedRecord_tendon (s : State) {r : AnchorRec} {dest : Stage} (carried : Nat)
    (h : settleAllowed r.stage dest = true) :
    (dest = .planned → (decidedRecord s r dest carried).tendon = none) ∧
      (dest ≠ .planned → (r.stage = .tendonRejected ∨ r.stage = .suspect) →
        (decidedRecord s r dest carried).tendon = declaredTendon s r) ∧
      (r.stage ≠ .tendonRejected → r.stage ≠ .suspect → (decidedRecord s r dest carried).tendon = r.tendon) := by
  obtain ⟨hr, rfl | rfl⟩ | ⟨hr, rfl | rfl⟩ | ⟨hr, rfl⟩ | ⟨hr, rfl | rfl⟩ | ⟨hr, rfl | rfl | rfl | rfl | rfl⟩ :=
    settleAllowed_cases h
  all_goals simp [decidedRecord, retestedRecord, hr]

/-- What a decision does to the cure due time (R19, R21). -/
theorem decidedRecord_cureDue (s : State) {r : AnchorRec} {dest : Stage} (carried : Nat)
    (h : settleAllowed r.stage dest = true) :
    (dest ≠ .curing → (decidedRecord s r dest carried).cureDue = r.cureDue) ∧
      (dest = .curing → r.stage = .suspect → (decidedRecord s r dest carried).cureDue = some carried) ∧
      (dest = .curing → r.stage ≠ .suspect →
        (decidedRecord s r dest carried).cureDue = some (settleDue s (stampTime s))) := by
  obtain ⟨hr, rfl | rfl⟩ | ⟨hr, rfl | rfl⟩ | ⟨hr, rfl⟩ | ⟨hr, rfl | rfl⟩ | ⟨hr, rfl | rfl | rfl | rfl | rfl⟩ :=
    settleAllowed_cases h
  all_goals simp [decidedRecord, retestedRecord, hr]

/-- What a decision does to the test result (R20). -/
theorem decidedRecord_result (s : State) {r : AnchorRec} {dest : Stage} (carried : Nat)
    (h : settleAllowed r.stage dest = true) :
    (r.stage = .stressInterrupted → dest = .stressable → (decidedRecord s r dest carried).result = none) ∧
      (r.stage = .stressInterrupted → dest = .failed → (decidedRecord s r dest carried).result =
        r.result.map fun x => { x with verdict := some .failNotEvaluable }) ∧
      (r.stage ≠ .stressInterrupted → (decidedRecord s r dest carried).result = r.result) := by
  obtain ⟨hr, rfl | rfl⟩ | ⟨hr, rfl | rfl⟩ | ⟨hr, rfl⟩ | ⟨hr, rfl | rfl⟩ | ⟨hr, rfl | rfl | rfl | rfl | rfl⟩ :=
    settleAllowed_cases h
  all_goals simp [decidedRecord, retestedRecord, hr]

/-- The due time formed from the present time lies in the clock's range, and is the sum where that does (log 13). -/
theorem settleDue_bounds (s : State) (now : Nat) :
    settleDue s now ≤ 4294967295 ∧
      (now + s.config.params.curePeriod * 60 ≤ 4294967295 → settleDue s now = now + s.config.params.curePeriod * 60) := by
  by_cases h : now + s.config.params.curePeriod * 60 ≤ Config.maxClock
  · rw [settleDue, if_pos h]
    exact ⟨h, fun _ => rfl⟩
  · rw [settleDue, if_neg h]
    exact ⟨Nat.le_of_lt_succ (Nat.mod_lt _ (Nat.succ_pos _)), fun hle => absurd hle h⟩

theorem settledFree_pool (s : State) (r : AnchorRec) (dest : Stage) : (settledFree s r dest).pool = s.pool := by
  unfold settledFree
  split <;> rfl

/-- The pool through a settlement: the readings of a test given up are released, and otherwise nothing is (R20). -/
theorem settledPool_pool (s : State) (r : AnchorRec) (dest : Stage) :
    (r.stage = .stressInterrupted → dest = .stressable →
        (settledPool s r dest).pool.used = s.pool.used.filter fun e => !(readingsOf r).contains (.entry e.index)) ∧
      (¬ (r.stage = .stressInterrupted ∧ dest = .stressable) → (settledPool s r dest).pool = s.pool) := by
  refine ⟨fun h1 h2 => ?_, fun h => ?_⟩
  · rw [settledPool, if_pos ⟨h1, h2⟩]
    rfl
  · rw [settledPool, if_neg h]

/-- Settles O23: the record is that of `settledRecord`, carried through the tables by `changeStage`. -/
theorem settleAnchorCarriesOutDecision : Obligations.SettleAnchorCarriesOutDecision := by
  refine fun p pl s h => ⟨fun hf => take_refused h (settleAnchorReply_missing hf), fun r hf =>
    ⟨fun hr => take_refused h (settleAnchorReply_stage hf hr), fun hr hc => take_refused h (settleAnchorReply_code hf hr hc),
      fun dest hc hr => ?_⟩⟩
  have hchecks := settleAnchorReply_checks (s := takeFrame s p) hf hr hc
  refine ⟨fun c hfail => take_refused h (hchecks.refused hfail), fun hpass hz => ?_⟩
  obtain ⟨hallowed, hreply⟩ := hchecks.accepted hpass
  have hid : (settledRecord (takeFrame s p) r dest (fieldNat pl 3 1) (fieldNat pl 4 4)).id = r.id := by
    rw [settledRecord, decidedRecord_shape]
  obtain ⟨haccepted, hmoved, hwatch⟩ := stage_accepted (d := .none) h (settledState_frame (takeFrame s p) r dest)
    (by simp) hf hid hz.1
  obtain ⟨htendon1, htendon2, htendon3⟩ := decidedRecord_tendon (takeFrame s p) (fieldNat pl 4 4) hallowed
  obtain ⟨hdue1, hdue2, hdue3⟩ := decidedRecord_cureDue (takeFrame s p) (fieldNat pl 4 4) hallowed
  obtain ⟨hresult1, hresult2, hresult3⟩ := decidedRecord_result (takeFrame s p) (fieldNat pl 4 4) hallowed
  have hpool : (commit (putAnswer ReqKind.settleAnchor.code p (done (settledEvent pl (takeFrame s p) r dest)))).pool =
      (settledPool (takeFrame s p) r dest).pool := by
    rw [commit_pool, putAnswer_pool]
    exact (changeStage_keeps _ r _ (x := .pool) (by simp)).trans (settledFree_pool _ r dest)
  obtain ⟨hreleased, hkept⟩ := settledPool_pool (takeFrame s p) r dest
  refine ⟨_, settledRecord (takeFrame s p) r dest (fieldNat pl 3 1) (fieldNat pl 4 4), take_done h hreply, ?shape,
    haccepted, hmoved, hwatch, htendon1, htendon2, htendon3, hdue1, hdue2, fun now hd hs hnow => ?due,
    fun h1 h2 => ⟨hresult1 h1 h2, ?used⟩, hresult2, fun hnot => hpool.trans (hkept hnot), hresult3⟩
  case shape =>
    rw [settledRecord]
    conv_lhs => rw [decidedRecord_shape]
  case due =>
    have hstamp : stampTime (takeFrame s p) = now := by simp [stampTime, hnow]
    obtain ⟨hle, heq⟩ := settleDue_bounds (takeFrame s p) now
    exact ⟨_, hstamp ▸ hdue3 hd hs, hle, heq⟩
  case used => exact (congrArg Pool.used hpool).trans (hreleased h1 h2)

/-! ## Tendon Start (R71, R72) -/

theorem tendonStartReply_missing {pl : List Byte} {s : State} (hf : findAnchor s (anchorField pl) = none) :
    tendonStartReply pl s = refuse s .noSuchAnchor := by
  simp only [tendonStartReply, hf]

/-- The checks of R71 in their order, and the event where none fails. -/
theorem tendonStartReply_checks {pl : List Byte} {s : State} {r : AnchorRec}
    (hf : findAnchor s (anchorField pl) = some r) :
    Checks [(s.rig.isSome, .rigBusy), (s.clock.time.isNone, .clockUnset), (decide (r.stage ≠ .planned), .wrongStage),
      (r.geometry.isNone, .geometryUnset), (anchorZoneClosed s r, .zoneClosed),
      (sectionHeld s r.id.sect, .sectionHeld), (rigFaulted s.meas, .sensorFault)] s
      (fun reply => r.stage = .planned ∧ ∀ g now, s.clock.time = some now → r.geometry = some g →
        reply = done (tendonStartEvent s r g now))
      (tendonStartReply pl s) := by
  simp only [tendonStartReply, hf]
  iterate 7
    split
    · exact .fails (by simp_all)
    refine .passes (by simp_all) ?_
  exact .none_left ⟨by simp_all, fun g now _ _ => by simp_all⟩

/-- The state an accepted Tendon Start changes the stage on. -/
def tendonOpened (s : State) (r : AnchorRec) (g : Geometry) (now : Nat) : State :=
  { s with rig := some (openedRun s r.id g now), meas := { s.meas with paidOut := 0 } }

theorem tendonOpened_frame (s : State) (r : AnchorRec) (g : Geometry) (now : Nat) :
    OnlyChanges [.rig, .meas] s (tendonOpened s r g now) := by
  intro x hx
  cases x <;> simp_all [SamePart, tendonOpened]

theorem tendonStartEvent_eq (s : State) (r : AnchorRec) (g : Geometry) (now : Nat) :
    tendonStartEvent s r g now = (Ev.of (tendonOpened s r g now)).changeStage r { r with stage := .tendonRunning } := rfl

/-- Settles O25: the checks of R71, and a change of stage on the state with the run open. -/
theorem tendonStartOpensRun : Obligations.TendonStartOpensRun := by
  refine fun p pl s h => ⟨fun hf => take_refused h (tendonStartReply_missing hf), fun r hf => ?_⟩
  have hchecks := tendonStartReply_checks (s := takeFrame s p) hf
  refine ⟨fun c hfail => take_refused h (hchecks.refused hfail), fun g now hpass hz hnow hg => ?_⟩
  obtain ⟨hstage, hreply⟩ := hchecks.accepted hpass
  obtain ⟨haccepted, hmoved, hwatch⟩ := stage_accepted (d := .none) h (tendonOpened_frame (takeFrame s p) r g now)
    (by simp) hf (show ({ r with stage := .tendonRunning } : AnchorRec).id = r.id from rfl) hz.1
  rw [stageItems_plain (by simp [hstage]) (by simp) (by simp [hstage]), stageNotices_plain (by simp [hstage]), hstage]
    at haccepted
  have hdone := hreply g now hnow hg
  rw [tendonStartEvent_eq] at hdone
  refine ⟨_, take_done h hdone, haccepted, hmoved, ?meas, hwatch, ?rig⟩
  case meas =>
    rw [commit_meas, putAnswer_meas]
    exact changeStage_keeps (tendonOpened (takeFrame s p) r g now) r _ (x := .meas) (by simp)
  case rig =>
    rw [commit_rig, putAnswer_rig]
    exact changeStage_keeps (tendonOpened (takeFrame s p) r g now) r _ (x := .rig) (by simp)

/-! ## Tendon Done and Tendon Withdraw (R76 to R78) -/

theorem tendonDoneReply_missing {pl : List Byte} {s : State} (hf : findAnchor s (anchorField pl) = none) :
    tendonDoneReply pl s = refuse s .noSuchAnchor := by
  simp only [tendonDoneReply, hf]

theorem tendonWithdrawReply_missing {pl : List Byte} {s : State} (hf : findAnchor s (anchorField pl) = none) :
    tendonWithdrawReply pl s = refuse s .noSuchAnchor := by
  simp only [tendonWithdrawReply, hf]

theorem openRun_running {s : State} {r : AnchorRec} {c : TendonCtx} (hr : r.stage = .tendonRunning)
    (hc : s.rig = some c) : openRun s r = some c := by
  rw [openRun, if_pos hr, hc]

theorem tendonDoneReply_stage {pl : List Byte} {s : State} {r : AnchorRec}
    (hf : findAnchor s (anchorField pl) = some r) (hr : r.stage ≠ .tendonRunning) :
    tendonDoneReply pl s = refuse s .wrongStage := by
  simp [tendonDoneReply, hf, openRun, hr]

theorem tendonWithdrawReply_stage {pl : List Byte} {s : State} {r : AnchorRec}
    (hf : findAnchor s (anchorField pl) = some r) (hr : r.stage ≠ .tendonRunning) :
    tendonWithdrawReply pl s = refuse s .wrongStage := by
  simp [tendonWithdrawReply, hf, openRun, hr]

theorem tendonDoneReply_closes {pl : List Byte} {s : State} {r : AnchorRec} {c : TendonCtx}
    (hf : findAnchor s (anchorField pl) = some r) (hr : openRun s r = some c) :
    tendonDoneReply pl s = doneWith ((Ev.of { s with rig := none }).changeStage r (placedRecord s c r))
      (.tendonDone (placedStage c s.meas.paidOut) s.meas.paidOut (placedDifference c s.meas.paidOut)) := by
  simp only [tendonDoneReply, hf, hr]

theorem tendonWithdrawReply_closes {pl : List Byte} {s : State} {r : AnchorRec} {c : TendonCtx}
    (hf : findAnchor s (anchorField pl) = some r) (hr : openRun s r = some c) :
    tendonWithdrawReply pl s = done ((Ev.of { s with rig := none }).changeStage r { r with stage := .planned }) := by
  simp only [tendonWithdrawReply, hf, hr]

theorem placedStage_ne_lockedOff (c : TendonCtx) (l : Nat) : placedStage c l ≠ .lockedOff := by
  unfold placedStage
  split <;> simp

/-- An event that closes the run leaves RIG down. -/
theorem commit_rig_down {e : Ev} (h : e.st.rig = none) : (commit e).permits.rig = false :=
  (commit_permits e .rig).trans (lineUp_of_cause (c := .idle) (by simp [causeStands, workAnchor, h]))

/-- What closing a run and changing the stage of its anchor does. -/
theorem rigClosed_accepted {k : ReqKind} {p : Port} {pl : List Byte} {s : State} {d : AnswerData} {r new : AnchorRec}
    (h : Asked k p pl s) (hf : findAnchor s (anchorField pl) = some r) (hr : r.stage = .tendonRunning)
    (hid : new.id = r.id) (hnew : new.stage ≠ .lockedOff) (hz : s.sections.length = 64) :
    let t := commit (putAnswer k.code p (doneWith ((Ev.of { takeFrame s p with rig := none }).changeStage r new) d))
    Accepted k p d [.image new.imageSlot] [.stageChanged r.id (some .tendonRunning) new.stage]
        [.rig, .anchors, .cure, .sections] s t ∧
      StageMoved r new s t ∧ t.rig = none ∧ t.permits.rig = false ∧ WatchFlagsSame s t := by
  intro t
  obtain ⟨haccepted, hmoved, hwatch⟩ := stage_accepted (d := d) h (rigClosed_frame (takeFrame s p)) (by simp) hf hid hz
  rw [stageItems_plain (by simp [hr]) hnew (by simp [hr]), stageNotices_plain (by simp [hr]), hr, hid] at haccepted
  have hrig : ((Ev.of { takeFrame s p with rig := none }).changeStage r new).st.rig = none :=
    changeStage_keeps { takeFrame s p with rig := none } r new (x := .rig) (by simp)
  exact ⟨haccepted, hmoved, by rw [commit_rig, putAnswer_rig]; exact hrig, commit_rig_down hrig, hwatch⟩

/-- Settles O26: both requests close the run and change the stage of its anchor. -/
theorem tendonRunIsClosed : Obligations.TendonRunIsClosed := by
  refine fun p pl s => ⟨fun k hk h hf => ?missing, fun r hf => ⟨fun c hz hc hr => ⟨fun h => ?done, fun h => ?withdraw⟩,
    fun hr => ⟨fun h => take_refused h (tendonDoneReply_stage hf hr),
      fun h => take_refused h (tendonWithdrawReply_stage hf hr)⟩⟩⟩
  case missing =>
    rcases hk with rfl | rfl
    · exact take_refused h (tendonDoneReply_missing hf)
    · exact take_refused h (tendonWithdrawReply_missing hf)
  case done =>
    intro d decided record new
    have hnew : new = placedRecord (takeFrame s p) c r := rfl
    have hdecided : decided = placedStage c (takeFrame s p).meas.paidOut := rfl
    have hd : d = placedDifference c (takeFrame s p).meas.paidOut := rfl
    have hpaid : s.meas.paidOut = (takeFrame s p).meas.paidOut := rfl
    clear_value new decided d
    subst hnew hdecided hd
    rw [hpaid]
    obtain ⟨haccepted, hmoved, hrig, hdown, hwatch⟩ := rigClosed_accepted
      (d := .tendonDone (placedStage c (takeFrame s p).meas.paidOut) (takeFrame s p).meas.paidOut
        (placedDifference c (takeFrame s p).meas.paidOut)) h hf hr (show (placedRecord (takeFrame s p) c r).id = r.id from rfl)
      (placedStage_ne_lockedOff c _) hz.1
    exact ⟨_, take_done h (tendonDoneReply_closes (s := takeFrame s p) hf (openRun_running hr hc)), haccepted, hmoved,
      hrig, hdown, hwatch⟩
  case withdraw =>
    obtain ⟨haccepted, hmoved, hrig, hdown, hwatch⟩ := rigClosed_accepted (d := .none) h hf hr
      (show ({ r with stage := .planned } : AnchorRec).id = r.id from rfl) (by simp) hz.1
    exact ⟨_, take_done h (tendonWithdrawReply_closes (s := takeFrame s p) hf (openRun_running hr hc)), haccepted,
      hmoved, hrig, hdown, hwatch⟩

end Sys2Proof.Machine
end

section
/-! SUPPORT. The measurement unit: the rows that are a sample set, Set Calibration, the pulse inputs, the works clock and
the supply (chapter 3). -/

namespace Sys2Proof.Machine

/-! ## A row that is a sample set (log 4) -/

/-- A thing that a sample set brings about, and tells, is that sample set. -/
theorem sampleIn_occurs {x : SampleIn} {s : State} {f : Notice → Bool} {n : Notice}
    (hn : n ∈ (sampleEvent x s).notices) (hf : f n = true) :
    occurs (sampleIn x s fun e => e.raised f) s = .next (commit (sampleEvent x s)) := by
  rw [sampleIn, if_pos (raised_of_mem hn hf)]
  rfl

theorem exec_sampleSet (x : SampleIn) (s : State) : exec (.sampleSet x) s = .next (commit (sampleEvent x s)) := rfl

/-! ## Faults clear (R52, R54 to R57) -/

/-- A fault that a sample set clears is told, and its row is that sample set. -/
theorem faultCleared_row {x : SampleIn} {s : State} {f : FaultId} (hold : faultPresent s.meas f = true)
    (hnew : faultPresent (commit (sampleEvent x s)).meas f = false) :
    exec (.faultCleared f x) s = .next (commit (sampleEvent x s)) ∧
      Tells [.sensorFault f false] s (commit (sampleEvent x s)) := by
  rw [commit_meas] at hnew
  have hchange : faultPresent (sampleEvent x s).st.meas f ≠ faultPresent (Ev.of s).st.meas f := by
    rw [hnew, Ev.of_st, hold]
    decide
  have hn := (sampleEvent_reports x s).2 f hchange
  rw [hnew] at hn
  exact ⟨sampleIn_occurs hn (by simp [clearsFault]), sampleSet_tells hn⟩

/-- The hundredth sample set without the condition clears a fault (R54). -/
theorem faultAfter_hundredth {f : FaultState} {P : Prop} [Decidable P] (hf : f = { present := true, absent := 99 })
    (hP : ¬ P) : faultAfter f P = { present := false, absent := 0 } := by
  subst hf
  simp [faultAfter, hP]

/-- The eighth sample fills the history and forms the value (R52). -/
theorem sampledChannel_eighth {m : Nat} {cal : Calibration} {raw : RawWord} {old : ChannelState}
    (h : old.history.length = 7) :
    (sampledChannel m cal raw old).history.length = 8 ∧ (sampledChannel m cal raw old).notReady = false ∧
      (sampledChannel m cal raw old).value = (sampledChannel m cal raw old).history.sum / 8 := by
  simp [sampledChannel, h]

/-- Settles O28: each fault's state after the sample set is that of O27, and a fault that goes is told. -/
theorem faultsClearAtSampleSet : Obligations.FaultsClearAtSampleSet := by
  intro x s
  obtain ⟨t, ht, hchans, -, hext, hclosed, hopen, -⟩ := sampleSetConvertsChannels x s
  obtain rfl : commit (sampleEvent x s) = t := by simpa [exec_sampleSet] using ht
  refine ⟨fun c => ⟨fun hseven hnot => ?ready, fun hover hin => ?overRange⟩, fun hheld => ⟨_, ht, fun hnone => ?ext⟩,
    fun hheld => ⟨_, ht, fun hnone => ?load⟩⟩
  case ready =>
    obtain ⟨height, hready, hvalue⟩ := sampledChannel_eighth (m := channelMax c) (cal := channelGet s.config.cals c)
      (raw := channelGet x.raw c) hseven
    rw [← hchans c] at height hready hvalue
    obtain ⟨hrow, htells⟩ := faultCleared_row (f := .notReady c) hnot hready
    exact ⟨_, hrow, ht, htells, hready, height, hvalue⟩
  case overRange =>
    have hclear : (channelGet (commit (sampleEvent x s)).meas.chans c).overRange = { present := false, absent := 0 } := by
      rw [hchans c]
      exact faultAfter_hundredth hover (Int.not_lt.2 hin)
    obtain ⟨hrow, htells⟩ := faultCleared_row (f := .overRange c) (congrArg FaultState.present hover)
      (congrArg FaultState.present hclear)
    exact ⟨_, hrow, ht, htells, hclear⟩
  case ext =>
    have hclear := hext.trans (faultAfter_hundredth hheld (by
      rintro ⟨h1, h2, h3⟩
      rcases hnone with h | h | h
      · exact Bool.false_ne_true (h1.symm.trans h)
      · exact Bool.false_ne_true (h2.symm.trans h)
      · exact absurd h3 (Nat.not_lt.2 h)))
    obtain ⟨hrow, htells⟩ := faultCleared_row (f := .extDisagree) (congrArg FaultState.present hheld)
      (congrArg FaultState.present hclear)
    exact ⟨hrow, htells, hclear⟩
  case load =>
    have hclear : (commit (sampleEvent x s)).meas.loadDisagree = { present := false, absent := 0 } := by
      cases hs : s.session with
      | none => exact (hclosed hs).trans (faultAfter_hundredth hheld id)
      | some y =>
        refine (hopen y hs).trans (faultAfter_hundredth hheld ?_)
        rintro ⟨h1, h2, h3, h4⟩
        rcases hnone y hs with h | h | h | h
        · exact Bool.false_ne_true (h1.symm.trans h)
        · exact Bool.false_ne_true (h2.symm.trans h)
        · omega
        · exact absurd h4 (Nat.not_lt.2 h)
    obtain ⟨hrow, htells⟩ := faultCleared_row (f := .loadDisagree) (congrArg FaultState.present hheld)
      (congrArg FaultState.present hclear)
    exact ⟨hrow, htells, hclear⟩

/-! ## Set Calibration (R58) -/

theorem faultChange_notices (e : Ev) (f : FaultId) (a b : Bool) :
    (e.faultChange f a b).notices = e.notices ++ if a = b then [] else [.sensorFault f b] := by
  unfold Ev.faultChange
  split <;> simp

theorem channelGet_set {α : Type} (x : PerChannel α) (c d : Channel) (v : α) :
    channelGet (channelSet x c v) d = if d = c then v else channelGet x d := by
  cases c <;> cases d <;> rfl

/-- The state after a channel's calibration has been replaced. -/
theorem calibrateEvent_st (s : State) (c : Channel) (cal : Calibration) :
    (calibrateEvent s c cal).st =
      { s with
        meas := { s.meas with chans := channelSet s.meas.chans c ChannelState.emptied }
        config := { s.config with cals := channelSet s.config.cals c cal } } := by
  rw [calibrateEvent, faultChange_st, faultChange_st]
  rfl

theorem calibrateEvent_dirty (s : State) (c : Channel) (cal : Calibration) :
    (calibrateEvent s c cal).dirty = [.config] := by
  rw [calibrateEvent, faultChange_dirty, faultChange_dirty]
  rfl

theorem calibrateEvent_notices (s : State) (c : Channel) (cal : Calibration) :
    (calibrateEvent s c cal).notices =
      (if (channelGet s.meas.chans c).overRange.present then [.sensorFault (.overRange c) false] else []) ++
        if (channelGet s.meas.chans c).notReady then [] else [.sensorFault (.notReady c) true] := by
  rw [calibrateEvent, faultChange_notices, faultChange_notices]
  cases (channelGet s.meas.chans c).overRange.present <;> cases (channelGet s.meas.chans c).notReady <;> rfl

theorem setCalibrationReply_undefined {pl : List Byte} {s : State} (h : channelOfCode (fieldNat pl 0 1) = none) :
    setCalibrationReply pl s = refuse s .badValue := by
  simp only [setCalibrationReply, h]

theorem setCalibrationReply_inUse {pl : List Byte} {s : State} {c : Channel}
    (h : channelOfCode (fieldNat pl 0 1) = some c) (hu : channelInUse s c = true) :
    setCalibrationReply pl s = refuse s .channelInUse := by
  simp only [setCalibrationReply, h]
  exact if_pos hu

theorem setCalibrationReply_stores {pl : List Byte} {s : State} {c : Channel}
    (h : channelOfCode (fieldNat pl 0 1) = some c) (hu : channelInUse s c = false) :
    setCalibrationReply pl s = doneWith (calibrateEvent s c (calibrationOfPayload pl))
      (.calibration (calibrationOfPayload pl).zero (calibrationOfPayload pl).span) := by
  simp [setCalibrationReply, h, hu]

/-- What an accepted Set Calibration does. -/
theorem exec_setCalibration_stores {p : Port} {pl : List Byte} {s : State} {c : Channel} (h : Asked .setCalibration p pl s)
    (hc : channelOfCode (fieldNat pl 0 1) = some c) (hu : channelInUse s c = false) :
    ∃ t, exec (.setCalibration p pl) s = .next t ∧
      Accepted .setCalibration p (.calibration (calibrationOfPayload pl).zero (calibrationOfPayload pl).span) [.config]
        ((if (channelGet s.meas.chans c).overRange.present then [.sensorFault (.overRange c) false] else []) ++
          if (channelGet s.meas.chans c).notReady then [] else [.sensorFault (.notReady c) true])
        [.meas, .config] s t ∧
      t.meas = { s.meas with chans := channelSet s.meas.chans c ChannelState.emptied } ∧
      t.config = { s.config with cals := channelSet s.config.cals c (calibrationOfPayload pl) } ∧ WatchFlagsSame s t := by
  have hst := calibrateEvent_st (takeFrame s p) c (calibrationOfPayload pl)
  refine ⟨_, take_done h (setCalibrationReply_stores (s := takeFrame s p) hc hu), ?accepted, ?meas, ?config,
    putAnswer_watches ?watch⟩
  case accepted =>
    refine accepted_event h (calibrateEvent_dirty _ c _) (calibrateEvent_notices _ c _) ?_ (by simp) (by simp) (by simp)
    rw [hst]
    intro x hx
    cases x <;> simp_all [SamePart]
  case meas => rw [commit_meas, putAnswer_meas, doneWith_ev, hst, takeFrame_meas]
  case config => rw [commit_config, putAnswer_config, doneWith_ev, hst, takeFrame_config]
  case watch => rw [doneWith_ev, hst, takeFrame_watch]

/-- Settles O29: the event of `calibrateEvent`, and the two refusals. -/
theorem setCalibrationEmptiesHistory : Obligations.SetCalibrationEmptiesHistory := by
  refine fun p pl s h => ⟨fun c hc hu => ?_, fun hc => take_refused h (setCalibrationReply_undefined hc),
    fun c hc hu => take_refused h (setCalibrationReply_inUse hc hu)⟩
  obtain ⟨t, ht, haccepted, hmeas, hconfig, hwatch⟩ := exec_setCalibration_stores h hc hu
  refine ⟨t, ht, haccepted, ?cal, ?channel, fun d hd => ⟨?otherCal, ?otherChannel⟩, ?config, ?meas, hwatch⟩
  case cal =>
    rw [hconfig]
    exact (channelGet_set _ c c _).trans (if_pos rfl)
  case channel =>
    rw [hmeas]
    exact (channelGet_set _ c c _).trans (if_pos rfl)
  case otherCal =>
    rw [hconfig]
    exact (channelGet_set _ c d _).trans (if_neg hd)
  case otherChannel =>
    rw [hmeas]
    exact (channelGet_set _ c d _).trans (if_neg hd)
  case config => rw [hconfig]
  case meas => rw [hmeas]

/-! ## Pulse inputs (R61, R62) -/

/-- Settles O32: a gated pulse is `LineMeas.pulse`. -/
theorem flowPulsesAreGated : Obligations.FlowPulsesAreGated := by
  intro l s line counted
  refine ⟨fun hv hg => ?counted, fun h => ?ignored, fun _ => rfl⟩
  case counted =>
    have hpulse : line.pulse = counted := by
      have hgated : min (line.gated + 1) 65535 = if line.gated < 65535 then line.gated + 1 else 65535 := by
        split <;> omega
      simp only [LineMeas.pulse, Config.maxCount16, hgated, counted]
    rw [← hpulse]
    exact congrArg Host.Outcome.next (if_pos ⟨hv, Option.isSome_iff_ne_none.2 hg⟩)
  case ignored =>
    refine congrArg Host.Outcome.next (if_neg ?_)
    rintro ⟨hv, hg⟩
    rcases h with h | h
    · exact Bool.false_ne_true (h.symm.trans hv)
    · simp [h] at hg

/-! ## The flow rate (R62) -/

/-- Settles O33: the second of `flowSecond`; the watch channels fed with the rates touch no measurement. -/
theorem flowRateSumsTenBins : Obligations.FlowRateSumsTenBins := by
  intro s hdue
  have hevent : flowRateEvent s = some ((Ev.of (flowSecond s)).feedWatches fedByFlow) := if_neg hdue
  have hfed := feedWatches_frame (Ev.of (flowSecond s)) fedByFlow
  have hmeas : ((Ev.of (flowSecond s)).feedWatches fedByFlow).st.meas = (flowSecond s).meas := hfed .meas (by simp)
  have htime : ((Ev.of (flowSecond s)).feedWatches fedByFlow).st.time = (flowSecond s).time := hfed .time (by simp)
  refine ⟨_, congrArg (occurs · s) hevent, fun l => ?line, ?meas, (commit_time _).trans htime, commit_exact _,
    commit_frame _ s _ (flowRateEvent_frame s _ hevent)⟩
  case line =>
    rw [commit_meas, hmeas]
    cases l <;> rfl
  case meas =>
    rw [commit_meas, hmeas]
    rfl

/-! ## The works clock (R63, R65) -/

/-- The event of the clock mark, at the 600th second (R65). -/
theorem clockMarkEvent_due {s : State} {now : Nat} (hnow : s.clock.time = some now) (h : 600 ≤ s.clock.markSeconds) :
    ∃ e, clockMarkEvent s = some e ∧ e.dirty = [.mark] ∧ e.notices = [] ∧
      e.st.clock = { s.clock with markSeconds := s.clock.markSeconds - 600 } := by
  unfold clockMarkEvent
  split_ifs with hdue
  · exact ⟨_, rfl, rfl, rfl, rfl⟩
  · exact absurd ⟨by rw [hnow]; rfl, h⟩ hdue

/-- Settles O34: the second of `ClockState.second`, and the mark's event. -/
theorem worksClockSteps : Obligations.WorksClockSteps := by
  refine ⟨fun s now hnow ht => ?second, fun s h => ?idle, fun s now hnow h => ?mark⟩
  case second =>
    have hnext : min (now + 1) Config.maxClock = if now < 4294967295 then now + 1 else 4294967295 := by
      rw [Config.maxClock]
      split <;> omega
    change execWorksClockSecond s = _
    rw [execWorksClockSecond, hnow]
    simp only [ClockState.second, hnext]
    exact congrArg Host.Outcome.next (if_pos ht)
  case idle =>
    change execWorksClockSecond s = _
    rw [execWorksClockSecond]
    rcases h with h | h
    · rw [h]
    · split
      · rfl
      · exact congrArg Host.Outcome.next (if_neg (Nat.not_le.2 h))
  case mark =>
    obtain ⟨e, hevent, hdirty, hnotices, hclock⟩ := clockMarkEvent_due hnow h
    have hframe := clockMarkEvent_frame s e hevent
    have hwatch := commit_watchFlags e
    have hoccurred := occurred_commit hdirty (hframe .ports (by simp)) (hframe .recorder (by simp))
      (hframe .permits (by simp)) hframe
    rw [hnotices] at hoccurred
    refine ⟨_, congrArg (occurs · s) hevent, hoccurred, ?_, (commit_clock e).trans hclock⟩
    simpa only [WatchFlagsSame, show e.st.watch = s.watch from hframe .watch (by simp)] using hwatch

end Sys2Proof.Machine
end

section
/-! SUPPORT. The supply in a sample set and by its own row (R66, R184), and the rig and the lines in a sample set (R73, R88
to R90). -/

namespace Sys2Proof.Machine

/-! ## The supply of one sample period (R66) -/

theorem sampleSupply_raises {v : Nat} {s : State} (h : s.supply.warning = false) (hv : v < 190) :
    sampleSupply v s = raiseWarning s := by
  simp [sampleSupply, supplyLow, h, hv]

theorem sampleSupply_sound {v : Nat} {s : State} (h : s.supply.warning = false) (hv : 190 ≤ v) :
    sampleSupply v s = s := by
  simp [sampleSupply, supplyLow, h, Nat.not_lt.2 hv]

theorem sampleSupply_low {v : Nat} {s : State} (h : s.supply.warning = true) (hv : v ≤ 200) :
    sampleSupply v s = { s with supply := { s.supply with above := 0 } } := by
  rw [sampleSupply, if_pos h, if_neg (Nat.not_lt.2 hv)]

theorem sampleSupply_counts {v : Nat} {s : State} (h : s.supply.warning = true) (hv : 200 < v)
    (ha : s.supply.above < 99) :
    sampleSupply v s = { s with supply := { s.supply with above := s.supply.above + 1 } } := by
  rw [sampleSupply, if_pos h, if_pos hv, if_neg (by rw [Config.periodsPerSecond]; omega)]

theorem sampleSupply_clears {v : Nat} {s : State} (h : s.supply.warning = true) (hv : 200 < v)
    (ha : s.supply.above = 99) : sampleSupply v s = clearWarning s := by
  rw [sampleSupply, if_pos h, if_pos hv, if_pos (by rw [ha]; decide)]

/-- After the supply, a sample set touches neither the supply nor the record store. -/
theorem sampleEvent_afterSupply (x : SampleIn) (s : State) :
    OnlyChanges [.meas, .rig, .grout, .watch, .session, .pool, .anchors, .cure, .sections, .clock, .time]
      (sampleSupply x.supply s) (sampleEvent x s).st := by
  have hmeasured : OnlyChanges [.meas] (sampleSupply x.supply s) (measuredEvent x s).st :=
    measure_frame ((Ev.of s).mod (sampleSupply x.supply)) x.raw
  exact ((((((hmeasured.mono (by simp)).step (judgeRig_frame _) (by simp)).step (judgeLine_frame _ .a) (by simp)).step
    (judgeLine_frame _ .b) (by simp)).step (feedWatches_frame _ fedBySample) (by simp)).step (judgeSession_frame _)
    (by simp)).step (tick_frame _) (by simp)

theorem sampleSet_supply (x : SampleIn) (s : State) :
    (commit (sampleEvent x s)).supply = (sampleSupply x.supply s).supply :=
  (commit_supply _).trans (sampleEvent_afterSupply x s .supply (by simp))

/-- What a sample set does to the record store beyond the supply is a dirtying of items. -/
theorem sampleSet_recorder (x : SampleIn) (s : State) :
    SameWrite (sampleSupply x.supply s).recorder.writer (commit (sampleEvent x s)).recorder.writer ∧
      (commit (sampleEvent x s)).recorder.warned = (sampleSupply x.supply s).recorder.warned := by
  have hrecorder : (sampleEvent x s).st.recorder = (sampleSupply x.supply s).recorder :=
    sampleEvent_afterSupply x s .recorder (by simp)
  obtain ⟨-, -, -, hwriter, hwarned, -⟩ := commit_dirties (sampleEvent x s)
  rw [hrecorder] at hwriter hwarned
  exact ⟨hwriter, hwarned⟩

theorem SameWrite.idle {b : Writer} (h : SameWrite .idle b) : b = .idle := h

theorem SameWrite.ne_idle {a b : Writer} (h : SameWrite a b) (ha : a ≠ .idle) : b ≠ .idle := by
  rintro rfl
  cases a with
  | idle => exact ha rfl
  | writing j n => cases h
  | marking => cases h
  | held => cases h

/-! ## A warning raised (R184) -/

theorem writerAtWarning_warned (r : Recorder) (b : Bool) : (writerAtWarning r b).warned = true := by
  unfold writerAtWarning
  split
  · rfl
  · split <;> rfl

theorem writerAtWarning_ne_idle (r : Recorder) (b : Bool) : (writerAtWarning r b).writer ≠ .idle := by
  unfold writerAtWarning
  split
  · simp
  · split
    · dsimp only
      split <;> simp
    all_goals simp_all

theorem writerAtWarning_list (r : Recorder) (b : Bool) : (writerAtWarning r b).list = r.list := by
  unfold writerAtWarning
  split
  · rfl
  · split <;> rfl

/-- The writer at a warning after the reset-cause record has been written. -/
theorem writerAtWarning_settled {r : Recorder} (b : Bool) (h : r.causeDue = false) :
    (∀ j n, r.writer = .writing j n →
        writerAtWarning r b = { r with warned := true, markOwed := r.markOwed || !r.warned }) ∧
      (r.writer = .idle →
        writerAtWarning r b = { r with writer := if r.warned then .held else .marking, warned := true }) ∧
      ((r.writer = .marking ∨ r.writer = .held) → writerAtWarning r b = { r with warned := true }) := by
  refine ⟨fun j n hw => ?_, fun hw => ?_, fun hw => ?_⟩
  · simp [writerAtWarning, h, hw]
  · simp [writerAtWarning, h, hw]
  · rcases hw with hw | hw <;> simp [writerAtWarning, h, hw]

/-- The writer at a warning before the reset-cause record has been written (log 12). -/
theorem writerAtWarning_starting {r : Recorder} (b : Bool) (h : r.causeDue = true) :
    writerAtWarning r b =
        { r with writer := .held, warned := true, causeOpen := (writerAtWarning r b).causeOpen } ∧
      (r.causeOpen = true → (writerAtWarning r b).causeOpen = true) := by
  simp +contextual [writerAtWarning, h]

/-- A line is down under a warning (R176). -/
theorem lineUp_warning {s : State} (h : s.supply.warning = true) (l : PLine) : lineUp s l = false :=
  lineUp_of_cause (c := .power) (by simpa [causeStands] using h)

theorem powerWarningEvent_raised {v : Nat} {s : State} (hv : v < 190) (h : s.supply.warning = false) :
    powerWarningEvent v s = some (Ev.of (raiseWarning s)) := if_pos ⟨by simpa [supplyLow] using hv, h⟩

theorem powerWarningEvent_none {v : Nat} {s : State} (h : 190 ≤ v ∨ s.supply.warning = true) :
    powerWarningEvent v s = none := by
  refine if_neg ?_
  rintro ⟨hlow, hnone⟩
  rcases h with h | h
  · exact absurd (of_decide_eq_true hlow) (Nat.not_lt.2 h)
  · exact Bool.false_ne_true (hnone.symm.trans h)

/-- The recorder after the row of a warning: nothing was dirtied. -/
theorem powerWarning_recorder (s : State) :
    (commit (Ev.of (raiseWarning s))).recorder = writerAtWarning s.recorder (causeBegun s) := rfl

/-- The row that a clearing is, where the sample set does not clear. -/
theorem powerWarningCleared_idle {x : SampleIn} {s : State}
    (h : s.supply.warning = false ∨ (sampleSupply x.supply s).supply.warning = true) :
    exec (.powerWarningCleared x) s = .next s := by
  have hsupply : (sampleEvent x s).st.supply = (sampleSupply x.supply s).supply :=
    sampleEvent_afterSupply x s .supply (by simp)
  have hnone : sampleIn x s (fun e => s.supply.warning && !e.st.supply.warning) = none := by
    rw [sampleIn, hsupply]
    refine if_neg ?_
    rcases h with h | h <;> simp [h]
  exact congrArg (occurs · s) hnone

/-- Settles O35: the row and the sample set raise the warning by `raiseWarning`; the branches of `sampleSupply` are the
rest. -/
theorem powerWarningRaisedAndCleared : Obligations.PowerWarningRaisedAndCleared := by
  refine ⟨fun v s hv h => ?raised, fun v s h => congrArg (occurs · s) (powerWarningEvent_none h),
    fun x s => ⟨_, exec_sampleSet x s, fun h hv => ?sampled, fun h hv => ?sound, fun h hv => ?low, fun h hv ha => ?counts⟩,
    fun x s h => powerWarningCleared_idle ?idle, fun x s h ha hv => ⟨commit (sampleEvent x s), ?row, exec_sampleSet x s,
      ?cleared, fun hheld => ?goesOn⟩⟩
  case raised =>
    have hdown : ∀ l, (commit (Ev.of (raiseWarning s))).permits.get l = false := fun l =>
      (commit_permits _ l).trans (lineUp_warning rfl l)
    refine ⟨_, congrArg (occurs · s) (powerWarningEvent_raised hv h), commit_supply _, hdown,
      writerAtWarning_warned _ _, writerAtWarning_ne_idle _ _, writerAtWarning_list _ _,
      commit_told (Ev.of (raiseWarning s)) s rfl, commit_watchFlags (Ev.of (raiseWarning s)), commit_exact _,
      commit_frame _ s _ (raiseWarning_frame s), writerAtWarning_settled _, writerAtWarning_starting _⟩
  case sampled =>
    obtain ⟨hwriter, hwarned⟩ := sampleSet_recorder x s
    have hsupply := sampleSet_supply x s
    rw [sampleSupply_raises h hv] at hwriter hwarned hsupply
    have hwarning : (sampleEvent x s).st.supply.warning = true := by
      rw [← commit_supply, hsupply]
      rfl
    exact ⟨hsupply, hwarned.trans (writerAtWarning_warned _ _), hwriter.ne_idle (writerAtWarning_ne_idle _ _),
      fun l => (commit_permits _ l).trans (lineUp_warning hwarning l)⟩
  case sound => rw [sampleSet_supply, sampleSupply_sound h hv]
  case low => rw [sampleSet_supply, sampleSupply_low h hv, ← h]
  case counts => rw [sampleSet_supply, sampleSupply_counts h hv ha, ← h]
  case idle =>
    cases hw : s.supply.warning with
    | false => exact .inl rfl
    | true =>
      right
      rcases h with h | h | h
      · exact absurd (h.symm.trans hw) Bool.false_ne_true
      · rw [sampleSupply_low hw h]
        exact hw
      · by_cases hv : x.supply ≤ 200
        · rw [sampleSupply_low hw hv]
          exact hw
        · rw [sampleSupply_counts hw (Nat.lt_of_not_le hv) h]
          exact hw
  case row =>
    have hsupply : (sampleEvent x s).st.supply = (sampleSupply x.supply s).supply :=
      sampleEvent_afterSupply x s .supply (by simp)
    have hrow : sampleIn x s (fun e => s.supply.warning && !e.st.supply.warning) = some (sampleEvent x s) := by
      rw [sampleIn, hsupply, sampleSupply_clears h hv ha, h]
      rfl
    exact congrArg (occurs · s) hrow
  case cleared =>
    rw [sampleSet_supply, sampleSupply_clears h hv ha]
    rfl
  case goesOn =>
    have hwriter := (sampleSet_recorder x s).1
    rw [sampleSupply_clears h hv ha] at hwriter
    have hidle : (clearWarning s).recorder.writer = .idle := by simp [clearWarning, hheld]
    rw [hidle] at hwriter
    exact hwriter.idle

end Sys2Proof.Machine
end

section
/-! SUPPORT. The rig and the grout lines in a sample set (R73, R74, R88 to R90), and what the later parts of a sample set
leave of the pass lists. -/

namespace Sys2Proof.Machine

/-! ## The values a sample set publishes (R49, R52) -/

theorem measuredEvent_channel (x : SampleIn) (s : State) (c : Channel) :
    channelGet (measuredEvent x s).st.meas.chans c =
      sampledChannel (channelMax c) (channelGet s.config.cals c) (channelGet x.raw c) (channelGet s.meas.chans c) := by
  have hmeas : ((Ev.of s).mod (sampleSupply x.supply)).st.meas = s.meas := sampleSupply_meas _ _
  rw [measuredEvent, measure_chans, convert_get, hmeas, Ev.mod_st, sampleSupply_config, Ev.of_st]

theorem measuredEvent_inputs (x : SampleIn) (s : State) : (measuredEvent x s).st.meas.lines = s.meas.lines := by
  have hmeas : ((Ev.of s).mod (sampleSupply x.supply)).st.meas = s.meas := sampleSupply_meas _ _
  rw [measuredEvent, (measure_inputs _ x.raw).2, hmeas]

/-! ## The rig (R73, R74) -/

/-- The over count of a value, on the rig and on a line alike: a latch set or a value within the limit starts it anew. -/
def countAbove (latch : Bool) (value limit count : Nat) : Nat :=
  if latch = true ∨ value ≤ limit then 0 else count + 1

theorem countAbove_eq {latch : Bool} (h : latch = false) (value limit count : Nat) :
    overCountAfter value limit count = countAbove latch value limit count := by
  simp only [overCountAfter, countAbove, h, Bool.false_eq_true, false_or]
  split <;> split <;> omega

/-- The judgement of a winch tension, its three cases in one (R73, R74). -/
theorem TendonCtx.judge_eq (c : TendonCtx) (v : Nat) :
    c.judge v =
      { c with
        peak := max c.peak v
        overCount := if countAbove c.latch v c.tensionLimit c.overCount = 3 then 0
          else countAbove c.latch v c.tensionLimit c.overCount
        latch := if c.latch = true then decide (c.releaseLevel < v)
          else decide (countAbove c.latch v c.tensionLimit c.overCount = 3)
        limitEvents := if countAbove c.latch v c.tensionLimit c.overCount = 3 then min (c.limitEvents + 1) 255
          else c.limitEvents } := by
  cases hl : c.latch with
  | true => simp [TendonCtx.judge, hl, countAbove]
  | false =>
    simp only [TendonCtx.judge, countAbove_eq hl, hl, Bool.false_eq_true]
    by_cases h3 : countAbove c.latch v c.tensionLimit c.overCount = 3
    · rw [hl] at h3
      simp [h3, Config.maxCount8]
    · rw [hl] at h3
      simp [h3]

theorem judgeRig_open {e : Ev} {c : TendonCtx} (h : e.st.rig = some c) :
    e.judgeRig.st.rig = some (c.judge (channelValue e.st.meas .winchTension)) := by
  rw [Ev.judgeRig, h]
  dsimp only
  split <;> rfl

/-- A latch set is told (R73). -/
theorem judgeRig_tells {e : Ev} {c : TendonCtx} (h : e.st.rig = some c) (hl : c.latch = false)
    (hset : (c.judge (channelValue e.st.meas .winchTension)).latch = true) :
    .limitExceeded .rig c.anchor (channelValue e.st.meas .winchTension) c.tensionLimit
      (c.judge (channelValue e.st.meas .winchTension)).limitEvents ∈ e.judgeRig.notices := by
  rw [Ev.judgeRig, h]
  simp [hl, hset]

/-- After the rig, a sample set leaves the rig monitor alone. -/
theorem sampleEvent_rig (x : SampleIn) (s : State) :
    (sampleEvent x s).st.rig = (measuredEvent x s).judgeRig.st.rig := by
  have hframe : OnlyChanges [.grout, .anchors, .watch, .session, .pool, .cure, .sections, .clock, .time]
      (measuredEvent x s).judgeRig.st (sampleEvent x s).st :=
    ((((((judgeLine_frame _ .a).mono (by simp)).step (judgeLine_frame _ .b) (by simp)).step
      (feedWatches_frame _ fedBySample) (by simp)).step (judgeSession_frame _) (by simp)).step (tick_frame _) (by simp))
  exact hframe .rig (by simp)

/-- A notice of the rig stands among those of the sample set. -/
theorem judgeRig_sampled {x : SampleIn} {s : State} {n : Notice} (h : n ∈ (measuredEvent x s).judgeRig.notices) :
    n ∈ (sampleEvent x s).notices :=
  sample_grows x s n (watched_grows x s n (judgeLine_grows _ .b n (judgeLine_grows _ .a n h)))

/-- Settles O36: the rig's part of the sample set is `TendonCtx.judge` of the value just measured. -/
theorem rigJudgesEverySampleSet : Obligations.RigJudgesEverySampleSet := by
  intro x s c hc v above
  have hrig : (measuredEvent x s).st.rig = some c := (measuredEvent_frame x s .rig (by simp)).trans hc
  have hv : channelValue (measuredEvent x s).st.meas .winchTension = v :=
    congrArg ChannelState.value (measuredEvent_channel x s .winchTension)
  have hafter : (sampleEvent x s).st.rig = some (c.judge v) := by rw [sampleEvent_rig, judgeRig_open hrig, hv]
  refine ⟨_, exec_sampleSet x s, commit_exact _, commit_frame _ s _ (sampleEvent_frame x s), ?judged, fun h3 => ?latched⟩
  case judged => rw [commit_rig, hafter, TendonCtx.judge_eq]; rfl
  case latched =>
    have hclear : c.latch = false := by
      by_contra hl
      have hzero : above = 0 := if_pos (.inl (by simpa using hl))
      omega
    have hset : (c.judge v).latch = true := by
      rw [TendonCtx.judge_eq]
      simp only [hclear, Bool.false_eq_true, if_false]
      exact decide_eq_true (by rw [← hclear]; exact h3)
    have hevents : (c.judge v).limitEvents = min (c.limitEvents + 1) 255 := by
      rw [TendonCtx.judge_eq]
      exact if_pos h3
    have hn := judgeRig_sampled (judgeRig_tells hrig hclear (by rw [hv]; exact hset))
    rw [hv, hevents] at hn
    refine ⟨sampleIn_occurs hn rfl, (commit_permits _ .rig).trans (lineUp_of_cause (c := .limit) ?_), sampleSet_tells hn⟩
    rw [causeStands, limitLatched, hafter]
    exact hset

/-! ## What the stressing engine leaves of the pass lists -/

/-- Every record of an anchor table has the passes it had in another. -/
structure PassesKept (l m : List AnchorRec) : Prop where
  passes : ∀ a, (m.find? fun r => r.id = a).map (·.passes) = (l.find? fun r => r.id = a).map (·.passes)

theorem PassesKept.refl (l : List AnchorRec) : PassesKept l l := ⟨fun _ => rfl⟩

theorem PassesKept.trans {a b c : List AnchorRec} (h : PassesKept a b) (g : PassesKept b c) : PassesKept a c :=
  ⟨fun x => (g.passes x).trans (h.passes x)⟩

theorem PassesKept.of_eq {l m : List AnchorRec} (h : m = l) : PassesKept l m := h ▸ .refl l

/-- A record written again with the passes it had. -/
theorem PassesKept.of_replaced {l m : List AnchorRec} {old new : AnchorRec} (hm : m = replaceAnchor l new)
    (hf : l.find? (fun r => r.id = old.id) = some old) (hid : new.id = old.id) (hp : new.passes = old.passes) :
    PassesKept l m := by
  refine ⟨fun a => ?_⟩
  by_cases ha : a = old.id
  · rw [ha, hm, find_replace_self l old new hf hid, hf, Option.map_some, Option.map_some, hp]
  · rw [hm, find_replace_ne l new a (by rwa [hid])]

theorem changeResult_passes (e : Ev) (f : TestResult → TestResult) :
    PassesKept e.st.anchors (e.changeResult f).st.anchors := by
  unfold Ev.changeResult
  split
  · exact .refl _
  · exact .of_replaced rfl (openTest_find' ‹_›).1 rfl rfl

theorem takeReading_passes (e : Ev) (b : ReadingBody) : PassesKept e.st.anchors (e.takeReading b).st.anchors := by
  unfold Ev.takeReading
  split
  next o i ho _ => exact .of_replaced (new := appendReading o i) rfl (openTest_find' ho).1 rfl rfl
  next => exact .refl _

theorem returnReadings_passes (e : Ev) (back : List Nat) :
    PassesKept e.st.anchors (e.returnReadings back).st.anchors := by
  unfold Ev.returnReadings
  split
  · exact .refl _
  · exact .of_replaced rfl (openTest_find' ‹_›).1 rfl rfl

theorem endWith_passes (e : Ev) (v : Verdict) : PassesKept e.st.anchors (e.endWith v).st.anchors := by
  unfold Ev.endWith
  split
  · exact .refl _
  · exact .of_replaced (changeStage_anchors (e.mod closeSession) _ _) (openTest_find' ‹_›).1 rfl rfl

theorem announceStep_passes (e : Ev) : PassesKept e.st.anchors e.announceStep.st.anchors := by
  rw [announceStep_st]
  exact .refl _

theorem moveOn_passes (e : Ev) : PassesKept e.st.anchors e.moveOn.st.anchors :=
  .of_eq (moveOn_frame e .anchors (by simp))

theorem writeCreep_passes (e : Ev) (b : Bool) (k : Int) : PassesKept e.st.anchors (e.writeCreep b k).st.anchors := by
  unfold Ev.writeCreep
  split
  · exact changeResult_passes _ _
  · exact .refl _

theorem completeHold_passes (e : Ev) (top : StageFrame) (k : Option Int) :
    PassesKept e.st.anchors (e.completeHold top k).st.anchors := by
  have hrest : ∀ e' : Ev, PassesKept e.st.anchors e'.st.anchors → PassesKept e.st.anchors (match e'.st.session with
      | none => e'
      | some x =>
        ((e'.changeSession fun y => changeTop y fun f => { f with holdDone := true }).raise
          (.holdComplete x.anchor top.target top.holdReadings.length top.ks top.ks2 top.rehold)).moveOn).st.anchors := by
    intro e' h'
    split
    · exact h'
    · exact h'.trans (.of_eq (moveOn_frame (Ev.raise _ _) .anchors (by simp)))
  cases k with
  | none => exact hrest e (.refl _)
  | some k => exact hrest _ (writeCreep_passes e _ k)

theorem failCreep_passes (e : Ev) (top : StageFrame) (k : Int) :
    PassesKept e.st.anchors (e.failCreep top k).st.anchors :=
  (writeCreep_passes e _ k).trans (endWith_passes _ _)

theorem decideAtD_passes (e : Ev) (top : StageFrame) (h : HoldCtx) :
    PassesKept e.st.anchors (e.decideAtD top h).st.anchors := by
  unfold Ev.decideAtD
  split
  · exact completeHold_passes e top none
  · dsimp only
    split
    · exact completeHold_passes (e.changeSession _) _ _
    · split
      · exact .refl _
      · exact failCreep_passes (e.changeSession _) _ _

theorem decideAt10D_passes (e : Ev) (top : StageFrame) (h : HoldCtx) :
    PassesKept e.st.anchors (e.decideAt10D top h).st.anchors := by
  unfold Ev.decideAt10D
  dsimp only
  split
  · exact completeHold_passes (e.changeSession _) _ _
  · exact failCreep_passes (e.changeSession _) _ _

theorem reachPoint_passes (e : Ev) (x : Session) (h : HoldCtx) (i : Nat) :
    PassesKept e.st.anchors (e.reachPoint x h i).st.anchors := by
  unfold Ev.reachPoint
  dsimp only
  have hread : PassesKept e.st.anchors ((e.takeReading (readingNow e.st .holdPoint)).changeSession fun y =>
      setHoldCtx (changeTop y fun f => { f with holdReadings := f.holdReadings ++ [i] })
        { h with nextPoint := h.nextPoint + 1 }).st.anchors := (takeReading_passes e _).trans (.of_eq rfl)
  generalize (e.takeReading (readingNow e.st .holdPoint)).changeSession _ = e1 at hread ⊢
  split
  · exact hread
  · split
    · exact hread.trans (decideAtD_passes (Ev.raise _ _) _ _)
    · split
      · exact hread.trans (decideAt10D_passes (Ev.raise _ _) _ _)
      · exact hread

theorem runHold_passes (e : Ev) (x : Session) (h : HoldCtx) : PassesKept e.st.anchors (e.runHold x h).st.anchors := by
  unfold Ev.runHold
  dsimp only
  split
  · split
    · exact .refl _
    · exact reachPoint_passes (e.changeSession _) x _ _
  · exact .refl _

theorem voidHold_passes (e : Ev) (x : Session) (top : StageFrame) (h : HoldCtx) (c : VoidCause) :
    PassesKept e.st.anchors (e.voidHold x top h c).st.anchors := by
  unfold Ev.voidHold
  dsimp only
  have hback := returnReadings_passes e top.holdReadings
  split
  · exact hback.trans (endWith_passes (Ev.raise (Ev.changeSession _ _) _) _)
  · exact hback

theorem countHold_passes (e : Ev) (x : Session) (top : StageFrame) (h : HoldCtx) (b : Bool) (c : VoidCause) :
    PassesKept e.st.anchors (e.countHold x top h b c).st.anchors := by
  unfold Ev.countHold
  split
  · exact voidHold_passes e x top h c
  · exact .refl _

theorem judgeHold_passes (e : Ev) (x : Session) (top : StageFrame) (h : HoldCtx) :
    PassesKept e.st.anchors (e.judgeHold x top h).st.anchors := by
  unfold Ev.judgeHold
  split_ifs
  · exact voidHold_passes ..
  · exact .refl _
  · exact countHold_passes ..
  · exact .refl _
  · exact countHold_passes ..
  · exact .refl _
  · exact runHold_passes ..

theorem failLift_passes (e : Ev) (x : Session) : PassesKept e.st.anchors (e.failLift x).st.anchors := by
  unfold Ev.failLift
  split
  · exact announceStep_passes (e.changeSession _)
  · exact endWith_passes e _

theorem captureLift_passes (e : Ev) (x : Session) (load ll : Nat) :
    PassesKept e.st.anchors (e.captureLift x load ll).st.anchors := by
  unfold Ev.captureLift
  dsimp only
  have hread := (changeResult_passes e fun t => { t with plift := some load }).trans
    (takeReading_passes _ (readingNow e.st .liftOff))
  split
  · exact hread.trans (endWith_passes (Ev.raise _ _) _)
  · exact hread.trans (failLift_passes (Ev.raise _ _) _)

theorem judgeLift_passes (e : Ev) (x : Session) (l : LiftCtx) :
    PassesKept e.st.anchors (e.judgeLift x l).st.anchors := by
  unfold Ev.judgeLift
  split
  · exact .refl _
  · dsimp only
    split
    · exact captureLift_passes (e.changeSession _) x _ _
    · split
      · exact (takeReading_passes (e.changeSession _) _).trans (failLift_passes _ x)
      · exact .refl _

theorem judgeSession_passes (e : Ev) : PassesKept e.st.anchors e.judgeSession.st.anchors := by
  unfold Ev.judgeSession
  split
  · exact .refl _
  · split
    · exact judgeHold_passes ..
    · exact judgeLift_passes ..
    · exact .refl _

end Sys2Proof.Machine
end

section
/-! SUPPORT. The grout lines in a sample set (R88 to R90). -/

namespace Sys2Proof.Machine

/-! ## An open pass entry changed -/

theorem List.modify_twice {α : Type} (l : List α) (i : Nat) (f g : α → α) :
    (l.modify i f).modify i g = l.modify i fun x => g (f x) := by
  refine List.ext_getElem? fun j => ?_
  simp only [List.getElem?_modify]
  cases l[j]? with
  | none => rfl
  | some x => by_cases h : i = j <;> simp [h]

theorem List.modify_same {α : Type} {l : List α} {i : Nat} {f : α → α} (hf : ∀ x, l[i]? = some x → f x = x) :
    l.modify i f = l := by
  refine List.ext_getElem? fun j => ?_
  rw [List.getElem?_modify]
  by_cases h : i = j
  · subst h
    cases hx : l[i]? with
    | none => rfl
    | some x => simp [hf x hx]
  · simp [h]

/-- The record of an anchor and the records of all others after the open entry of its line has been changed. -/
theorem changeOpenEntry_find (e : Ev) (c : LineCtx) (f : PassEntry → PassEntry) (a : AnchorId) :
    findAnchor (e.changeOpenEntry c f).st a =
      if a = c.anchor then
        (findAnchor e.st a).map fun r => { r with passes := changeEntry r.passes c.position f }
      else findAnchor e.st a := by
  unfold Ev.changeOpenEntry
  cases hf : findAnchor e.st c.anchor with
  | none =>
    dsimp only
    split
    · subst a; rw [hf]; rfl
    · rfl
  | some r =>
    have hid : r.id = c.anchor := findAnchor_id hf
    obtain ⟨hfound, hothers⟩ := findAnchor_written (s := e.st) (new := { r with passes := changeEntry r.passes c.position f })
      (t := (e.writeAnchor { r with passes := changeEntry r.passes c.position f }).st) hf rfl rfl
    dsimp only
    split
    · subst a; rw [hf, ← hid]; exact hfound
    · next hne => exact hothers a fun h => hne (h.trans hid)

/-! ## The limit (R88, R89) -/

/-- The limit judgement of a pressure, its three cases in one. -/
theorem LineCtx.judgeLimit_eq (c : LineCtx) (v : Nat) :
    c.judgeLimit v =
      { c with
        peak := max c.peak v
        overCount := if countAbove c.latch v c.pressLimit c.overCount = 3 then 0
          else countAbove c.latch v c.pressLimit c.overCount
        latch := if c.latch = true then decide (c.releaseLevel < v)
          else decide (countAbove c.latch v c.pressLimit c.overCount = 3)
        limitEvents := if countAbove c.latch v c.pressLimit c.overCount = 3 then min (c.limitEvents + 1) 255
          else c.limitEvents } := by
  cases hl : c.latch with
  | true => simp [LineCtx.judgeLimit, hl, countAbove]
  | false =>
    simp only [LineCtx.judgeLimit, countAbove_eq hl, hl, Bool.false_eq_true]
    by_cases h3 : countAbove c.latch v c.pressLimit c.overCount = 3
    · rw [hl] at h3
      simp [h3, Config.maxCount8]
    · rw [hl] at h3
      simp [h3]

/-- The latch is set by a value exactly where that value is the third above the limit in a row. -/
theorem LineCtx.latch_set_iff (c : LineCtx) (v : Nat) :
    (!c.latch && (c.judgeLimit v).latch) = true ↔ countAbove c.latch v c.pressLimit c.overCount = 3 := by
  rw [LineCtx.judgeLimit_eq]
  cases hl : c.latch with
  | true => simp [countAbove]
  | false => simp

theorem judgeLineLimit_grout (e : Ev) (l : GLine) (c : LineCtx) (v : Nat) :
    (e.judgeLineLimit l c v).st.grout = e.st.grout.set l (some (c.judgeLimit v)) := by
  unfold Ev.judgeLineLimit
  dsimp only
  split
  · exact changeOpenEntry_frame (e.mod fun s => setLineCtx s l (some (c.judgeLimit v))) _ _ .grout (by simp)
  · rfl

/-- The limit's part of a pass list through one pressure value. -/
def limitEntry (c : LineCtx) (v : Nat) (x : PassEntry) : PassEntry :=
  { x with limitEvents := if countAbove c.latch v c.pressLimit c.overCount = 3 then (c.judgeLimit v).limitEvents
                          else x.limitEvents }

theorem judgeLineLimit_find (e : Ev) (l : GLine) (c : LineCtx) (v : Nat) (a : AnchorId) :
    findAnchor (e.judgeLineLimit l c v).st a =
      if a = c.anchor then
        (findAnchor e.st a).map fun r => { r with passes := changeEntry r.passes c.position (limitEntry c v) }
      else findAnchor e.st a := by
  unfold Ev.judgeLineLimit
  dsimp only
  split
  next hset =>
    have h3 := (c.latch_set_iff v).1 hset
    have hentry : (fun x : PassEntry => { x with limitEvents := (c.judgeLimit v).limitEvents }) = limitEntry c v := by
      funext x
      rw [limitEntry, if_pos h3]
    rw [← hentry]
    exact changeOpenEntry_find (e.mod fun s => setLineCtx s l (some (c.judgeLimit v))) c _ a
  next hset =>
    have h3 := mt (c.latch_set_iff v).2 hset
    have hsame : ∀ r : AnchorRec, { r with passes := changeEntry r.passes c.position (limitEntry c v) } = r := by
      intro r
      rw [changeEntry, List.modify_same fun x _ => by rw [limitEntry, if_neg h3]]
    simp only [hsame, Option.map_id', ite_self]
    rfl

/-! ## Refusal (R90) -/

/-- The count of sample sets at or above the refusal pressure after a value. -/
def countRefusal (c : LineCtx) (v : Nat) : Nat :=
  if c.refusalReached = true then c.refusalCount else if v < c.refusalPress then 0 else min (c.refusalCount + 1) 6000

/-- The refusal judgement of a pressure, its cases in one. -/
theorem LineCtx.judgeRefusal_eq (c : LineCtx) (v : Nat) :
    c.judgeRefusal v =
      { c with refusalCount := countRefusal c v
               refusalReached := c.refusalReached || decide (countRefusal c v = 6000) } := by
  unfold LineCtx.judgeRefusal countRefusal refusalSets
  cases hr : c.refusalReached with
  | true =>
    simp only [if_true, Bool.true_or]
    rw [← hr]
  | false =>
    simp only [Bool.false_eq_true, if_false, Bool.false_or]
    by_cases hlow : v < c.refusalPress
    · simp [hlow]
    · by_cases hcount : c.refusalCount + 1 < 6000
      · have hmin : min (c.refusalCount + 1) 6000 = c.refusalCount + 1 := by omega
        have hne : c.refusalCount + 1 ≠ 6000 := by omega
        simp [hlow, hcount, hmin, hne]
      · have hmin : min (c.refusalCount + 1) 6000 = 6000 := by omega
        simp [hlow, hcount, hmin]

theorem LineCtx.refusal_reached_iff (c : LineCtx) (v : Nat) :
    (!c.refusalReached && (c.judgeRefusal v).refusalReached) = true ↔
      c.refusalReached = false ∧ countRefusal c v = 6000 := by
  rw [LineCtx.judgeRefusal_eq]
  cases c.refusalReached <;> simp

theorem judgeLineRefusal_grout (e : Ev) (l : GLine) (c : LineCtx) (v : Nat) :
    (e.judgeLineRefusal l c v).st.grout = e.st.grout.set l (some (c.judgeRefusal v)) := by
  unfold Ev.judgeLineRefusal
  dsimp only
  split
  · exact changeOpenEntry_frame (e.mod fun s => setLineCtx s l (some (c.judgeRefusal v))) _ _ .grout (by simp)
  · rfl

/-- The refusal's part of a pass list through one pressure value. -/
def refusalEntry (c : LineCtx) (v : Nat) (x : PassEntry) : PassEntry :=
  { x with refusal := if c.refusalReached = false ∧ countRefusal c v = 6000 then true else x.refusal }

theorem judgeLineRefusal_find (e : Ev) (l : GLine) (c : LineCtx) (v : Nat) (a : AnchorId) :
    findAnchor (e.judgeLineRefusal l c v).st a =
      if a = c.anchor then
        (findAnchor e.st a).map fun r => { r with passes := changeEntry r.passes c.position (refusalEntry c v) }
      else findAnchor e.st a := by
  unfold Ev.judgeLineRefusal
  dsimp only
  split
  next hset =>
    have h6 := (c.refusal_reached_iff v).1 hset
    have hentry : (fun x : PassEntry => { x with refusal := true }) = refusalEntry c v := by
      funext x
      rw [refusalEntry, if_pos h6]
    rw [← hentry]
    exact changeOpenEntry_find (e.mod fun s => setLineCtx s l (some (c.judgeRefusal v))) c _ a
  next hset =>
    have h6 := mt (c.refusal_reached_iff v).2 hset
    have hsame : ∀ r : AnchorRec, { r with passes := changeEntry r.passes c.position (refusalEntry c v) } = r := by
      intro r
      rw [changeEntry, List.modify_same fun x _ => by rw [refusalEntry, if_neg h6]]
    simp only [hsame, Option.map_id', ite_self]
    rfl

/-! ## One line -/

theorem LineCtx.judgeLimit_anchor (c : LineCtx) (v : Nat) : (c.judgeLimit v).anchor = c.anchor := by
  rw [LineCtx.judgeLimit_eq]

theorem PerLine.get_set {α : Type} (x : PerLine α) (l m : GLine) (v : α) :
    (x.set l v).get m = if m = l then v else x.get m := by
  cases l <;> cases m <;> rfl

theorem judgeLine_open {e : Ev} {l : GLine} {c : LineCtx} (h : e.st.grout.get l = some c) :
    e.judgeLine l =
      (e.judgeLineLimit l c (channelValue e.st.meas (lineChannel l))).judgeLineRefusal l
        (c.judgeLimit (channelValue e.st.meas (lineChannel l))) (channelValue e.st.meas (lineChannel l)) := by
  rw [Ev.judgeLine, h]

theorem judgeLine_idle {e : Ev} {l : GLine} (h : e.st.grout.get l = none) : e.judgeLine l = e := by
  rw [Ev.judgeLine, h]

theorem judgeLine_self {e : Ev} {l : GLine} {c : LineCtx} (h : e.st.grout.get l = some c) :
    (e.judgeLine l).st.grout.get l =
      some ((c.judgeLimit (channelValue e.st.meas (lineChannel l))).judgeRefusal
        (channelValue e.st.meas (lineChannel l))) := by
  rw [judgeLine_open h, judgeLineRefusal_grout, PerLine.get_set, if_pos rfl]

/-- A line's judgement leaves the other line alone. -/
theorem judgeLine_other (e : Ev) {l m : GLine} (hm : m ≠ l) : (e.judgeLine l).st.grout.get m = e.st.grout.get m := by
  cases h : e.st.grout.get l with
  | none => rw [judgeLine_idle h]
  | some c =>
    rw [judgeLine_open h, judgeLineRefusal_grout, judgeLineLimit_grout, PerLine.get_set, if_neg hm, PerLine.get_set,
      if_neg hm]

/-- The open entry through one pressure value. -/
def judgedEntry (c : LineCtx) (v : Nat) (x : PassEntry) : PassEntry :=
  { x with
    limitEvents := if countAbove c.latch v c.pressLimit c.overCount = 3 then min (c.limitEvents + 1) 255
      else x.limitEvents
    refusal := if c.refusalReached = false ∧ countRefusal c v = 6000 then true else x.refusal }

theorem refusalEntry_limitEntry (c : LineCtx) (v : Nat) (x : PassEntry) :
    refusalEntry (c.judgeLimit v) v (limitEntry c v x) = judgedEntry c v x := by
  have hevents : countAbove c.latch v c.pressLimit c.overCount = 3 →
      (c.judgeLimit v).limitEvents = min (c.limitEvents + 1) 255 := fun h3 => by
    rw [LineCtx.judgeLimit_eq]
    exact if_pos h3
  have hrefusal : (c.judgeLimit v).refusalReached = c.refusalReached ∧ countRefusal (c.judgeLimit v) v = countRefusal c v := by
    rw [LineCtx.judgeLimit_eq]
    exact ⟨rfl, rfl⟩
  rw [refusalEntry, limitEntry, judgedEntry, hrefusal.1, hrefusal.2]
  by_cases h3 : countAbove c.latch v c.pressLimit c.overCount = 3
  · rw [if_pos h3, if_pos h3, hevents h3]
  · rw [if_neg h3, if_neg h3]

/-- The records through the judgement of a running line: the open entry of its anchor alone. -/
theorem judgeLine_find {e : Ev} {l : GLine} {c : LineCtx} (h : e.st.grout.get l = some c) (a : AnchorId) :
    findAnchor (e.judgeLine l).st a =
      if a = c.anchor then
        (findAnchor e.st a).map fun r =>
          { r with
            passes := r.passes.modify (c.position - 1) (judgedEntry c (channelValue e.st.meas (lineChannel l))) }
      else findAnchor e.st a := by
  have hpos : ∀ v, (c.judgeLimit v).position = c.position := fun v => by rw [LineCtx.judgeLimit_eq]
  rw [judgeLine_open h, judgeLineRefusal_find, judgeLineLimit_find, LineCtx.judgeLimit_anchor, hpos]
  split
  · rw [Option.map_map]
    congr 1
    funext r
    simp only [Function.comp, changeEntry, List.modify_twice, refusalEntry_limitEntry]
  · rfl

/-- A record that no running line names is left alone. -/
theorem judgeLine_find_other {e : Ev} {l : GLine} {a : AnchorId} (h : ∀ d, e.st.grout.get l = some d → d.anchor ≠ a) :
    findAnchor (e.judgeLine l).st a = findAnchor e.st a := by
  cases hg : e.st.grout.get l with
  | none => rw [judgeLine_idle hg]
  | some d => rw [judgeLine_find hg, if_neg (Ne.symm (h d hg))]

/-! ## What is told -/

theorem judgeLineLimit_tells {e : Ev} {l : GLine} {c : LineCtx} {v : Nat}
    (h3 : countAbove c.latch v c.pressLimit c.overCount = 3) :
    .limitExceeded (limitSubject l) c.anchor v c.pressLimit (min (c.limitEvents + 1) 255) ∈
      (e.judgeLineLimit l c v).notices := by
  have hevents : (c.judgeLimit v).limitEvents = min (c.limitEvents + 1) 255 := by
    rw [LineCtx.judgeLimit_eq]
    exact if_pos h3
  unfold Ev.judgeLineLimit
  simp [(c.latch_set_iff v).2 h3, hevents]

theorem judgeLineRefusal_tells {e : Ev} {l : GLine} {c : LineCtx} {v : Nat} (hr : c.refusalReached = false)
    (h6 : countRefusal c v = 6000) :
    .refusalReached l c.anchor v c.refusalPress (e.st.meas.lines.get l).gated ∈ (e.judgeLineRefusal l c v).notices := by
  unfold Ev.judgeLineRefusal
  simp [(c.refusal_reached_iff v).2 ⟨hr, h6⟩]

/-! ## A line in the sample set -/

/-- The sample set as it reaches a line. -/
def beforeLine (x : SampleIn) (s : State) : GLine → Ev
  | .a => (measuredEvent x s).judgeRig
  | .b => ((measuredEvent x s).judgeRig).judgeLine .a

theorem beforeLine_frame (x : SampleIn) (s : State) (l : GLine) :
    OnlyChanges [.rig, .grout, .anchors] (measuredEvent x s).st (beforeLine x s l).st := by
  cases l with
  | a => exact (judgeRig_frame _).mono (by simp)
  | b => exact ((judgeRig_frame _).mono (by simp)).step (judgeLine_frame _ .a) (by simp)

theorem beforeLine_grout (x : SampleIn) (s : State) (l : GLine) :
    (beforeLine x s l).st.grout.get l = s.grout.get l := by
  have hmeasured : (measuredEvent x s).judgeRig.st.grout = s.grout :=
    (judgeRig_frame _ .grout (by simp)).trans (measuredEvent_frame x s .grout (by simp))
  cases l with
  | a => exact congrArg (PerLine.get · .a) hmeasured
  | b => exact (judgeLine_other _ (by simp)).trans (congrArg (PerLine.get · .b) hmeasured)

theorem monitoredEvent_grout (x : SampleIn) (s : State) (l : GLine) :
    (monitoredEvent x s).st.grout.get l = ((beforeLine x s l).judgeLine l).st.grout.get l := by
  cases l with
  | a => exact judgeLine_other _ (by simp)
  | b => rfl

/-- A notice of a line stands among those of the sample set. -/
theorem judgeLine_sampled {x : SampleIn} {s : State} {l : GLine} {n : Notice}
    (h : n ∈ ((beforeLine x s l).judgeLine l).notices) : n ∈ (sampleEvent x s).notices := by
  refine sample_grows x s n (watched_grows x s n ?_)
  cases l with
  | a => exact judgeLine_grows _ .b n h
  | b => exact h

/-- After the lines, a sample set touches neither the lines nor, but for the stressing engine's part, the records. -/
theorem sampleEvent_afterLines (x : SampleIn) (s : State) :
    (sampleEvent x s).st.grout = (monitoredEvent x s).st.grout ∧
      PassesKept (monitoredEvent x s).st.anchors (sampleEvent x s).st.anchors := by
  have hwatched := feedWatches_frame (monitoredEvent x s) fedBySample
  have hsession := judgeSession_frame (watchedEvent x s)
  have htick := tick_frame (watchedEvent x s).judgeSession.st
  refine ⟨(htick .grout (by simp)).trans ((hsession .grout (by simp)).trans (hwatched .grout (by simp))), ?_⟩
  exact ((PassesKept.of_eq (hwatched .anchors (by simp))).trans (judgeSession_passes _)).trans
    (.of_eq (htick .anchors (by simp)))

theorem beforeLine_find {x : SampleIn} {s : State} {l : GLine} {a : AnchorId}
    (h : ∀ m d, m ≠ l → s.grout.get m = some d → d.anchor ≠ a) :
    findAnchor (beforeLine x s l).st a = findAnchor s a := by
  have hanchors : (measuredEvent x s).judgeRig.st.anchors = s.anchors :=
    (judgeRig_frame _ .anchors (by simp)).trans (measuredEvent_frame x s .anchors (by simp))
  have hrig : findAnchor (measuredEvent x s).judgeRig.st a = findAnchor s a := by
    rw [findAnchor, findAnchor, hanchors]
  cases l with
  | a => exact hrig
  | b =>
    refine (judgeLine_find_other fun d hd => h .a d (by simp) ?_).trans hrig
    exact (beforeLine_grout x s .a).symm.trans hd

theorem monitoredEvent_find {x : SampleIn} {s : State} {l : GLine} {a : AnchorId}
    (h : ∀ m d, m ≠ l → s.grout.get m = some d → d.anchor ≠ a) :
    findAnchor (monitoredEvent x s).st a = findAnchor ((beforeLine x s l).judgeLine l).st a := by
  cases l with
  | a => exact judgeLine_find_other fun d hd => h .b d (by simp) ((beforeLine_grout x s .b).symm.trans hd)
  | b => rfl

/-- Settles O37: the line's part of the sample set is `judgeLimit` and then `judgeRefusal` of the value just measured. -/
theorem linesJudgeEverySampleSet : Obligations.LinesJudgeEverySampleSet := by
  intro l x s c hc ch v above events count
  have hgrout : (beforeLine x s l).st.grout.get l = some c := (beforeLine_grout x s l).trans hc
  have hmeas : (beforeLine x s l).st.meas = (measuredEvent x s).st.meas := beforeLine_frame x s l .meas (by simp)
  have hv : channelValue (beforeLine x s l).st.meas (lineChannel l) = v := by
    rw [hmeas, channelValue, measuredEvent_channel]
    cases l <;> rfl
  have hlines : (beforeLine x s l).st.meas.lines = s.meas.lines := by rw [hmeas, measuredEvent_inputs]
  have hafter : (sampleEvent x s).st.grout.get l = some ((c.judgeLimit v).judgeRefusal v) := by
    rw [(sampleEvent_afterLines x s).1, monitoredEvent_grout, judgeLine_self hgrout, hv]
  have hopen := judgeLine_open hgrout
  rw [hv] at hopen
  have hcount : countRefusal (c.judgeLimit v) v = count := by rw [LineCtx.judgeLimit_eq]; rfl
  have hreached : (c.judgeLimit v).refusalReached = c.refusalReached := by rw [LineCtx.judgeLimit_eq]
  refine ⟨_, exec_sampleSet x s, commit_exact _, commit_frame _ s _ (sampleEvent_frame x s), ?judged, fun h3 => ?latched,
    fun hnot h6 => ?refusal, fun r hr hothers => ?entry⟩
  case judged =>
    rw [commit_grout, hafter, LineCtx.judgeRefusal_eq, hcount, hreached, LineCtx.judgeLimit_eq]
    rfl
  case latched =>
    have hn : .limitExceeded (limitSubject l) c.anchor v c.pressLimit (min (c.limitEvents + 1) 255) ∈
        (sampleEvent x s).notices :=
      judgeLine_sampled (l := l) (by rw [hopen]; exact judgeLineRefusal_grows _ _ _ _ _ (judgeLineLimit_tells h3))
    have hset : ((c.judgeLimit v).judgeRefusal v).latch = true := by
      rw [LineCtx.judgeRefusal_eq]
      exact (Bool.and_eq_true_iff.1 ((c.latch_set_iff v).2 h3)).2
    rw [show events = min (c.limitEvents + 1) 255 from if_pos h3]
    refine ⟨sampleIn_occurs hn (by simp [exceedsLimit]),
      (commit_permits _ _).trans (lineUp_of_cause (c := .limit) ?_), sampleSet_tells hn⟩
    cases l with
    | a => rw [linePermit, causeStands, limitLatched, show (sampleEvent x s).st.grout.a = _ from hafter]; exact hset
    | b => rw [linePermit, causeStands, limitLatched, show (sampleEvent x s).st.grout.b = _ from hafter]; exact hset
  case refusal =>
    have hraised := judgeLineRefusal_tells (e := (beforeLine x s l).judgeLineLimit l c v) (l := l)
      (hreached.trans hnot) (hcount.trans h6)
    rw [← hopen] at hraised
    have hn := judgeLine_sampled (l := l) hraised
    have hgated : ((beforeLine x s l).judgeLineLimit l c v).st.meas.lines = s.meas.lines :=
      (congrArg Meas.lines (judgeLineLimit_frame (beforeLine x s l) l c v .meas (by simp))).trans hlines
    have hpress : (c.judgeLimit v).refusalPress = c.refusalPress := by rw [LineCtx.judgeLimit_eq]
    rw [hgated, LineCtx.judgeLimit_anchor, hpress] at hn
    exact ⟨sampleIn_occurs hn (by simp [reachesRefusal]), sampleSet_tells hn⟩
  case entry =>
    have hfound : findAnchor (monitoredEvent x s).st c.anchor =
        some { r with passes := r.passes.modify (c.position - 1) (judgedEntry c v) } := by
      rw [monitoredEvent_find hothers, judgeLine_find hgrout, if_pos rfl, beforeLine_find hothers, hr, hv]
      rfl
    have hkept := (sampleEvent_afterLines x s).2.passes c.anchor
    rw [show (monitoredEvent x s).st.anchors.find? (fun r => r.id = c.anchor) = _ from hfound] at hkept
    obtain ⟨r', hr', hpasses⟩ := Option.map_eq_some_iff.1 hkept
    refine ⟨r', (congrArg (List.find? _) (commit_anchors _)).trans hr', hpasses.trans ?_⟩
    have hentry : judgedEntry c v = fun e =>
        { e with
          limitEvents := if above = 3 then events else e.limitEvents
          refusal := if c.refusalReached = false ∧ count = 6000 then true else e.refusal } := by
      funext e
      have hevents : (if above = 3 then min (c.limitEvents + 1) 255 else e.limitEvents) =
          if above = 3 then events else e.limitEvents := by
        by_cases h3 : above = 3
        · rw [if_pos h3, if_pos h3, show events = _ from if_pos h3]
        · rw [if_neg h3, if_neg h3]
      rw [judgedEntry, ← hevents]
      rfl
    rw [hentry]

end Sys2Proof.Machine
end

section
/-! SUPPORT. The requests of the grout lines and the second of a running line (R85 to R87, R91, R94 to R97). -/

namespace Sys2Proof.Machine

/-! ## Inject Start (R85 to R87) -/

/-- The window of a POST pass counts from the end of the last entry, both bounds included. -/
theorem windowAdmits_iff {s : State} {r : AnchorRec} {pre : List PassEntry} {e : PassEntry} {stop : Nat} (now : Nat)
    (hr : r.passes = pre ++ [e]) (he : e.stop = some stop) :
    windowAdmits s r now = true ↔
      stop + s.config.params.windowMin * 60 ≤ now ∧ now ≤ stop + s.config.params.windowMax * 60 := by
  simp only [windowAdmits, hr, List.getLast?_append, List.getLast?_singleton, Option.some_or, Option.bind_some, he,
    Bool.and_eq_true, decide_eq_true_eq]
  omega

theorem windowAdmits_open {s : State} {r : AnchorRec} {pre : List PassEntry} {e : PassEntry} (now : Nat)
    (hr : r.passes = pre ++ [e]) (he : e.stop = none) : windowAdmits s r now = false := by
  simp [windowAdmits, hr, he]

theorem windowAdmits_nil {s : State} {r : AnchorRec} (now : Nat) (hr : r.passes = []) :
    windowAdmits s r now = false := by
  simp [windowAdmits, hr]

theorem injectStartReply_code {pl : List Byte} {s : State}
    (h : lineOfCode (fieldNat pl 2 1) = none ∨ passKindOfCode (fieldNat pl 3 1) = none) :
    injectStartReply pl s = refuse s .badValue := by
  unfold injectStartReply
  split
  next hl hk => simp [hl, hk] at h
  next => rfl

theorem injectStartReply_codes {pl : List Byte} {s : State} {l : GLine} {k : PassKind}
    (hl : lineOfCode (fieldNat pl 2 1) = some l) (hk : passKindOfCode (fieldNat pl 3 1) = some k) :
    injectStartReply pl s = injectStartOn (anchorField pl) l k s := by
  simp only [injectStartReply, hl, hk]

/-- The checks of R85 from the third on, and the event where none fails. -/
theorem injectStartOn_checks {a : AnchorId} (l : GLine) (k : PassKind) {s : State} {r : AnchorRec}
    (hf : findAnchor s a = some r) :
    Checks [((s.grout.get l).isSome, .lineBusy), (s.clock.time.isNone, .clockUnset), (!stageSuits k r.stage, .wrongStage),
      (decide (k = .post) && !windowAdmits s r (stampTime s), .windowClosed),
      (decide (4 ≤ r.passes.length), .passesFull), (anchorZoneClosed s r, .zoneClosed),
      (sectionHeld s r.id.sect, .sectionHeld), (sectionIsStale s r.id.sect, .deflectionStale),
      (lineFaulted s.meas l, .sensorFault)] s
      (fun reply => stageSuits k r.stage = true ∧ ∀ now, s.clock.time = some now →
        reply = done (injectStartEvent s r l k now))
      (injectStartOn a l k s) := by
  simp only [injectStartOn, hf]
  split
  · exact .fails (by simp_all)
  refine .passes (by simp_all) ?_
  cases hnow : s.clock.time with
  | none => exact .fails rfl
  | some now =>
    have hstamp : stampTime s = now := by simp [stampTime, hnow]
    rw [hstamp]
    refine .passes rfl ?_
    dsimp only
    iterate 7
      split
      · exact .fails (by simp_all)
      refine .passes (by simp_all) ?_
    exact .none_left ⟨by simp_all, fun _ h => by simp_all⟩

theorem injectStartEvent_eq (s : State) (r : AnchorRec) (l : GLine) (k : PassKind) (now : Nat) :
    injectStartEvent s r l k now = (Ev.of (openLine s l (openedPass s r k))).changeStage r
      { r with stage := .grouting, cureDue := none, passes := r.passes ++ [startedEntry k l now] } := rfl

/-- A stage that a pass starts from is neither LOCKED_OFF nor SUSPECT. -/
theorem stageSuits_plain {k : PassKind} {st : Stage} (h : stageSuits k st = true) : st ≠ .lockedOff ∧ st ≠ .suspect := by
  cases k <;> cases st <;> simp_all [stageSuits]

/-- Settles O38: the checks of R85, and a change of stage on the state with the line open. -/
theorem injectStartOpensPass : Obligations.InjectStartOpensPass := by
  refine ⟨fun s r now => ⟨fun pre e stop => windowAdmits_iff now, fun pre e => windowAdmits_open now,
    windowAdmits_nil now⟩, fun p pl s h => ⟨fun hcode => take_refused h (injectStartReply_code hcode),
      fun l k hl hk => ⟨fun hf => ?missing, fun r hf => ?found⟩⟩⟩
  case missing =>
    refine take_refused h ((injectStartReply_codes hl hk).trans ?_)
    rw [injectStartOn, show findAnchor (takeFrame s p) (anchorField pl) = none from hf]
  case found =>
    have hchecks := injectStartOn_checks (s := takeFrame s p) l k hf
    rw [← injectStartReply_codes hl hk] at hchecks
    refine ⟨fun c hfail => take_refused h (hchecks.refused hfail), fun now hpass hz hnow => ?_⟩
    intro entry limits ctx
    obtain ⟨hsuits, hreply⟩ := hchecks.accepted hpass
    obtain ⟨hlocked, hsuspect⟩ := stageSuits_plain hsuits
    have hdone := hreply now hnow
    rw [injectStartEvent_eq] at hdone
    obtain ⟨haccepted, hmoved, hwatch⟩ := stage_accepted (d := .none)
      (new := { r with stage := .grouting, cureDue := none, passes := r.passes ++ [startedEntry k l now] }) h
      (openLine_frame (takeFrame s p) l (openedPass (takeFrame s p) r k)) (by simp) hf rfl hz.1
    rw [stageItems_plain hlocked (by simp) hsuspect, stageNotices_plain hsuspect] at haccepted
    refine ⟨_, take_done h hdone, haccepted, hmoved, ?grout, ?meas, ?time, hwatch⟩
    case grout =>
      rw [commit_grout, putAnswer_grout]
      exact changeStage_keeps (openLine (takeFrame s p) l (openedPass (takeFrame s p) r k)) r _ (x := .grout) (by simp)
    case meas =>
      rw [commit_meas, putAnswer_meas]
      exact changeStage_keeps (openLine (takeFrame s p) l (openedPass (takeFrame s p) r k)) r _ (x := .meas) (by simp)
    case time =>
      rw [commit_time, putAnswer_time]
      exact changeStage_keeps (openLine (takeFrame s p) l (openedPass (takeFrame s p) r k)) r _ (x := .time) (by simp)

/-! ## Inject End (R94 to R97) -/

theorem injectEndReply_code {pl : List Byte} {s : State} (h : lineOfCode (fieldNat pl 2 1) = none) :
    injectEndReply pl s = refuse s .badValue := by
  simp only [injectEndReply, h]

theorem injectEndReply_missing {pl : List Byte} {s : State} {l : GLine} (hl : lineOfCode (fieldNat pl 2 1) = some l)
    (hf : findAnchor s (anchorField pl) = none) : injectEndReply pl s = refuse s .noSuchAnchor := by
  simp only [injectEndReply, hl, hf]

theorem openPassOn_none {s : State} {r : AnchorRec} {l : GLine}
    (h : r.stage ≠ .grouting ∨ s.grout.get l = none ∨ ∃ c, s.grout.get l = some c ∧ c.anchor ≠ r.id) :
    openPassOn s r l = none := by
  unfold openPassOn
  split
  next => rfl
  next c hc =>
    refine if_neg fun ⟨hr, hid⟩ => ?_
    simp [hr, hc, hid] at h

theorem openPassOn_open {s : State} {r : AnchorRec} {l : GLine} {c : LineCtx} (hr : r.stage = .grouting)
    (hc : s.grout.get l = some c) (hid : c.anchor = r.id) : openPassOn s r l = some c := by
  simp [openPassOn, hr, hc, hid]

theorem injectEndReply_stage {pl : List Byte} {s : State} {l : GLine} {r : AnchorRec}
    (hl : lineOfCode (fieldNat pl 2 1) = some l) (hf : findAnchor s (anchorField pl) = some r)
    (ho : openPassOn s r l = none) : injectEndReply pl s = refuse s .wrongStage := by
  simp only [injectEndReply, hl, hf, ho]

theorem injectEndReply_closes {pl : List Byte} {s : State} {l : GLine} {r : AnchorRec} {c : LineCtx}
    (hl : lineOfCode (fieldNat pl 2 1) = some l) (hf : findAnchor s (anchorField pl) = some r)
    (ho : openPassOn s r l = some c) : injectEndReply pl s = injectEndDone s r l c := by
  simp only [injectEndReply, hl, hf, ho]

/-- The record that Inject End leaves, by whether the pass cures. -/
theorem injectedRecord_eq (s : State) (c : LineCtx) (r : AnchorRec) (passes : List PassEntry) :
    injectedRecord s c r passes =
      if (decide (c.kind = .post) || decide (minimumVolume r ≤ cumulativeVolume passes)) = true then
        { r with passes := passes, stage := .curing, cureDue := some (cureDueAt s (stampTime s)) }
      else { r with passes := passes, stage := .groutShort } := by
  by_cases h : c.kind = .post ∨ minimumVolume r ≤ cumulativeVolume passes
  · rw [injectedRecord, stageAfterPass, if_pos h, if_pos rfl, if_pos (by simpa using h)]
  · rw [injectedRecord, stageAfterPass, if_neg h, if_neg (by simp), if_neg (by simpa using h)]

theorem injectedRecord_kept (s : State) (c : LineCtx) (r : AnchorRec) (passes : List PassEntry) :
    (injectedRecord s c r passes).id = r.id ∧ (injectedRecord s c r passes).imageSlot = r.imageSlot ∧
      (injectedRecord s c r passes).passes = passes ∧ (injectedRecord s c r passes).stage ≠ .lockedOff := by
  unfold injectedRecord
  split <;> exact ⟨rfl, rfl, rfl, by simp⟩

/-- A line without a context has its permit line down. -/
theorem commit_line_down {e : Ev} {l : GLine} (h : e.st.grout.get l = none) :
    (commit e).permits.get (linePermit l) = false := by
  refine (commit_permits e _).trans (lineUp_of_cause (c := .idle) ?_)
  cases l with
  | a => simp [causeStands, workAnchor, linePermit, show e.st.grout.a = none from h]
  | b => simp [causeStands, workAnchor, linePermit, show e.st.grout.b = none from h]

/-- What an accepted Inject End does. -/
theorem injectEnd_accepted {p : Port} {pl : List Byte} {s : State} {l : GLine} {r : AnchorRec} {c : LineCtx}
    (h : Asked .injectEnd p pl s) (hl : lineOfCode (fieldNat pl 2 1) = some l)
    (hf : findAnchor s (anchorField pl) = some r) (hz : s.sections.length = 64) (hc : s.grout.get l = some c)
    (hid : c.anchor = r.id) (hr : r.stage = .grouting) :
    let passes := closedPasses c r.passes (stampTime s) (s.meas.lines.get l).gated
    let new := injectedRecord s c r passes
    ∃ t, exec (.injectEnd p pl) s = .next t ∧
      Accepted .injectEnd p
        (.injectEnd new.stage (s.meas.lines.get l).gated (if c.kind = .post then none else some (cumulativeVolume passes))
          new.cureDue)
        [.image r.imageSlot] [.stageChanged r.id (some .grouting) new.stage] [.grout, .anchors, .cure, .sections] s t ∧
      StageMoved r new s t ∧ t.grout = s.grout.set l none ∧ t.permits.get (linePermit l) = false ∧
      WatchFlagsSame s t := by
  intro passes new
  obtain ⟨hnewId, hslot, hpasses, hlocked⟩ := injectedRecord_kept s c r passes
  obtain ⟨haccepted, hmoved, hwatch⟩ := stage_accepted
    (d := .injectEnd new.stage (s.meas.lines.get l).gated (if c.kind = .post then none else some (cumulativeVolume passes))
      new.cureDue) (new := new) h (setLineCtx_frame (takeFrame s p) l none) (by simp) hf hnewId hz
  rw [stageItems_plain (by simp [hr]) hlocked (by simp [hr]), stageNotices_plain (by simp [hr]), hr, hnewId, hslot]
    at haccepted
  have hgrout : ((Ev.of (setLineCtx (takeFrame s p) l none)).changeStage r new).st.grout = s.grout.set l none :=
    changeStage_keeps (setLineCtx (takeFrame s p) l none) r new (x := .grout) (by simp)
  have hbody : injectEndReply pl (takeFrame s p) =
      doneWith ((Ev.of (setLineCtx (takeFrame s p) l none)).changeStage r new)
        (.injectEnd new.stage (s.meas.lines.get l).gated (if c.kind = .post then none else some (cumulativeVolume passes))
          new.cureDue) := by
    rw [injectEndReply_closes (s := takeFrame s p) hl hf (openPassOn_open hr hc hid), ← hpasses]
    rfl
  refine ⟨_, take_done h hbody, haccepted, hmoved, ?_, commit_line_down ?_, hwatch⟩
  · rw [commit_grout, putAnswer_grout]; exact hgrout
  · rw [putAnswer_grout]
    exact (congrArg (PerLine.get · l) hgrout).trans (by rw [PerLine.get_set, if_pos rfl])

/-- Settles O39: the record is that of `injectedRecord`, carried through the tables by `changeStage`. -/
theorem injectEndClosesPass : Obligations.InjectEndClosesPass := by
  refine fun p pl s h => ⟨fun hl => take_refused h (injectEndReply_code hl), fun l hl =>
    ⟨fun hf => take_refused h (injectEndReply_missing hl hf), fun r hf => ⟨fun c hz hc hid hr => ?closes,
      fun hnot => take_refused h (injectEndReply_stage hl hf (openPassOn_none hnot))⟩⟩⟩
  intro line passes total due cured new
  have hnew : new = injectedRecord s c r (closedPasses c r.passes (stampTime s) (s.meas.lines.get l).gated) :=
    (injectedRecord_eq s c r _).symm
  have hall := injectEnd_accepted h hl hf hz.1 hc hid hr
  rw [hnew]
  exact hall

/-! ## The second of a running line (R91) -/

theorem changeOpenEntry_dirty {e : Ev} {c : LineCtx} {r : AnchorRec} (hf : findAnchor e.st c.anchor = some r)
    (f : PassEntry → PassEntry) : (e.changeOpenEntry c f).dirty = e.dirty ++ [.image r.imageSlot] := by
  simp only [Ev.changeOpenEntry, hf]
  rfl

theorem entryTrails_iff {s : State} {l : GLine} {c : LineCtx} {r : AnchorRec} {e : PassEntry}
    (hf : findAnchor s c.anchor = some r) (he : r.passes[c.position - 1]? = some e) :
    entryTrails s l c = true ↔ ¬ (e.volume = (s.meas.lines.get l).gated ∧ e.peak = c.peak) := by
  simp only [entryTrails, hf, Option.bind_some, he, Bool.or_eq_true, decide_eq_true_eq]
  tauto

/-- The event of a second of a running line, whether or not the entry trails. -/
theorem refreshEvent_owed {s : State} {l : GLine} {c : LineCtx} {r : AnchorRec} {e : PassEntry}
    (hc : s.grout.get l = some c) (hf : findAnchor s c.anchor = some r) (he : r.passes[c.position - 1]? = some e)
    (howed : s.time.refreshDue.get l ≠ 0) :
    ∃ ev, refreshEvent l s = some ev ∧
      ev.dirty = (if e.volume = (s.meas.lines.get l).gated ∧ e.peak = c.peak then [] else [.image r.imageSlot]) ∧
      ev.notices = [] ∧ ev.st.time = (useRefresh s l).time ∧
      ∀ a, findAnchor ev.st a =
        if a = c.anchor then
          (findAnchor s a).map fun r =>
            { r with
              passes := changeEntry r.passes c.position fun y =>
                { y with volume := (s.meas.lines.get l).gated, peak := c.peak } }
        else findAnchor s a := by
  have htrails := entryTrails_iff (l := l) hf he
  have hfind := changeOpenEntry_find (Ev.of (useRefresh s l)) c fun y =>
    { y with volume := (s.meas.lines.get l).gated, peak := c.peak }
  rw [refreshEvent, hc]
  dsimp only
  rw [if_neg howed]
  by_cases hsame : e.volume = (s.meas.lines.get l).gated ∧ e.peak = c.peak
  · rw [if_neg (by rw [htrails]; exact not_not_intro hsame), if_pos hsame]
    refine ⟨_, rfl, rfl, rfl, rfl, fun a => ?_⟩
    split
    next ha =>
      have hkept : changeEntry r.passes c.position (fun y =>
          { y with volume := (s.meas.lines.get l).gated, peak := c.peak }) = r.passes := by
        refine List.modify_same fun x hx => ?_
        obtain rfl : e = x := Option.some.inj (he.symm.trans hx)
        rw [← hsame.1, ← hsame.2]
      rw [ha, hf, Option.map_some, hkept]
      exact hf
    next => rfl
  · rw [if_pos (htrails.2 hsame), if_neg hsame]
    exact ⟨_, rfl, changeOpenEntry_dirty (e := Ev.of (useRefresh s l)) hf _, changeOpenEntry_notices _ _ _,
      changeOpenEntry_frame (Ev.of (useRefresh s l)) c _ .time (by simp), hfind⟩

/-- Settles O40: the open entry takes the volume and the peak, and the image is dirtied only where one differed. -/
theorem passEntryFollowsLine : Obligations.PassEntryFollowsLine := by
  refine fun l s c r e hc hf he => ⟨fun howed => ?_, fun hnone => ?_⟩
  · obtain ⟨ev, hevent, hdirty, hnotices, htime, hfind⟩ := refreshEvent_owed hc hf he howed
    have hframe := refreshEvent_frame l s ev hevent
    have hwatch := commit_watchFlags ev
    have hoccurred := occurred_commit hdirty (hframe .ports (by simp)) (hframe .recorder (by simp))
      (hframe .permits (by simp)) hframe
    rw [hnotices] at hoccurred
    have hcommit : ∀ a, findAnchor (commit ev) a = findAnchor ev.st a := fun a => by
      rw [findAnchor, commit_anchors, findAnchor]
    refine ⟨_, congrArg (occurs · s) hevent, hoccurred, ?_, fun a ha => ?_, ?_, (commit_time ev).trans htime⟩
    · rw [hcommit, hfind, if_pos rfl, hf]
      rfl
    · rw [hcommit, hfind, if_neg ha]
    · simpa only [WatchFlagsSame, show ev.st.watch = s.watch from hframe .watch (by simp)] using hwatch
  · have hevent : refreshEvent l s = none := by rw [refreshEvent, hc]; exact if_pos hnone
    exact congrArg (occurs · s) hevent

end Sys2Proof.Machine
end

section
/-! SUPPORT. Holds, zones, section limits and reports (R31, R33 to R38, R40, R44 to R46). -/

namespace Sys2Proof.Machine

/-! ## The effective level (R34) -/

theorem levelRank_inj {a b : Option HoldLevel} (h : levelRank a = levelRank b) : a = b := by
  rcases a with _ | a <;> rcases b with _ | b
  · rfl
  · cases b <;> simp [levelRank] at h
  · cases a <;> simp [levelRank] at h
  · cases a <;> cases b <;> simp_all [levelRank]

theorem levelRank_max (a b : Option HoldLevel) : levelRank (levelMax a b) = max (levelRank a) (levelRank b) := by
  unfold levelMax
  split <;> omega

theorem levelRank_pos (lv : HoldLevel) : 0 < levelRank (some lv) := by cases lv <;> decide

/-- The rank of the highest level of some records, from a level that stands beside them. -/
theorem levelRank_foldl (l : List Hold) (acc : Option HoldLevel) :
    levelRank (l.foldl (fun acc h => levelMax acc (some h.level)) acc) =
      l.foldl (fun n h => max n (levelRank (some h.level))) (levelRank acc) := by
  induction l generalizing acc with
  | nil => rfl
  | cons h rest ih => rw [List.foldl_cons, ih, levelRank_max, List.foldl_cons]

/-- The effective level does not depend on the order of the records. -/
theorem effectiveOf_perm {l m : List Hold} (h : l.Perm m) : effectiveOf l = effectiveOf m := by
  apply levelRank_inj
  rw [effectiveOf, effectiveOf, levelRank_foldl, levelRank_foldl]
  have : RightCommutative fun (n : Nat) (h : Hold) => max n (levelRank (some h.level)) :=
    ⟨fun n a b => by omega⟩
  exact h.foldl_eq _

/-- One more record raises the effective level to its own where that is higher. -/
theorem effectiveOf_concat (l : List Hold) (x : Hold) :
    effectiveOf (l ++ [x]) = levelMax (effectiveOf l) (some x.level) := by
  rw [effectiveOf, List.foldl_append]
  rfl

/-- The effective level is that of a record, and no record has a higher one. -/
theorem effectiveOf_highest (l : List Hold) :
    (∀ h ∈ l, levelRank (some h.level) ≤ levelRank (effectiveOf l)) ∧
      (effectiveOf l = none ∨ ∃ h ∈ l, effectiveOf l = some h.level) := by
  induction l using List.reverseRecOn with
  | nil => exact ⟨by simp, .inl rfl⟩
  | append_singleton l x ih =>
    rw [effectiveOf_concat, levelRank_max]
    refine ⟨fun h hh => ?_, ?_⟩
    · rcases List.mem_append.1 hh with hl | hx
      · exact (ih.1 h hl).trans (le_max_left _ _)
      · rw [List.mem_singleton.1 hx]; exact le_max_right _ _
    · rw [levelMax]
      split
      · exact .inr ⟨x, by simp, rfl⟩
      · exact ih.2.imp_right fun ⟨h, hl, he⟩ => ⟨h, by simp [hl], he⟩

theorem effectiveOf_none {l : List Hold} : effectiveOf l = none ↔ l = [] := by
  refine ⟨fun h => List.eq_nil_iff_forall_not_mem.2 fun x hx => ?_, fun h => h ▸ rfl⟩
  have hrank := (effectiveOf_highest l).1 x hx
  rw [h] at hrank
  exact absurd hrank (Nat.not_le.2 (levelRank_pos x.level))

/-! ## A record put in its place (R33) -/

theorem insertByKey_filter_not {α : Type} (key : α → List Nat) {x : α} (l : List α) {q : α → Bool} (hx : q x = false) :
    (insertByKey key x l).filter q = l.filter q := by
  induction l with
  | nil => simp [insertByKey, hx]
  | cons y rest ih =>
    rw [insertByKey]
    split
    · rw [List.filter_cons, ih, ← List.filter_cons]
    · rw [List.filter_cons_of_neg (by simp [hx])]

theorem insertByKey_filter_only {α : Type} (key : α → List Nat) {x : α} {l : List α} {q : α → Bool} (hx : q x = true)
    (hl : l.filter q = []) : (insertByKey key x l).filter q = [x] := by
  have hperm := (insertByKey_perm key x l).filter q
  rw [List.filter_cons_of_pos hx, hl] at hperm
  exact List.perm_singleton.1 hperm

theorem putHold_source (l : List Hold) (x : Hold) :
    ((putHold l x).filter fun h => h.source = x.source) = [x] :=
  insertByKey_filter_only _ (by simp) (by simp [List.filter_filter])

theorem putHold_other (l : List Hold) (x : Hold) {q : Hold → Bool} (hq : ∀ h : Hold, h.source = x.source → q h = false) :
    (putHold l x).filter q = l.filter q := by
  rw [putHold, insertByKey_filter_not _ _ (hq x rfl), List.filter_filter]
  refine List.filter_congr fun h _ => ?_
  by_cases hs : h.source = x.source
  · simp [hq h hs]
  · simp [hs]

/-- A record whose source has none yet raises the effective level to its own. -/
theorem effectiveOf_putHold {l : List Hold} {x : Hold} (h : (l.any fun h => h.source = x.source) = false) :
    effectiveOf (putHold l x) = levelMax (effectiveOf l) (some x.level) := by
  have hkept : (l.filter fun h => h.source ≠ x.source) = l :=
    List.filter_eq_self.2 fun y hy => by simpa using List.any_eq_false.1 h y hy
  rw [putHold, effectiveOf_perm ((insertByKey_perm _ _ _).trans (List.perm_append_singleton _ _).symm),
    effectiveOf_concat, hkept]

/-! ## Section records through an event -/

/-- A section in use is one of the 64 of the table. -/
theorem inSections_bounds {s : State} {n : Nat} (hz : TablesSized s) (h : inSections s n = true) :
    1 ≤ n ∧ n ≤ 64 ∧ n - 1 < s.sections.length := by
  obtain ⟨hlen, -, ⟨-, -, hmax⟩, -⟩ := hz
  rw [inSections, Bool.and_eq_true, decide_eq_true_eq, decide_eq_true_eq] at h
  omega

/-- The state after an answered event holds the sections as the event left them. -/
theorem sectionRec_answered (k : Byte) (p : Port) (r : Reply) (n : Nat) :
    sectionRec (commit (putAnswer k p r)) n = sectionRec r.ev.st n := by
  rw [sectionRec, sectionRec, commit_sections, putAnswer_sections]

theorem effectiveLevel_answered (k : Byte) (p : Port) (r : Reply) (n : Nat) :
    effectiveLevel (commit (putAnswer k p r)) n = effectiveLevel r.ev.st n := by
  rw [effectiveLevel, effectiveLevel, sectionRec_answered]

/-- The hold that an event writes. -/
def heldAt (s : State) (src : HoldSource) (lv : HoldLevel) (reason : Option Nat) : Hold :=
  { source := src, level := lv, time := stampTime s, reason := reason }

theorem writeHold_rec (e : Ev) {n : Nat} (src : HoldSource) (lv : HoldLevel) (reason : Option Nat) (hn : 1 ≤ n)
    (hl : n - 1 < e.st.sections.length) :
    sectionRec (e.writeHold n src lv reason).st n =
        { sectionRec e.st n with
          data := { (sectionRec e.st n).data with
            holds := putHold (sectionRec e.st n).data.holds (heldAt e.st src lv reason) } } ∧
      OtherSectionsSame n e.st (e.writeHold n src lv reason).st ∧
      (e.writeHold n src lv reason).st.sections.length = e.st.sections.length :=
  changeSection_rec e n (fun d => { d with holds := putHold d.holds (heldAt e.st src lv reason) }) hn hl

theorem writeHold_dirty (e : Ev) (n : Nat) (src : HoldSource) (lv : HoldLevel) (reason : Option Nat) :
    (e.writeHold n src lv reason).dirty = e.dirty ++ [.sections] := rfl

theorem writeHold_notices (e : Ev) (n : Nat) (src : HoldSource) (lv : HoldLevel) (reason : Option Nat) :
    (e.writeHold n src lv reason).notices =
      e.notices ++ [.holdChanged n src (some lv) (effectiveLevel (e.writeHold n src lv reason).st n)] := rfl

/-! ## Set Hold and Release Hold (R36, R37) -/

theorem setHoldReply_bad {pl : List Byte} {s : State}
    (h : inSections s (fieldNat pl 0 1) = false ∨ levelOfCode (fieldNat pl 1 1) = none) :
    setHoldReply pl s = refuse s .badValue := by
  unfold setHoldReply
  split
  next hin => rw [h.resolve_left (by simp [hin])]
  next => rfl

theorem setHoldReply_writes {pl : List Byte} {s : State} {lv : HoldLevel} (hn : inSections s (fieldNat pl 0 1) = true)
    (hlv : levelOfCode (fieldNat pl 1 1) = some lv) :
    setHoldReply pl s = done ((Ev.of s).writeHold (fieldNat pl 0 1) .survey lv (some (fieldNat pl 2 1))) := by
  rw [setHoldReply, if_pos hn, hlv]

theorem releaseHoldReply_bad {pl : List Byte} {s : State}
    (h : inSections s (fieldNat pl 0 1) = false ∨ sourceOfCode (fieldNat pl 1 1) = none ∨
      sourceOfCode (fieldNat pl 1 1) = some .store) : releaseHoldReply pl s = refuse s .badValue := by
  unfold releaseHoldReply
  split
  next hin => rcases h.resolve_left (by simp [hin]) with h | h <;> rw [h]
  next => rfl

theorem releaseHoldReply_removes {pl : List Byte} {s : State} {src : HoldSource}
    (hn : inSections s (fieldNat pl 0 1) = true) (hsrc : sourceOfCode (fieldNat pl 1 1) = some src)
    (hstore : src ≠ .store) : releaseHoldReply pl s = done ((Ev.of s).removeHold (fieldNat pl 0 1) src) := by
  rw [releaseHoldReply, if_pos hn, hsrc]
  cases src <;> simp_all

theorem removeHold_dirty (e : Ev) (n : Nat) (src : HoldSource) :
    (e.removeHold n src).dirty = e.dirty ++ if hasHold e.st n src then [.sections] else [] := by
  unfold Ev.removeHold
  split
  · rfl
  · rw [List.append_nil]

theorem removeHold_notices (e : Ev) (n : Nat) (src : HoldSource) :
    (e.removeHold n src).notices =
      e.notices ++ if hasHold e.st n src then [.holdChanged n src none (effectiveLevel (e.removeHold n src).st n)] else [] := by
  unfold Ev.removeHold
  split
  · rfl
  · rw [List.append_nil]

/-- Without a record of the source its removal is nothing, which is what filtering it out says. -/
theorem removeHold_filtered (e : Ev) {n : Nat} (src : HoldSource) (hn : 1 ≤ n) (hl : n - 1 < e.st.sections.length) :
    sectionRec (e.removeHold n src).st n =
        { sectionRec e.st n with
          data := { (sectionRec e.st n).data with
            holds := (sectionRec e.st n).data.holds.filter fun h => h.source ≠ src } } ∧
      OtherSectionsSame n e.st (e.removeHold n src).st := by
  obtain ⟨hrec, hothers, -⟩ := removeHold_rec e n src hn hl
  refine ⟨?_, hothers⟩
  rw [hrec]
  split
  · rfl
  next hnone =>
    have hkept : ((sectionRec e.st n).data.holds.filter fun h => h.source ≠ src) = (sectionRec e.st n).data.holds := by
      refine List.filter_eq_self.2 fun h hh => ?_
      have := List.any_eq_false.1 (Bool.eq_false_iff.2 hnone) h hh
      simpa using this
    rw [hkept]

/-- Settles O41: the effective level is the highest of the records, a hold is put in its place among them, and a release
filters it out. -/
theorem holdsAreSetAndReleased : Obligations.HoldsAreSetAndReleased := by
  refine ⟨fun s n => ?level, fun p pl s hz => ?requests⟩
  case level =>
    intro rank
    obtain ⟨hhigh, hone⟩ := effectiveOf_highest (sectionRec s n).data.holds
    have hrank : ∀ lv, rank lv = levelRank (some lv) := by intro lv; cases lv <;> rfl
    refine ⟨effectiveOf_none, fun lv hlv => ?_⟩
    rw [effectiveLevel] at hlv
    rw [hlv] at hhigh hone
    refine ⟨?_, fun h hh => by rw [hrank, hrank]; exact hhigh h hh⟩
    obtain ⟨h, hh, heq⟩ := hone.resolve_left (by simp)
    exact ⟨h, hh, (Option.some.inj heq).symm⟩
  case requests =>
    intro n old
    refine ⟨fun h => ⟨fun lv hin hlv => ?set, fun hbad => take_refused h (setHoldReply_bad hbad)⟩,
      fun h => ⟨fun src hin hsrc hstore => ?release, fun hbad => take_refused h (releaseHoldReply_bad hbad)⟩⟩
    case set =>
      obtain ⟨hn, -, hl⟩ := inSections_bounds hz hin
      obtain ⟨hrec, hothers, -⟩ := writeHold_rec (Ev.of (takeFrame s p)) .survey lv (some (fieldNat pl 2 1)) hn hl
      refine ⟨_, putHold old.data.holds (heldAt s .survey lv (some (fieldNat pl 2 1))),
        take_done h (setHoldReply_writes (s := takeFrame s p) hin hlv),
        accepted_event h rfl ?notices (writeHold_frame _ _ _ _ _) (by simp) (by simp) (by simp), ?rec, ?others,
        putHold_source old.data.holds (heldAt s .survey lv (some (fieldNat pl 2 1))), ?kept, ?order, putAnswer_watches rfl⟩
      case notices => rw [writeHold_notices, effectiveLevel_answered]; rfl
      case rec => rw [sectionRec_answered]; exact hrec
      case others => exact fun m h1 h2 => (sectionRec_answered _ _ _ m).trans (hothers m h1 h2)
      case kept => exact putHold_other _ _ fun x hx => by simp [hx, heldAt]
      case order => exact fun hsorted => List.pairwise_map.2 (putHold_rising (List.pairwise_map.1 hsorted) _)
    case release =>
      obtain ⟨hn, -, hl⟩ := inSections_bounds hz hin
      obtain ⟨hrec, hothers⟩ := removeHold_filtered (Ev.of (takeFrame s p)) src hn hl
      have hbody := releaseHoldReply_removes (s := takeFrame s p) hin hsrc hstore
      have hframe := removeHold_frame (Ev.of (takeFrame s p)) n src
      refine ⟨_, take_done h hbody, accepted_event h (removeHold_dirty _ _ _) ?gone hframe (by simp) (by simp) (by simp),
        ?released, ?elsewhere, putAnswer_watches (hframe .watch (by simp))⟩
      case gone => rw [removeHold_notices, effectiveLevel_answered]; rfl
      case released => rw [sectionRec_answered]; exact hrec
      case elsewhere => exact fun m h1 h2 => (sectionRec_answered _ _ _ m).trans (hothers m h1 h2)

/-! ## Zones and section limits (R31, R40) -/

theorem setZoneReply_bad {pl : List Byte} {s : State} (b : Bool) (h : 15 < fieldNat pl 0 1) :
    setZoneReply b pl s = refuse s .badValue := by
  rw [setZoneReply, if_neg (Nat.not_le.2 h)]

/-- The event of an accepted Open Zone or Close Zone. -/
def zoneEvent (s : State) (b : Bool) (n : Nat) : Ev :=
  if zoneOpen s n = b then Ev.of s
  else (Ev.of { s with config := { s.config with zones := s.config.zones.set n b } }).dirtied .config

theorem setZoneReply_sets {pl : List Byte} {s : State} (b : Bool) (h : fieldNat pl 0 1 ≤ 15) :
    setZoneReply b pl s = done (zoneEvent s b (fieldNat pl 0 1)) := by
  rw [setZoneReply, if_pos h, zoneEvent]
  split <;> rfl

theorem zoneEvent_frame (s : State) (b : Bool) (n : Nat) : OnlyChanges [.config] s (zoneEvent s b n).st := by
  unfold zoneEvent
  split
  · exact .refl _ _
  · intro x hx
    cases x <;> simp_all [SamePart]

theorem zoneEvent_told (s : State) (b : Bool) (n : Nat) :
    (zoneEvent s b n).dirty = (if zoneOpen s n = b then [] else [.config]) ∧ (zoneEvent s b n).notices = [] := by
  unfold zoneEvent
  split <;> exact ⟨rfl, rfl⟩

theorem zoneEvent_config {s : State} (b : Bool) {n : Nat} (hs : s.config.zones.length = 16) (hn : n ≤ 15) :
    (zoneEvent s b n).st.config = { s.config with zones := (zoneEvent s b n).st.config.zones } ∧
      ∀ z, zoneOpen (zoneEvent s b n).st z = if z = n then b else zoneOpen s z := by
  unfold zoneEvent
  split
  next hsame =>
    refine ⟨rfl, fun z => ?_⟩
    split
    next hz => rw [hz]; exact hsame
    next => rfl
  next =>
    refine ⟨rfl, fun z => ?_⟩
    simp only [zoneOpen, List.getD_eq_getElem?_getD, Ev.dirtied_st, Ev.of_st, List.getElem?_set]
    by_cases hz : n = z
    · rw [if_pos hz, if_pos hz.symm, if_pos (by omega)]
      rfl
    · rw [if_neg hz, if_neg (Ne.symm hz)]

/-- What an accepted Open Zone or Close Zone does. -/
theorem zone_accepted {k : ReqKind} {p : Port} {pl : List Byte} {s : State} (b : Bool) (h : Asked k p pl s)
    (hz : TablesSized s) (hn : fieldNat pl 0 1 ≤ 15) :
    ∃ t, take k p pl (setZoneReply b pl) s = .next t ∧
      Accepted k p .none (if zoneOpen s (fieldNat pl 0 1) = b then [] else [.config]) [] [.config] s t ∧
      t.config = { s.config with zones := t.config.zones } ∧
      (∀ z, zoneOpen t z = if z = fieldNat pl 0 1 then b else zoneOpen s z) ∧ WatchFlagsSame s t := by
  obtain ⟨hconfig, hopen⟩ := zoneEvent_config (s := takeFrame s p) b hz.2.2.1.1 hn
  obtain ⟨hdirty, hnotices⟩ := zoneEvent_told (takeFrame s p) b (fieldNat pl 0 1)
  have hframe := zoneEvent_frame (takeFrame s p) b (fieldNat pl 0 1)
  refine ⟨_, take_done h (setZoneReply_sets (s := takeFrame s p) b hn),
    accepted_event h hdirty hnotices hframe (by simp) (by simp) (by simp), ?_, fun z => ?_,
    putAnswer_watches (hframe .watch (by simp))⟩
  · rw [commit_config, putAnswer_config]; exact hconfig
  · rw [zoneOpen, commit_config, putAnswer_config]; exact hopen z

theorem setSectionReply_bad {pl : List Byte} {s : State} (h : inSections s (fieldNat pl 0 1) = false) :
    setSectionReply pl s = refuse s .badValue := by
  rw [setSectionReply, if_neg (by simp [h])]

/-- Settles O42: one zone flag, and the three limits of one section. -/
theorem zonesAndSectionLimitsAreSet : Obligations.ZonesAndSectionLimitsAreSet := by
  refine fun p pl s hz => ⟨fun h => ⟨zone_accepted true h hz, fun hn => take_refused h (setZoneReply_bad true hn)⟩,
    fun h => ⟨zone_accepted false h hz, fun hn => take_refused h (setZoneReply_bad false hn)⟩,
    fun h => ⟨fun hin => ?_, fun hout => take_refused h (setSectionReply_bad hout)⟩⟩
  intro press refusal defl old
  obtain ⟨hn, -, hl⟩ := inSections_bounds hz hin
  obtain ⟨hrec, hothers, -⟩ := changeSection_rec (Ev.of (takeFrame s p)) (fieldNat pl 0 1)
    (fun d => { d with pressLimit := press, refusalPress := refusal, deflLimit := defl }) hn hl
  have hbody : setSectionReply pl (takeFrame s p) =
      doneWith ((Ev.of (takeFrame s p)).changeSection (fieldNat pl 0 1) fun d =>
        { d with pressLimit := press, refusalPress := refusal, deflLimit := defl }) (.sectionLimits press refusal defl) := by
    have hdefl : clampNat 0 50000 (fieldNat pl 5 2) = defl := Nat.zero_max _
    rw [setSectionReply, if_pos (show inSections (takeFrame s p) (fieldNat pl 0 1) = true from hin), hdefl]
    rfl
  refine ⟨_, take_done h hbody, accepted_event h rfl rfl (changeSection_frame _ _ _) (by simp) (by simp) (by simp), ?_,
    fun m h1 h2 => (sectionRec_answered _ _ _ m).trans (hothers m h1 h2), putAnswer_watches rfl⟩
  rw [sectionRec_answered]
  exact hrec

end Sys2Proof.Machine
end

section
/-! SUPPORT. Report Deflection with its watch channels, the stale flag, and Set Parameter (R44 to R47, R206). -/

namespace Sys2Proof.Machine

/-! ## A section through the channels that a report feeds (R44, R45, R169) -/

/-- What the channels fed by a report of section `n` can do to the event: write their own holds on that section. -/
structure ReportKept (n : Nat) (e f : Ev) : Prop where
  config : f.st.config = e.st.config
  size : f.st.sections.length = e.st.sections.length
  others : OtherSectionsSame n e.st f.st
  record : sectionRec f.st n =
    { sectionRec e.st n with data := { (sectionRec e.st n).data with holds := (sectionRec f.st n).data.holds } }
  deflection : ((sectionRec f.st n).data.holds.filter fun h => h.source = .deflection) =
    (sectionRec e.st n).data.holds.filter fun h => h.source = .deflection
  dirtied : ∀ i ∈ f.dirty, i ∈ e.dirty ∨ i = .sections
  grown : ∀ i ∈ e.dirty, i ∈ f.dirty

theorem ReportKept.of_same {n : Nat} {e f : Ev} (hc : f.st.config = e.st.config) (hs : f.st.sections = e.st.sections)
    (hd : f.dirty = e.dirty) : ReportKept n e f := by
  have hrec : ∀ m, sectionRec f.st m = sectionRec e.st m := fun m => by rw [sectionRec, sectionRec, hs]
  exact ⟨hc, by rw [hs], fun m _ _ => hrec m, by rw [hrec], by rw [hrec], fun i hi => .inl (hd ▸ hi), fun i hi => hd ▸ hi⟩

theorem ReportKept.trans {n : Nat} {e f g : Ev} (h : ReportKept n e f) (k : ReportKept n f g) : ReportKept n e g where
  config := k.config.trans h.config
  size := k.size.trans h.size
  others m h1 h2 := (k.others m h1 h2).trans (h.others m h1 h2)
  record := by
    have hk := k.record
    rw [h.record] at hk
    exact hk
  deflection := k.deflection.trans h.deflection
  dirtied i hi := (k.dirtied i hi).elim (h.dirtied i) .inr
  grown i hi := k.grown i (h.grown i hi)

theorem writeHold_reportKept (e : Ev) {n : Nat} {src : HoldSource} (lv : HoldLevel) (hsrc : src ≠ .deflection)
    (hn : 1 ≤ n) (hl : n - 1 < e.st.sections.length) : ReportKept n e (e.writeHold n src lv none) := by
  obtain ⟨hrec, hothers, hsize⟩ := writeHold_rec e src lv none hn hl
  refine ⟨rfl, hsize, hothers, by rw [hrec], ?_, fun i hi => ?_, fun i hi => ?_⟩
  · rw [hrec]
    refine putHold_other _ _ fun x hx => ?_
    simp [hx, heldAt, hsrc]
  · rw [writeHold_dirty] at hi
    simpa using hi
  · rw [writeHold_dirty]
    exact List.mem_append_left _ hi

theorem watchHoldSource_ne_deflection (w : WatchId) : watchHoldSource w ≠ .deflection := by cases w <;> simp [watchHoldSource]

theorem changeWatch_reportKept (n : Nat) (e : Ev) (w : WatchId) (f : WatchState → WatchState) :
    ReportKept n e (e.changeWatch w f) := .of_same rfl rfl rfl

theorem actionHold_reportKept (e : Ev) (w : WatchId) {n : Nat} (hn : 1 ≤ n) (hl : n - 1 < e.st.sections.length) :
    ReportKept n e (e.actionHold w (some n)) := by
  unfold Ev.actionHold
  split
  next lv m _ hm =>
    obtain rfl := Option.some.inj hm
    exact writeHold_reportKept e lv (watchHoldSource_ne_deflection w) hn hl
  next => exact .of_same rfl rfl rfl

/-- A trip of a channel whose source is the section's deflection. -/
theorem tripWatch_reportKept (e : Ev) (w : WatchId) (v : Int) {n : Nat} (hn : 1 ≤ n)
    (hl : n - 1 < e.st.sections.length) (hw : (e.st.config.watch.get w).source = .deflection n) :
    ReportKept n e (e.tripWatch w v) := by
  unfold Ev.tripWatch
  split
  · exact .of_same rfl rfl rfl
  · have hsect : relatedSection e.st (e.st.config.watch.get w).source = some n := by rw [hw]; rfl
    have hhold := actionHold_reportKept (e.changeWatch w WatchState.trip) w hn hl
    rw [← hsect] at hhold
    exact ((changeWatch_reportKept n e w _).trans hhold).trans (.of_same rfl rfl rfl)

theorem evaluateWatch_reportKept (e : Ev) (w : WatchId) {n : Nat} (hn : 1 ≤ n)
    (hl : n - 1 < e.st.sections.length) (hw : (e.st.config.watch.get w).source = .deflection n) :
    ReportKept n e (e.evaluateWatch w) := by
  unfold Ev.evaluateWatch
  dsimp only
  split
  · exact .of_same rfl rfl rfl
  · unfold Ev.countWatch
    split
    · split
      · exact tripWatch_reportKept e w _ hn hl hw
      · exact changeWatch_reportKept n e w _
    · exact changeWatch_reportKept n e w _

/-- A report of section `n` feeds the channels whose source is that section's deflection, and no others. -/
theorem feedWatches_reportKept (e : Ev) {n : Nat} (hn : 1 ≤ n) (hl : n - 1 < e.st.sections.length) :
    ReportKept n e (e.feedWatches (fedByReport n)) := by
  have hfold : ∀ (ws : List WatchId) (f : Ev), n - 1 < f.st.sections.length →
      (∀ w ∈ ws, (f.st.config.watch.get w).source = .deflection n) →
      ReportKept n f (ws.foldl (fun acc w => acc.evaluateWatch w) f) := by
    intro ws
    induction ws with
    | nil => exact fun f _ _ => .of_same rfl rfl rfl
    | cons w rest ih =>
      intro f hf hws
      have hone := evaluateWatch_reportKept f w hn hf (hws w List.mem_cons_self)
      exact hone.trans (ih _ (hone.size ▸ hf) fun x hx => by rw [hone.config]; exact hws x (List.mem_cons_of_mem _ hx))
  refine hfold _ e hl fun w hw => ?_
  have hfed := (List.mem_filter.1 hw).2
  simp only [fedByReport, Bool.and_eq_true, decide_eq_true_eq] at hfed
  exact hfed.1.2

/-! ## Report Deflection (R44, R45) -/

theorem reportDeflectionReply_bad {pl : List Byte} {s : State} (h : inSections s (fieldNat pl 0 1) = false) :
    reportDeflectionReply pl s = refuse s .badValue := by
  rw [reportDeflectionReply, if_neg (by simp [h])]

theorem reportDeflectionReply_stores {pl : List Byte} {s : State} (h : inSections s (fieldNat pl 0 1) = true) :
    reportDeflectionReply pl s =
      done (reportEvent s (fieldNat pl 0 1) (clampSigned (-50000) 50000 (fieldInt pl 1 4))) := by
  rw [reportDeflectionReply, if_pos h]

/-- A report exceeds the limit of its section, and the section has no DEFLECTION hold. -/
def reportHolds (s : State) (n : Nat) (v : Int) : Prop :=
  (sectionRec s n).data.deflLimit ≠ 0 ∧ (sectionRec s n).data.deflLimit < v.natAbs ∧ hasHold s n .deflection = false

/-- The event of a report before the watch channels, where the limit asks for a hold and where it does not. -/
def comparedEvent (s : State) (n : Nat) (v : Int) : Ev := ((Ev.of (reportedSection s n v)).dirtied .sections).compareLimit n v

/-- The record of a section as a report leaves it, before the limit. -/
def reportedRec (s : State) (n : Nat) (v : Int) : SectionRec :=
  { data := { (sectionRec s n).data with lastDeflection := some { value := v, time := stampTime s } }
    age := some 0, stale := false }

theorem reportedSection_rec (s : State) {n : Nat} (v : Int) (hn : 1 ≤ n) (hl : n - 1 < s.sections.length) :
    sectionRec (reportedSection s n v) n = reportedRec s n v ∧ OtherSectionsSame n s (reportedSection s n v) ∧
      (reportedSection s n v).sections.length = s.sections.length :=
  ⟨sectionRec_set_self s n _ hl, fun m h1 h2 => sectionRec_set_ne s n m _ h1 h2 hn, List.length_set⟩

/-- The limit compared: what it writes, told and dirtied. -/
theorem comparedEvent_facts (s : State) {n : Nat} (v : Int) (hn : 1 ≤ n) (hl : n - 1 < s.sections.length) :
    (comparedEvent s n v).st.sections.length = s.sections.length ∧
    OtherSectionsSame n s (comparedEvent s n v).st ∧
    (∀ i, i ∈ (comparedEvent s n v).dirty ↔ i = .sections) ∧
    (reportHolds s n v →
      .holdChanged n .deflection (some .stopNew) (levelMax (effectiveLevel s n) (some .stopNew)) ∈
        (comparedEvent s n v).notices ∧
      sectionRec (comparedEvent s n v).st n =
        { reportedRec s n v with
          data := { (reportedRec s n v).data with
            holds := putHold (sectionRec s n).data.holds (heldAt s .deflection .stopNew none) } }) ∧
    (¬ reportHolds s n v → sectionRec (comparedEvent s n v).st n = reportedRec s n v) := by
  obtain ⟨hrec, hothers, hsize⟩ := reportedSection_rec s v hn hl
  have hcompare : comparedEvent s n v =
      if (sectionRec (reportedSection s n v) n).data.deflLimit ≠ 0 ∧
          (sectionRec (reportedSection s n v) n).data.deflLimit < v.natAbs ∧
          hasHold (reportedSection s n v) n .deflection = false then
        ((Ev.of (reportedSection s n v)).dirtied .sections).writeHold n .deflection .stopNew none
      else (Ev.of (reportedSection s n v)).dirtied .sections := rfl
  have hhas : hasHold (reportedSection s n v) n .deflection = hasHold s n .deflection := by
    rw [hasHold, hrec]; rfl
  have hlimit : (sectionRec (reportedSection s n v) n).data.deflLimit = (sectionRec s n).data.deflLimit := by rw [hrec]; rfl
  rw [hhas, hlimit] at hcompare
  obtain ⟨hwritten, hkept, hlen⟩ := writeHold_rec ((Ev.of (reportedSection s n v)).dirtied .sections) .deflection .stopNew
    none hn (show n - 1 < (reportedSection s n v).sections.length by rw [hsize]; exact hl)
  by_cases hh : reportHolds s n v
  · have hlimits : _ ∧ _ ∧ _ := hh
    rw [hcompare, if_pos hlimits]
    have hstored : (sectionRec (((Ev.of (reportedSection s n v)).dirtied .sections).writeHold n .deflection .stopNew none).st
        n).data.holds = putHold (sectionRec s n).data.holds (heldAt s .deflection .stopNew none) := by
      rw [hwritten]
      have hholds := congrArg (fun r : SectionRec => putHold r.data.holds (heldAt s .deflection .stopNew none)) hrec
      exact hholds
    have hlevel : effectiveLevel (((Ev.of (reportedSection s n v)).dirtied .sections).writeHold n .deflection .stopNew
        none).st n = levelMax (effectiveLevel s n) (some .stopNew) := by
      rw [effectiveLevel, hstored]
      exact effectiveOf_putHold hh.2.2
    refine ⟨hlen.trans hsize, fun m h1 h2 => (hkept m h1 h2).trans (hothers m h1 h2), fun i => ?_, fun _ => ⟨?_, ?_⟩,
      fun hnot => absurd hh hnot⟩
    · simp [writeHold_dirty]
    · rw [writeHold_notices, hlevel]
      exact List.mem_append_right _ (List.mem_singleton_self _)
    · rw [hwritten, show sectionRec ((Ev.of (reportedSection s n v)).dirtied .sections).st n = _ from hrec]
      rfl
  · have hlimits : ¬ (_ ∧ _ ∧ _) := hh
    rw [hcompare, if_neg hlimits]
    exact ⟨hsize, hothers, fun i => by simp, fun h => absurd h hh, fun _ => hrec⟩

/-- A section's hold of the limit after a report, found among its records. -/
theorem comparedEvent_deflection (s : State) {n : Nat} (v : Int) (hn : 1 ≤ n) (hl : n - 1 < s.sections.length) :
    (reportHolds s n v →
      ((sectionRec (comparedEvent s n v).st n).data.holds.filter fun h => h.source = .deflection) =
        [heldAt s .deflection .stopNew none]) ∧
    (¬ reportHolds s n v →
      ((sectionRec (comparedEvent s n v).st n).data.holds.filter fun h => h.source = .deflection) =
        (sectionRec s n).data.holds.filter fun h => h.source = .deflection) := by
  obtain ⟨-, -, -, hwritten, hplain⟩ := comparedEvent_facts s v hn hl
  refine ⟨fun hh => ?_, fun hh => ?_⟩
  · rw [(hwritten hh).2]
    exact putHold_source _ (heldAt s .deflection .stopNew none)
  · rw [hplain hh]
    rfl

theorem comparedEvent_record (s : State) {n : Nat} (v : Int) (hn : 1 ≤ n) (hl : n - 1 < s.sections.length) :
    sectionRec (comparedEvent s n v).st n =
      { reportedRec s n v with
        data := { (reportedRec s n v).data with holds := (sectionRec (comparedEvent s n v).st n).data.holds } } := by
  obtain ⟨-, -, -, hwritten, hplain⟩ := comparedEvent_facts s v hn hl
  by_cases hh : reportHolds s n v
  · rw [(hwritten hh).2]
  · rw [hplain hh]

/-- Settles O43: the report's section, its limit, and the channels it feeds, which leave all of it but their own holds. -/
theorem reportsKeepSectionsFresh : Obligations.ReportsKeepSectionsFresh := by
  refine ⟨fun p pl s hz h => ?report, fun s n hz h1 h64 => ?stale⟩
  case report =>
    intro n v old
    refine ⟨fun hin => ?_, fun hout => take_refused h (reportDeflectionReply_bad hout)⟩
    obtain ⟨hn, -, hl⟩ := inSections_bounds hz hin
    obtain ⟨hsize, hothers, hdirty, hwritten, -⟩ := comparedEvent_facts (takeFrame s p) v hn hl
    obtain ⟨hheld, hplain⟩ := comparedEvent_deflection (takeFrame s p) v hn hl
    have hrecord := comparedEvent_record (takeFrame s p) v hn hl
    have hfed := feedWatches_reportKept (comparedEvent (takeFrame s p) n v) hn (hsize ▸ hl)
    have hframe := reportDeflectionReply_frame pl (takeFrame s p)
    have hbody : reportDeflectionReply pl (takeFrame s p) =
        done ((comparedEvent (takeFrame s p) n v).feedWatches (fedByReport n)) :=
      reportDeflectionReply_stores hin
    rw [hbody] at hframe
    have hparts := hframe.mono (qs := [.sections, .watch]) (by simp [watchParts])
    have hitems : ∀ i, i ∈ ((comparedEvent (takeFrame s p) n v).feedWatches (fedByReport n)).dirty ↔ i ∈ [Item.sections] := by
      intro i
      rw [List.mem_singleton]
      exact ⟨fun hi => (hfed.dirtied i hi).elim (hdirty i).1 id, fun hi => hfed.grown i ((hdirty i).2 hi)⟩
    have hfinal : sectionRec ((comparedEvent (takeFrame s p) n v).feedWatches (fedByReport n)).st n =
        { reportedRec (takeFrame s p) n v with
          data := { (reportedRec (takeFrame s p) n v).data with
            holds := (sectionRec ((comparedEvent (takeFrame s p) n v).feedWatches (fedByReport n)).st n).data.holds } } := by
      have hrec := hfed.record
      rw [hrecord] at hrec
      exact hrec
    refine ⟨_, _, take_done h hbody,
      (accepted_event h rfl rfl hparts (by simp) (by simp) (by simp)).congr hitems,
      fun hne hlt hno => feedWatches_grows _ _ _ (hwritten ⟨hne, hlt, hno⟩).1, ?age, ?fresh, ?data, ?deflection,
      fun m h1 h2 => (sectionRec_answered _ _ _ m).trans ((hfed.others m h1 h2).trans (hothers m h1 h2))⟩
    case age => rw [sectionRec_answered]; exact (congrArg SectionRec.age hfinal :)
    case fresh => rw [sectionRec_answered]; exact (congrArg SectionRec.stale hfinal :)
    case data => rw [sectionRec_answered]; exact (congrArg SectionRec.data hfinal :)
    case deflection =>
      rw [sectionRec_answered]
      refine hfed.deflection.trans ?_
      split
      next hh => exact hheld hh
      next hh => exact hplain hh
  case stale =>
    intro period
    have hl : n - 1 < s.sections.length := by rw [hz.1]; omega
    have hexec : exec (.sectionStale n) s =
        .next (if staleDue s n then setSection s n { sectionRec s n with stale := true } else s) := rfl
    refine ⟨fun hp hstale hage => ?_, fun hfresh => ?_⟩
    · have hdue : staleDue s n = true := by
        have hold : sectionIsStale s n = true := by
          rcases hage with hnone | ⟨a, ha, hle⟩
          · simpa [sectionIsStale, ageStale, hnone] using hp
          · simpa [sectionIsStale, ageStale, ha] using ⟨hp, hle⟩
        simp [staleDue, h1, hz.1, h64, hstale, hold]
      rw [hexec, if_pos hdue]
      exact ⟨_, rfl, sectionRec_set_self s n _ hl, fun m hm1 hm2 => sectionRec_set_ne s n m _ hm1 hm2 h1,
        setSections_frame [n] _ s⟩
    · have hold : sectionIsStale s n = false := by
        rcases hfresh with hzero | ⟨a, ha, hlt⟩
        · simp [sectionIsStale, ageStale, show s.config.params.stalePeriod = 0 from hzero]
        · simpa [sectionIsStale, ageStale, ha] using fun _ => hlt
      rw [hexec, if_neg (by simp [staleDue, hold])]

/-! ## Set Parameter (R206) -/

theorem clampInt_cast (lo hi : Nat) (v : Int) : (clampInt lo hi v : Int) = max (lo : Int) (min (hi : Int) v) := by
  unfold clampInt
  omega

theorem Params.get_set (p : Params) (k j : ParamId) (v : Nat) : (p.set k v).get j = if j = k then v else p.get j := by
  cases k <;> cases j <;> rfl

theorem paramRefusal_other (s : State) {k : ParamId} (v : Nat) (h1 : k ≠ .sectionCount) (h2 : k ≠ .chainMode) :
    paramRefusal s k v = none := by
  cases k
  case sectionCount => exact absurd rfl h1
  case chainMode => exact absurd rfl h2
  all_goals rfl

theorem setParameterReply_undefined {pl : List Byte} {s : State} (h : paramOfCode (fieldNat pl 0 1) = none) :
    setParameterReply pl s = refuse s .badValue := by
  simp only [setParameterReply, h]

/-- The refusals of a defined parameter, and the event where none stands. -/
theorem setParameterReply_checks {pl : List Byte} (s : State) {k : ParamId} (hk : paramOfCode (fieldNat pl 0 1) = some k) :
    Checks
      [(decide (k = .sectionCount) && s.anchors.any (fun r => decide (clampParam k (fieldInt pl 1 4) < r.id.sect)),
          .badValue),
       (decide (k = .chainMode) && allWatches.any (fun w => (s.watch.get w).enabled), .configLocked)] s
      (fun reply => reply = doneWith (storeParam s k (clampParam k (fieldInt pl 1 4)))
        (.value (clampParam k (fieldInt pl 1 4))))
      (setParameterReply pl s) := by
  simp only [setParameterReply, hk]
  generalize clampParam k (fieldInt pl 1 4) = v
  by_cases hcount : k = .sectionCount
  · subst hcount
    by_cases hany : (s.anchors.any fun r => decide (v < r.id.sect)) = true
    · simp only [paramRefusal, if_pos hany]
      exact .fails (by simpa using hany)
    · simp only [paramRefusal, if_neg hany]
      exact .passes (by simpa using hany) (.passes rfl (.none_left rfl))
  · refine .passes (by simp [hcount]) ?_
    by_cases hchain : k = .chainMode
    · subst hchain
      by_cases hany : (allWatches.any fun w => (s.watch.get w).enabled) = true
      · simp only [paramRefusal, if_pos hany]
        exact .fails (by simpa using hany)
      · simp only [paramRefusal, if_neg hany]
        exact .passes (by simpa using hany) (.none_left rfl)
    · rw [paramRefusal_other s v hcount hchain]
      exact .passes (by simp [hchain]) (.none_left rfl)

/-! ### The sections that a lowered count drops (R30) -/

theorem mem_droppedSections {old new n : Nat} (hold : old ≤ 64) : n ∈ droppedSections old new ↔ new < n ∧ n ≤ old := by
  simp only [droppedSections, List.mem_filter, List.mem_range, Bool.and_eq_true, decide_eq_true_eq]
  omega

theorem droppedSections_empty {old new : Nat} (hold : old ≤ 64) : (droppedSections old new).isEmpty = true ↔ ¬ new < old := by
  rw [List.isEmpty_iff, List.eq_nil_iff_forall_not_mem]
  simp only [mem_droppedSections hold]
  exact ⟨fun h hlt => h old ⟨hlt, le_rfl⟩, fun h n hn => by omega⟩

/-- Section records after several were replaced by one value. -/
theorem sectionRec_setAll (r : SectionRec) (ns : List Nat) {m : Nat} (hm : 1 ≤ m) (hns : ∀ n ∈ ns, 1 ≤ n) :
    ∀ s : State, m - 1 < s.sections.length →
      sectionRec (ns.foldl (fun acc n => setSection acc n r) s) m = if m ∈ ns then r else sectionRec s m := by
  induction ns with
  | nil => intro s _; simp
  | cons n rest ih =>
    intro s hl
    rw [List.foldl_cons, ih (fun x hx => hns x (List.mem_cons_of_mem _ hx)) _
      (show m - 1 < (s.sections.set (n - 1) r).length by rw [List.length_set]; exact hl)]
    by_cases hrest : m ∈ rest
    · rw [if_pos hrest, if_pos (List.mem_cons_of_mem _ hrest)]
    · rw [if_neg hrest]
      by_cases hmn : m = n
      · rw [if_pos (hmn ▸ List.mem_cons_self), hmn]
        exact sectionRec_set_self s n r (hmn ▸ hl)
      · rw [if_neg (by simp [hmn, hrest]), sectionRec_set_ne s n m r hm hmn (hns n List.mem_cons_self)]

/-! ### The effects of a stored parameter -/

/-- The state with a parameter stored, before its effects. -/
def paramState (s : State) (k : ParamId) (v : Nat) : State :=
  { s with config := { s.config with params := s.config.params.set k v } }

theorem storeParam_sectionCount (s : State) (v : Nat) :
    storeParam s .sectionCount v =
      ((Ev.of (paramState s .sectionCount v)).dirtied .config).defaultSections
        (droppedSections s.config.params.sectionCount v) := rfl

theorem defaultSections_st (e : Ev) (ns : List Nat) :
    (e.defaultSections ns).st = ns.foldl (fun acc n => setSection acc n SectionRec.default) e.st := by
  unfold Ev.defaultSections
  split
  next hempty => rw [List.isEmpty_iff.1 hempty]; rfl
  next => rfl

theorem storeParam_config (s : State) (k : ParamId) (v : Nat) :
    (storeParam s k v).st.config = { s.config with params := s.config.params.set k v } := by
  cases k
  case sectionCount =>
    rw [storeParam_sectionCount, defaultSections_st]
    exact setSections_frame _ _ (paramState s .sectionCount v) .config (by simp)
  all_goals rfl

theorem storeParam_told (s : State) (k : ParamId) (v : Nat) (hmax : s.config.params.sectionCount ≤ 64) :
    (storeParam s k v).dirty =
        (if k = .sectionCount ∧ v < s.config.params.sectionCount then [.config, .sections] else [.config]) ∧
      (storeParam s k v).notices =
        if k = .sectionCount then removedHolds s (droppedSections s.config.params.sectionCount v) else [] := by
  unfold storeParam Ev.paramEffect
  cases k
  case sectionCount =>
    rw [Ev.defaultSections]
    have hempty := droppedSections_empty (new := v) hmax
    by_cases hlt : v < s.config.params.sectionCount
    · rw [if_neg (by rw [Params.get, hempty]; exact not_not_intro hlt), if_pos ⟨rfl, hlt⟩, if_pos rfl]
      exact ⟨rfl, rfl⟩
    · have hnil := List.isEmpty_iff.1 (hempty.2 hlt)
      rw [if_pos (by rw [Params.get, hempty]; exact hlt), if_neg (by simp [hlt]), if_pos rfl, hnil]
      exact ⟨rfl, rfl⟩
  all_goals exact ⟨rfl, rfl⟩

theorem storeParam_section (s : State) (k : ParamId) (v : Nat) {n : Nat} (hmax : s.config.params.sectionCount ≤ 64)
    (h1 : 1 ≤ n) (hl : n - 1 < s.sections.length) :
    sectionRec (storeParam s k v).st n =
      if k = .sectionCount ∧ v < n ∧ n ≤ s.config.params.sectionCount then SectionRec.default
      else if k = .stalePeriod then { sectionRec s n with stale := ageStale v (sectionRec s n).age }
      else sectionRec s n := by
  by_cases hcount : k = .sectionCount
  · subst hcount
    have hdropped : ∀ m ∈ droppedSections s.config.params.sectionCount v, 1 ≤ m := fun m hm => by
      rw [mem_droppedSections hmax] at hm
      omega
    have hall := sectionRec_setAll SectionRec.default _ h1 hdropped (paramState s .sectionCount v) hl
    rw [storeParam_sectionCount, defaultSections_st]
    refine Eq.trans hall ?_
    simp only [mem_droppedSections hmax, true_and]
    rfl
  · rw [if_neg (fun h => hcount h.1)]
    by_cases hstale : k = .stalePeriod
    · subst hstale
      rw [if_pos rfl]
      change (s.sections.map fun r => { r with stale := ageStale v r.age }).getD (n - 1) SectionRec.default = _
      rw [List.getD_eq_getElem?_getD, List.getElem?_map, sectionRec, List.getD_eq_getElem?_getD,
        List.getElem?_eq_getElem hl]
      rfl
    · rw [if_neg hstale]
      unfold storeParam Ev.paramEffect
      cases k
      case stalePeriod => exact absurd rfl hstale
      case sectionCount => exact absurd rfl hcount
      all_goals rfl

/-- Settles O44: the ranges, the refusals, and the event of `storeParam`. -/
theorem setParameterStoresClampedValue : Obligations.SetParameterStoresClampedValue := by
  refine ⟨?ranges, fun v => ?stale, fun p pl s h => ⟨fun hk => take_refused h (setParameterReply_undefined hk),
    fun k hk => ?stored⟩⟩
  case ranges =>
    simp only [List.mem_cons, Prod.mk.injEq, List.not_mem_nil, or_false]
    rintro k lo hi hrow v
    obtain ⟨rfl, rfl, rfl⟩ | hrow := hrow
    · exact clampInt_cast 2 64 v
    iterate 19
      obtain ⟨rfl, rfl, rfl⟩ | hrow := hrow
      · exact clampInt_cast _ _ v
    obtain ⟨rfl, rfl, rfl⟩ := hrow
    exact clampInt_cast 0 3 v
  case stale =>
    simp only [clampParam, clampStale]
    split
    · rfl
    · exact clampInt_cast 30 3600 v
  case stored =>
    intro v failing
    have hchecks := setParameterReply_checks (takeFrame s p) hk
    refine ⟨fun c hfail => take_refused h (hchecks.refused hfail), fun hpass hz => ?_⟩
    have hbody := hchecks.accepted hpass
    have hmax : s.config.params.sectionCount ≤ 64 := hz.2.2.1.2.2
    obtain ⟨hdirty, hnotices⟩ := storeParam_told (takeFrame s p) k v hmax
    have hconfig : (commit (putAnswer ReqKind.setParameter.code p (doneWith (storeParam (takeFrame s p) k v) (.value v)))).config =
        { s.config with params := s.config.params.set k v } := by
      rw [commit_config, putAnswer_config]
      exact storeParam_config (takeFrame s p) k v
    have hframe := setParameterReply_frame pl (takeFrame s p)
    rw [hbody] at hframe
    refine ⟨_, take_done h hbody, accepted_event h hdirty hnotices hframe (by simp) (by simp) (by simp), ?_, ?_,
      fun j hj => ?_, putAnswer_watches (hframe .watch (by simp)), fun n h1 h64 => ?_⟩
    · rw [hconfig]
    · rw [hconfig]
      exact (Params.get_set _ k k v).trans (if_pos rfl)
    · rw [hconfig]
      exact (Params.get_set _ k j v).trans (if_neg hj)
    · rw [sectionRec_answered]
      exact storeParam_section (takeFrame s p) k v hmax h1 (by rw [takeFrame, hz.1]; omega)

end Sys2Proof.Machine
end

section
/-! SUPPORT. The edits of the schedule table (R106, R107) and the shape of a programme found VALID (R109 to R112). -/

namespace Sys2Proof.Machine

/-! ## Write Step and Set Schedule Head (R106, R107) -/

theorem edited_accepted {k : ReqKind} {p : Port} {pl : List Byte} {s : State} {body : State → Reply} {sch : ScheduleData}
    (h : Asked k p pl s) (hb : body (takeFrame s p) = editSchedule (takeFrame s p) sch) :
    ∃ t, take k p pl body s = .next t ∧
      Accepted k p (.heads (headAnswers t.results)) [.schedule] [] [.schedule, .results] s t ∧ t.schedule = sch ∧
      (∀ c, t.results.get c = validateHead t.schedule (t.schedule.heads.get c)) ∧ WatchFlagsSame s t := by
  obtain ⟨e, he⟩ : ∃ e : Ev, e =
      (Ev.of { takeFrame s p with schedule := sch, results := validateAll sch }).dirtied .schedule := ⟨_, rfl⟩
  have hbody : body (takeFrame s p) = doneWith e (.heads (headAnswers (validateAll sch))) := by rw [hb, he]; rfl
  have hframe := editSchedule_frame (takeFrame s p) sch
  have hst : e.st = (editSchedule (takeFrame s p) sch).ev.st := by rw [he]; rfl
  rw [← hst] at hframe
  have hsch : (commit (putAnswer k.code p (doneWith e (.heads (headAnswers (validateAll sch)))))).schedule = sch := by
    rw [commit_schedule, putAnswer_schedule, doneWith, he]; rfl
  have hres : (commit (putAnswer k.code p (doneWith e (.heads (headAnswers (validateAll sch)))))).results =
      validateAll sch := by
    rw [commit_results, putAnswer_results, doneWith, he]; rfl
  refine ⟨_, take_done h hbody, ?_, hsch, fun c => ?_, putAnswer_watches (hframe .watch (by simp))⟩
  · rw [hres]
    exact accepted_event h (by rw [he]; rfl) (by rw [he]; rfl) hframe (by simp) (by simp) (by simp)
  · rw [hres, hsch]
    exact PerClass.get_tabulate _ c

/-- The checks of R106, and the edit where none fails. -/
theorem writeStepReply_checks (pl : List Byte) (s : State) :
    Checks
      [(decide (64 ≤ fieldNat pl 0 1), .badValue),
       (((stepKindOfCode (fieldNat pl 1 1)).bind fun k => stepOfPayload k pl).isNone, .badValue),
       (stepInUse s (fieldNat pl 0 1), .scheduleInUse)] s
      (fun reply => ∀ r, ((stepKindOfCode (fieldNat pl 1 1)).bind fun k => stepOfPayload k pl) = some r →
        reply = editSchedule s { s.schedule with steps := s.schedule.steps.set (fieldNat pl 0 1) r })
      (writeStepReply pl s) := by
  unfold writeStepReply
  split
  next h => exact .fails (decide_eq_true h)
  next h =>
    refine .passes (decide_eq_false h) ?_
    cases (stepKindOfCode (fieldNat pl 1 1)).bind fun k => stepOfPayload k pl with
    | none => exact .fails rfl
    | some r =>
      refine .passes rfl ?_
      dsimp only
      split
      next h => exact .fails h
      next h => exact .passes (Bool.eq_false_iff.2 h) (.none_left fun r' hr => by rw [Option.some.inj hr])

theorem setScheduleHeadReply_bad {pl : List Byte} {s : State}
    (h : classOfCode (fieldNat pl 0 1) = none ∨ linkOfCode (fieldNat pl 1 1) = none) :
    setScheduleHeadReply pl s = refuse s .badValue := by
  unfold setScheduleHeadReply
  split
  next hc hl => simp [hc, hl] at h
  next => rfl

theorem setScheduleHeadReply_codes {pl : List Byte} {s : State} {c : TestClass} {h : Option Nat}
    (hc : classOfCode (fieldNat pl 0 1) = some c) (hl : linkOfCode (fieldNat pl 1 1) = some h) :
    setScheduleHeadReply pl s =
      if headWalked s c then refuse s .scheduleInUse
      else editSchedule s { s.schedule with heads := s.schedule.heads.set c h } := by
  simp only [setScheduleHeadReply, hc, hl]

/-- Settles O45: both requests edit the table, and every edit validates the three heads again. -/
theorem scheduleEditsRevalidateHeads : Obligations.ScheduleEditsRevalidateHeads := by
  refine fun p pl s => ⟨fun h => ?step, fun h => ⟨fun c l hc hl => ⟨fun hw => ?head, fun hw => ?walked⟩,
    fun hbad => take_refused h (setScheduleHeadReply_bad hbad)⟩⟩
  case step =>
    intro i record failing
    have hchecks := writeStepReply_checks pl (takeFrame s p)
    exact ⟨fun c hfail => take_refused h (hchecks.refused hfail),
      fun r hpass hr => edited_accepted h (hchecks.accepted hpass r hr)⟩
  case head =>
    exact edited_accepted h ((setScheduleHeadReply_codes hc hl).trans (if_neg (show ¬ headWalked s c = true by simp [hw])))
  case walked =>
    exact take_refused h ((setScheduleHeadReply_codes hc hl).trans (if_pos hw))

/-! ## The walk of a VALID programme (R109, R110) -/

/-- Every step of a walked path passes its check, and its link leads to the next. -/
theorem walked_at {sch : ScheduleData} {path before after : List Nat} {i : Nat} (hw : Walked sch Sim.start path)
    (hp : path = before ++ i :: after) :
    stepFinding (simAlong sch before) (stepAt sch i) = none ∧ (stepAt sch i).next = after.head? := by
  obtain ⟨hfinding, hnext, -⟩ := walked_suffix sch before _ (i :: after) (hp ▸ hw)
  exact ⟨hfinding, hnext⟩

/-- The walk count of a VALID result is that of the simulation along its path. -/
theorem walk_count (sch : ScheduleData) : ∀ fuel m i p c, walk sch fuel m i = .valid p c →
    ∃ l, p = m.path ++ i :: l ∧ c = ((i :: l).foldl (fun m i => m.pass i (stepAt sch i)) m).count := by
  intro fuel
  induction fuel with
  | zero => intro m i p c h; simp [walk] at h
  | succ f ih =>
    intro m i p c h
    simp only [walk] at h
    split at h
    · cases h
    · split at h
      · cases h
        exact ⟨[], by rw [pass_path], rfl⟩
      next j hn =>
        obtain ⟨l, hp, hc⟩ := ih _ _ _ _ h
        exact ⟨j :: l, by rw [hp, pass_path]; simp, by rw [hc]; rfl⟩

/-- Along one table a path is the only one from its first step to its end. -/
theorem walked_unique {sch : ScheduleData} : ∀ {l l' : List Nat} {m m' : Sim} {i : Nat}, Walked sch m (i :: l) →
    Walked sch m' (i :: l') → l = l' := by
  intro l
  induction l with
  | nil =>
    intro l' m m' i h h'
    have : l'.head? = none := h'.2.1.symm.trans h.2.1
    exact (List.head?_eq_none_iff.1 this).symm
  | cons j rest ih =>
    intro l' m m' i h h'
    have hhead : l'.head? = some j := h'.2.1.symm.trans h.2.1
    obtain ⟨rest', rfl⟩ := List.head?_eq_some_iff.1 hhead
    rw [ih h.2.2 h'.2.2]

/-- A walked path takes no step twice: the way from there on would have to be longer than itself. -/
theorem walked_nodup {sch : ScheduleData} : ∀ {l : List Nat} {m : Sim}, Walked sch m l → l.Nodup := by
  intro l
  induction l with
  | nil => intro m _; exact List.nodup_nil
  | cons i rest ih =>
    intro m h
    refine List.nodup_cons.2 ⟨fun hi => ?_, ih h.2.2⟩
    obtain ⟨before, after, hrest⟩ := List.append_of_mem hi
    have hagain := walked_suffix sch before _ (i :: after) (hrest ▸ h.2.2)
    have hlen := congrArg List.length (hrest.symm.trans (walked_unique h hagain))
    simp only [List.length_append, List.length_cons] at hlen
    omega

/-! ## What the steps of a VALID programme are -/

/-- What passing `stepFinding` demands of a step, beside the condition of its kind (R110). -/
theorem stepFinding_length {m : Sim} {r : StepRec} (h : stepFinding m r = none) : m.path.length < 24 := by
  unfold stepFinding at h
  split at h
  · cases h
  · omega

theorem passes_datum {m : Sim} {r : StepRec} (h : stepFinding m r = none) (hk : r.kind = .datum) : m.path = [] := by
  obtain ⟨hkind, -, -⟩ := finding_kind h
  cases r <;> simp_all [kindFinding, StepRec.kind]

theorem passes_hold {m : Sim} {r : StepRec} (h : stepFinding m r = none) (hk : r.kind = .hold) :
    m.previous = some .loadTo := by
  obtain ⟨hkind, -, -⟩ := finding_kind h
  cases r <;> simp_all [kindFinding, StepRec.kind]

theorem passes_liftOff {m : Sim} {r : StepRec} (h : stepFinding m r = none) (hk : r.kind = .liftOff) :
    m.previous = some .lockOff := by
  obtain ⟨hkind, -, -⟩ := finding_kind h
  cases r <;> simp_all [kindFinding, StepRec.kind]

theorem passes_endStep {m : Sim} {r : StepRec} (h : stepFinding m r = none) (hk : r.kind = .endStep) :
    m.previous = some .liftOff := by
  obtain ⟨hkind, -, -⟩ := finding_kind h
  cases r <;> simp_all [kindFinding, StepRec.kind]

theorem passes_lockOff {m : Sim} {r : StepRec} (h : stepFinding m r = none) (hk : r.kind = .lockOff) :
    m.stack.length ≤ 1 ∧ m.lockedOff = false ∧ m.evaluated = true := by
  obtain ⟨hkind, -, -⟩ := finding_kind h
  cases r <;> simp only [StepRec.kind, reduceCtorEq] at hk
  simp only [kindFinding] at hkind
  split_ifs at hkind with h1 h2
  simp_all

theorem passes_loadTo {m : Sim} {f : Nat} {n : Option Nat} (h : stepFinding m (.loadTo f n) = none) :
    m.top < f ∧ m.stack.length ≤ 7 := by
  obtain ⟨hkind, -, -⟩ := finding_kind h
  simp only [kindFinding] at hkind
  split_ifs at hkind
  omega

theorem passes_unloadTo {m : Sim} {f : Nat} {n : Option Nat} (h : stepFinding m (.unloadTo f n) = none) :
    f < m.top ∧ m.datum ≤ f := by
  obtain ⟨hkind, -, -⟩ := finding_kind h
  simp only [kindFinding] at hkind
  split_ifs at hkind
  omega

/-- The last step of the part walked so far. -/
theorem previous_kind {sch : ScheduleData} {before : List Nat} {k : StepKind}
    (h : (simAlong sch before).previous = some k) : ∃ pre a, before = pre ++ [a] ∧ (stepAt sch a).kind = k := by
  induction before using List.reverseRecOn with
  | nil => cases h
  | append_singleton pre a _ =>
    rw [previous_snoc] at h
    exact ⟨pre, a, rfl, Option.some.inj h⟩

/-- The lock-off note stands once a LOCK_OFF has been walked (R110). -/
theorem lockedOff_simAlong (sch : ScheduleData) (before : List Nat) :
    (simAlong sch before).lockedOff = before.any fun i => (stepAt sch i).kind = .lockOff := by
  induction before using List.reverseRecOn with
  | nil => rfl
  | append_singleton pre a ih =>
    rw [simAlong_snoc, List.any_append, ← ih, Sim.pass]
    cases hstep : stepAt sch a <;> simp [Sim.change, StepRec.kind, hstep]

/-- A VALID programme ends LOCK_OFF, LIFT_OFF, END, and none of these stands before (R110). -/
theorem walked_end {sch : ScheduleData} {path : List Nat} (hw : Walked sch Sim.start path) (hne : path ≠ []) :
    ∃ pre a b c, path = pre ++ [a, b, c] ∧ (stepAt sch a).kind = .lockOff ∧ (stepAt sch b).kind = .liftOff ∧
      (stepAt sch c).kind = .endStep ∧
      ∀ i ∈ pre, (stepAt sch i).kind ≠ .lockOff ∧ (stepAt sch i).kind ≠ .liftOff ∧ (stepAt sch i).kind ≠ .endStep := by
  obtain ⟨before, c, hpath⟩ : ∃ before c, path = before ++ [c] := ⟨_, _, (List.dropLast_append_getLast hne).symm⟩
  obtain ⟨hc, hlast⟩ := walked_at hw hpath
  have hend : (stepAt sch c).kind = .endStep := by
    by_contra hk
    exact (finding_kind hc).2.2 hk hlast
  obtain ⟨before', b, rfl, hb⟩ := previous_kind (passes_endStep hc hend)
  have hliftAt : path = before' ++ b :: [c] := by simp [hpath]
  obtain ⟨pre, a, rfl, ha⟩ := previous_kind (passes_liftOff (walked_at hw hliftAt).1 hb)
  have hlockAt : path = pre ++ a :: [b, c] := by simp [hpath]
  have hfirst := (passes_lockOff (walked_at hw hlockAt).1 ha).2.1
  have hnoLock : ∀ i ∈ pre, (stepAt sch i).kind ≠ .lockOff := by
    rw [lockedOff_simAlong, List.any_eq_false] at hfirst
    exact fun i hi => by simpa using hfirst i hi
  refine ⟨pre, a, b, c, hlockAt, ha, hb, hend, fun i hi => ⟨hnoLock i hi, fun hk => ?_, fun hk => ?_⟩⟩
  · obtain ⟨x, y, rfl⟩ := List.append_of_mem hi
    obtain ⟨x', j, rfl, hj⟩ := previous_kind (passes_liftOff
      (walked_at (i := i) (before := x) (after := y ++ [a, b, c]) hw (by simp [hlockAt])).1 hk)
    exact hnoLock j (by simp) hj
  · obtain ⟨x, y, rfl⟩ := List.append_of_mem hi
    have hnext := (walked_at (i := i) (before := x) (after := y ++ [a, b, c]) hw (by simp [hlockAt])).2
    cases hstep : stepAt sch i <;> simp [hstep, StepRec.kind, StepRec.next] at hk hnext

/-! ## The stack, the cycles and the entries of the walk (R109, R112) -/

/-- The walk of the statement says of the stack, the cycles and the entries what the simulation does, whose datum frame is
the one at the bottom. -/
structure WalkAgrees (m : Sim) (w : ProgrammeWalk) : Prop where
  stack : w.stack = m.stack.map (·.fraction)
  cycles : w.cycles = m.cycles
  entries : w.entries = m.count
  above : ∀ g ∈ m.stack.dropLast, g.isDatum = false

/-- On a stack with its datum frame at the bottom alone, the top frame is the datum frame exactly when it is the only one. -/
theorem onDatum_iff {m : Sim} (hm : SimShape m) (h : ∀ g ∈ m.stack.dropLast, g.isDatum = false) :
    m.onDatum = true ↔ m.stack.length = 1 := by
  obtain ⟨hne, -, -, -, hbase⟩ := hm
  rw [Sim.onDatum]
  match hs : m.stack with
  | [] => exact absurd hs hne
  | [d] =>
    rw [hs] at hbase
    simp_all
  | g :: d :: rest =>
    have hg := h g (by simp [hs])
    simp [hg]

theorem holdTop_fractions (l : List SimFrame) : (holdTop l).map (·.fraction) = l.map (·.fraction) := by
  cases l <;> rfl

theorem holdTop_above {l : List SimFrame} (h : ∀ g ∈ l.dropLast, g.isDatum = false) :
    ∀ g ∈ (holdTop l).dropLast, g.isDatum = false := by
  match l with
  | [] => exact h
  | [_] => simp [holdTop]
  | top :: next :: rest =>
    intro g hg
    simp only [holdTop, List.dropLast_cons_cons, List.mem_cons] at hg h
    rcases hg with rfl | hg
    · exact h top (.inl rfl)
    · exact h g (.inr hg)

theorem dropWhile_above {l : List SimFrame} (q : SimFrame → Bool) (h : ∀ g ∈ l.dropLast, g.isDatum = false) :
    ∀ g ∈ (l.dropWhile q).dropLast, g.isDatum = false := by
  intro g hg
  obtain ⟨front, hfront⟩ := List.dropWhile_suffix (l := l) q
  refine h g ?_
  by_cases hnil : l.dropWhile q = []
  · simp [hnil] at hg
  · rw [← hfront, List.dropLast_append_of_ne_nil hnil]
    exact List.mem_append_right _ hg

/-- A step that passes keeps the agreement. -/
theorem WalkAgrees.pass {m : Sim} {w : ProgrammeWalk} {r : StepRec} (i : Nat) (h : WalkAgrees m w)
    (hr : stepFinding m r = none) (hm : m.path = [] ∧ m.stack = [] ∧ m.cycles = 0 ∨ m.path ≠ [] ∧ SimShape m) :
    WalkAgrees (m.pass i r) (w.after r) := by
  obtain ⟨hstack, hcycles, hentries, habove⟩ := h
  cases r with
  | datum f n =>
    have hnil : m.stack = [] := (hm.resolve_right fun hp => hp.1 (passes_datum hr rfl)).2.1
    exact ⟨by simp [ProgrammeWalk.after, Sim.pass, Sim.change, hstack], hcycles, congrArg (· + 1) hentries,
      by simp [Sim.pass, Sim.change, hnil]⟩
  | loadTo f n =>
    have hshape : SimShape m := (hm.resolve_left fun hp => by
      have := (finding_kind hr).2.1 hp.1
      simp [StepRec.kind] at this).2
    have honly := onDatum_iff hshape habove
    refine ⟨by simp [ProgrammeWalk.after, Sim.pass, Sim.change, hstack], ?_, congrArg (· + 1) hentries, ?_⟩
    · simp only [ProgrammeWalk.after, Sim.pass, Sim.change, hstack, List.length_map, hcycles, honly]
    · simp only [Sim.pass, Sim.change, List.dropLast_cons_of_ne_nil hshape.stack, List.mem_cons]
      rintro g (rfl | hg)
      · rfl
      · exact habove g hg
  | hold a b e n =>
    exact ⟨hstack.trans (holdTop_fractions _).symm, hcycles, congrArg (· + if e then 9 else 5) hentries,
      holdTop_above habove⟩
  | unloadTo f n =>
    refine ⟨?_, hcycles, ?_, dropWhile_above _ habove⟩
    · simp only [ProgrammeWalk.after, Sim.pass, Sim.change, hstack, List.dropWhile_map]
      rfl
    · simp only [ProgrammeWalk.after, Sim.pass, stepEntries, simPopped, hstack, List.takeWhile_map, List.length_map,
        hentries, Nat.add_assoc]
      rfl
  | lockOff n => exact ⟨hstack, hcycles, congrArg (· + 2) hentries, habove⟩
  | liftOff n => exact ⟨hstack, hcycles, congrArg (· + 1) hentries, habove⟩
  | endStep => exact ⟨hstack, hcycles, hentries, habove⟩

/-- Along a VALID programme the simulation keeps its shape, and the walk of the statement agrees with it. -/
theorem walked_agrees {sch : ScheduleData} {path : List Nat} (hw : Walked sch Sim.start path) :
    ∀ before after, path = before ++ after →
      ((simAlong sch before).path = [] ∧ (simAlong sch before).stack = [] ∧ (simAlong sch before).cycles = 0 ∨
        (simAlong sch before).path ≠ [] ∧ SimShape (simAlong sch before)) ∧
      WalkAgrees (simAlong sch before) (programmeWalk sch before) := by
  intro before
  induction before using List.reverseRecOn with
  | nil => exact fun _ _ => ⟨.inl ⟨rfl, rfl, rfl⟩, rfl, rfl, rfl, by simp [simAlong, Sim.start]⟩
  | append_singleton pre i ih =>
    intro after hp
    have hp' : path = pre ++ i :: after := by simp [hp]
    obtain ⟨hshape, hagrees⟩ := ih (i :: after) hp'
    have hpass := (walked_at hw hp').1
    refine ⟨.inr ⟨by rw [simAlong_path]; simp, ?_⟩, ?_⟩
    · rw [simAlong_snoc]
      exact pass_shape hpass hshape
    · rw [simAlong_snoc, programmeWalk, List.foldl_append]
      exact hagrees.pass i hpass hshape

/-- Past the first step the stack is that of the simulation, and not empty. -/
theorem walked_stack {sch : ScheduleData} {path before after : List Nat} {i : Nat} (hw : Walked sch Sim.start path)
    (hp : path = before ++ i :: after) (hk : (stepAt sch i).kind ≠ .datum) :
    (programmeWalk sch before).stack = (simAlong sch before).stack.map (·.fraction) ∧ (simAlong sch before).stack ≠ [] := by
  obtain ⟨hshape, hagrees⟩ := walked_agrees hw before (i :: after) hp
  refine ⟨hagrees.stack, ?_⟩
  rcases hshape with ⟨hstart, -⟩ | ⟨-, hs⟩
  · exact absurd ((finding_kind (walked_at hw hp).1).2.1 hstart) hk
  · exact hs.stack

theorem Sim.top_mem {m : Sim} (h : m.stack ≠ []) : (m.stack.map (·.fraction)).head? = some m.top := by
  cases hs : m.stack with
  | nil => exact absurd hs h
  | cons g rest => simp [Sim.top, hs]

theorem Sim.datum_mem {m : Sim} (h : m.stack ≠ []) : (m.stack.map (·.fraction)).getLast? = some m.datum := by
  rw [List.getLast?_map, Sim.datum, List.getLast?_eq_some_getLast h]
  rfl

/-- A walk stacks at most one frame a step. -/
theorem programmeWalk_stack_le (sch : ScheduleData) (before : List Nat) :
    (programmeWalk sch before).stack.length ≤ before.length := by
  induction before using List.reverseRecOn with
  | nil => exact Nat.le_refl 0
  | append_singleton pre i ih =>
    rw [programmeWalk, List.foldl_append, List.length_append]
    change ((programmeWalk sch pre).after (stepAt sch i)).stack.length ≤ pre.length + 1
    cases stepAt sch i with
    | unloadTo f n =>
      exact (List.length_dropWhile_le _ _).trans (ih.trans (Nat.le_succ _))
    | datum | loadTo => simpa [ProgrammeWalk.after] using ih
    | hold | lockOff | liftOff | endStep => exact ih.trans (Nat.le_succ _)

/-- Where a walk is noted as evaluated, an UNLOAD_TO to the datum took off a frame of 1000 per mille or more (R110). -/
theorem evaluated_simAlong {sch : ScheduleData} {path : List Nat} (hw : Walked sch Sim.start path) :
    ∀ pre post, path = pre ++ post → (simAlong sch pre).evaluated = true →
      ∃ before j after f nx, pre = before ++ j :: after ∧ stepAt sch j = .unloadTo f nx ∧
        (programmeWalk sch before).stack.getLast? = some f ∧
        ∃ g ∈ (programmeWalk sch before).stack, f < g ∧ 1000 ≤ g := by
  intro pre
  induction pre using List.reverseRecOn with
  | nil => intro _ _ h; cases h
  | append_singleton pre i ih =>
    intro post hp hev
    have hp' : path = pre ++ i :: post := by simp [hp]
    have hearlier : (simAlong sch pre).evaluated = true → _ := fun h => ih (i :: post) hp' h
    rw [simAlong_snoc, Sim.pass] at hev
    cases hstep : stepAt sch i with
    | unloadTo f n =>
      rw [hstep] at hev
      simp only [Sim.change, Bool.or_eq_true, Bool.and_eq_true, decide_eq_true_eq, List.any_eq_true] at hev
      rcases hev with hev | ⟨hdatum, g, hg, hbig⟩
      · obtain ⟨before, j, after, f', nx, rfl, h⟩ := hearlier hev
        exact ⟨before, j, after ++ [i], f', nx, by simp, h⟩
      · obtain ⟨hstack, hne⟩ := walked_stack hw hp' (by simp [hstep, StepRec.kind])
        refine ⟨pre, i, [], f, n, rfl, hstep, ?_, g.fraction, ?_, ?_, hbig⟩
        · rw [hstack, Sim.datum_mem hne, hdatum]
        · rw [hstack]
          exact List.mem_map_of_mem ((List.takeWhile_prefix _).subset hg)
        · simpa using List.mem_takeWhile_imp hg
    | datum | loadTo | hold | lockOff | liftOff | endStep =>
      rw [hstep] at hev
      obtain ⟨before, j, after, f', nx, rfl, h⟩ := hearlier hev
      exact ⟨before, j, after ++ [i], f', nx, by simp, h⟩

/-- Settles O46: what each passed check demands, read off the walk that the validation makes. -/
theorem validProgrammesHaveTheirShape : Obligations.ValidProgrammesHaveTheirShape := by
  intro sch h path n hvalid
  obtain ⟨l, hpath, hw⟩ := walk_walked sch 25 Sim.start h path n hvalid
  obtain ⟨l', hpath', hcount⟩ := walk_count sch 25 Sim.start h path n hvalid
  rw [show Sim.start.path = [] from rfl, List.nil_append] at hpath hpath'
  rw [← hpath] at hw
  rw [← hpath'] at hcount
  have hne : path ≠ [] := by simp [hpath]
  obtain ⟨pre, a, b, c, hend, ha, hb, hc, hothers⟩ := walked_end hw hne
  have hlock : ∀ pre i post, path = pre ++ i :: post → (stepAt sch i).kind = .lockOff →
      (programmeWalk sch pre).stack.length = 1 ∧
        ∃ before j after f nx, pre = before ++ j :: after ∧ stepAt sch j = .unloadTo f nx ∧
          (programmeWalk sch before).stack.getLast? = some f ∧
          ∃ g ∈ (programmeWalk sch before).stack, f < g ∧ 1000 ≤ g := by
    intro pre i post hp hk
    obtain ⟨hone, -, hev⟩ := passes_lockOff (walked_at hw hp).1 hk
    obtain ⟨hstack, hnonempty⟩ := walked_stack hw hp (by simp [hk])
    refine ⟨?_, evaluated_simAlong hw pre (i :: post) hp hev⟩
    rw [hstack, List.length_map]
    have := List.length_pos_of_ne_nil hnonempty
    omega
  refine ⟨by simp [hpath], ?six, ?most, walked_nodup hw, ?first, ?tail, ?links, ⟨pre, a, b, c, hend, ha, hb, hc, hothers⟩,
    ?steps, ?cycles, ?entries⟩
  case six =>
    obtain ⟨-, before, j, after, f, nx, rfl, -, hlast, g, hg, hlt, -⟩ := hlock pre a [b, c] hend ha
    have htwo : 2 ≤ (programmeWalk sch before).stack.length := by
      match hs : (programmeWalk sch before).stack with
      | [] => simp [hs] at hg
      | [x] =>
        rw [hs] at hg hlast
        simp only [List.mem_singleton, List.getLast?_singleton, Option.some.injEq] at hg hlast
        omega
      | x :: y :: rest => simp
    have hle := programmeWalk_stack_le sch before
    rw [hend]
    simp only [List.length_append, List.length_cons, List.length_nil]
    omega
  case most =>
    have hlen := stepFinding_length (walked_at (before := pre ++ [a, b]) (after := []) (i := c) hw (by simp [hend])).1
    rw [simAlong_path] at hlen
    rw [hend]
    simp only [List.length_append, List.length_cons, List.length_nil] at hlen ⊢
    omega
  case first => exact (finding_kind (walked_at (before := []) hw hpath).1).2.1 rfl
  case tail =>
    intro i hi hk
    rw [hpath] at hi
    obtain ⟨x, y, rfl⟩ := List.append_of_mem hi
    have hfirst := passes_datum (walked_at (before := h :: x) (after := y) hw (by simp [hpath])).1 hk
    rw [simAlong_path] at hfirst
    cases hfirst
  case links =>
    intro pre a b post hp
    refine ⟨(walked_at hw hp).2, fun hk => ?_⟩
    have hprev := passes_hold (walked_at (before := pre ++ [a]) (after := post) hw (by simp [hp])).1 hk
    rw [previous_snoc] at hprev
    exact Option.some.inj hprev
  case steps =>
    intro pre i post hp
    have hpass := (walked_at hw hp).1
    refine ⟨fun f nx hstep => ?_, fun f nx hstep => ?_, hlock pre i post hp⟩
    · obtain ⟨hstack, hnonempty⟩ := walked_stack hw hp (by simp [hstep, StepRec.kind])
      rw [hstep] at hpass
      obtain ⟨htop, hlen⟩ := passes_loadTo hpass
      rw [hstack, List.length_map]
      exact ⟨hlen, _, Sim.top_mem hnonempty, htop⟩
    · obtain ⟨hstack, hnonempty⟩ := walked_stack hw hp (by simp [hstep, StepRec.kind])
      rw [hstep] at hpass
      obtain ⟨htop, hdatum⟩ := passes_unloadTo hpass
      rw [hstack]
      exact ⟨⟨_, Sim.top_mem hnonempty, htop⟩, _, Sim.datum_mem hnonempty, hdatum⟩
  case cycles =>
    obtain ⟨hshape, hagrees⟩ := walked_agrees hw path [] (by simp)
    rw [hagrees.cycles]
    rcases hshape with ⟨-, -, hzero⟩ | ⟨-, hs⟩
    · omega
    · exact hs.cycles
  case entries =>
    rw [(walked_agrees hw path [] (by simp)).2.entries]
    exact hcount

end Sys2Proof.Machine
end

section
/-! SUPPORT. One rule for each operation of the stressing engine: what it does to the session, to the record under test, to
the pool, and to what the event dirties and tells (R117, R120, R137, R139). -/

namespace Sys2Proof.Machine

/-! ## Tables by index -/

theorem tableGet_put {α : Type} (t : List (Slot α)) (i j : Nat) (v : α) :
    tableGet (tablePut t i v) j = if j = i then some v else tableGet t j := by
  induction t with
  | nil =>
    by_cases h : i = j
    · simp [tablePut, tableGet, h]
    · simp [tablePut, tableGet, h, Ne.symm h]
  | cons r rest ih =>
    rw [tablePut]
    by_cases hlt : r.index < i
    · rw [if_pos hlt, tableGet, ih, tableGet]
      by_cases hj : r.index = j
      · rw [if_pos hj, if_pos hj, if_neg (by omega)]
      · rw [if_neg hj, if_neg hj]
    · rw [if_neg hlt]
      by_cases heq : r.index = i
      · rw [if_pos heq]
        by_cases hj : j = i
        · simp [tableGet, hj]
        · simp [tableGet, hj, Ne.symm hj, heq]
      · rw [if_neg heq]
        by_cases hj : j = i
        · simp [tableGet, hj]
        · simp [tableGet, hj, Ne.symm hj]

/-! ## The test that an event works on -/

/-- A record written in its place leaves the records of the other identities as they are. -/
theorem replaceAnchor_rest (l : List AnchorRec) (new : AnchorRec) :
    ((replaceAnchor l new).filter fun q => q.id ≠ new.id) = l.filter fun q => q.id ≠ new.id := by
  induction l with
  | nil => rfl
  | cons x rest ih =>
    rw [replaceAnchor, List.map_cons]
    by_cases hx : x.id = new.id
    · rw [if_pos hx, List.filter_cons_of_neg (by simp), List.filter_cons_of_neg (by simp [hx])]
      exact ih
    · rw [if_neg hx, List.filter_cons_of_pos (by simp [hx]), List.filter_cons_of_pos (by simp [hx])]
      exact congrArg (x :: ·) ih

/-- The event `e`, begun on `s`, has the session `y`, the record `r` of its anchor with the result `res`, and the pool `p`;
it has dirtied `items` and told `ns`, and touched nothing else than the session, the pool and that record. -/
structure Running (s : State) (e : Ev) (y : Session) (r : AnchorRec) (res : TestResult) (p : Pool) (items : List Item)
    (ns : List Notice) : Prop where
  session : e.st.session = some y
  record : findAnchor e.st y.anchor = some r
  result : r.result = some res
  pool : e.st.pool = p
  items : e.dirty = items
  notices : e.notices = ns
  frame : OnlyChanges [.session, .pool, .anchors] s e.st
  others : OtherAnchorsSame y.anchor s e.st
  rest : (e.st.anchors.filter fun q => q.id ≠ y.anchor) = s.anchors.filter fun q => q.id ≠ y.anchor

section
variable {s : State} {e : Ev} {y : Session} {r : AnchorRec} {res : TestResult} {p : Pool} {items : List Item}
  {ns : List Notice}

theorem Running.start (hs : e.st.session = some y) (hf : findAnchor e.st y.anchor = some r) (hr : r.result = some res) :
    Running e.st e y r res e.st.pool e.dirty e.notices :=
  ⟨hs, hf, hr, rfl, rfl, rfl, .refl _ _, fun _ _ => rfl, rfl⟩

theorem Running.openTest (h : Running s e y r res p items ns) :
    openTest e.st = some { sess := y, rec_ := r, result := res } := by
  simp [Machine.openTest, h.session, h.record, h.result]

theorem Running.raise (h : Running s e y r res p items ns) (n : Notice) :
    Running s (e.raise n) y r res p items (ns ++ [n]) :=
  ⟨h.session, h.record, h.result, h.pool, h.items, congrArg (· ++ [n]) h.notices, h.frame, h.others, h.rest⟩

theorem Running.changeSession (h : Running s e y r res p items ns) {f : Session → Session} {y' : Session} (hf : f y = y')
    (ha : y'.anchor = y.anchor) : Running s (e.changeSession f) y' r res p items ns where
  session := by
    subst hf
    exact congrArg (Option.map f) h.session
  record := by rw [ha]; exact h.record
  result := h.result
  pool := h.pool
  items := h.items
  notices := h.notices
  frame := h.frame.step (changeSession_frame e f) (by simp)
  others := by rw [ha]; exact h.others
  rest := by rw [ha]; exact h.rest

/-- A record of the same identity written in the place of that under test. -/
theorem Running.write (h : Running s e y r res p items ns) {new : AnchorRec} {res' : TestResult} (hid : new.id = r.id)
    (hr : new.result = some res') :
    Running s (e.writeAnchor new) y new res' p (items ++ [.image new.imageSlot]) ns := by
  have ha : r.id = y.anchor := findAnchor_id h.record
  obtain ⟨hfound, hothers⟩ := findAnchor_written (s := e.st) (t := (e.writeAnchor new).st) h.record hid rfl
  rw [ha] at hfound hothers
  exact ⟨h.session, hfound, hr, h.pool, by rw [writeAnchor_dirty, h.items], h.notices,
    h.frame.step (writeAnchor_frame e new) (by simp), fun a hne => (hothers a hne).trans (h.others a hne),
    (by
      have hrest := replaceAnchor_rest e.st.anchors new
      rw [hid, ha] at hrest
      exact hrest.trans h.rest)⟩

theorem Running.changeResult (h : Running s e y r res p items ns) (f : TestResult → TestResult) :
    Running s (e.changeResult f) y { r with result := some (f res) } (f res) p (items ++ [.image r.imageSlot]) ns := by
  rw [Ev.changeResult, h.openTest]
  exact h.write (new := { r with result := some (f res) }) rfl rfl

/-- The entry of a reading of the test (R117, R160). -/
def readingEntry (r : AnchorRec) (res : TestResult) (b : ReadingBody) : PoolEntry :=
  { owner := r.id, position := res.readings.length + 1, stamp := res.stamp, body := some b }

/-- The result and the record with a reading taken (R117). -/
def withReading (res : TestResult) (i : Nat) : TestResult := { res with readings := res.readings ++ [.entry i] }

def recordReading (r : AnchorRec) (res : TestResult) (i : Nat) : AnchorRec :=
  { r with reserved := r.reserved - 1, result := some (withReading res i) }

/-- A reading takes the lowest reserved entry. -/
theorem Running.takeReading (h : Running s e y r res p items ns) {i : Nat} {more : List Nat} (hi : p.reserved = i :: more)
    (b : ReadingBody) :
    Running s (e.takeReading b) { y with reservation := y.reservation - 1 } (recordReading r res i) (withReading res i)
      { reserved := more, used := tablePut p.used i (readingEntry r res b) } (items ++ [.entry i, .image r.imageSlot]) ns := by
  have hhead : e.st.pool.reserved.head? = some i := by rw [h.pool, hi]; rfl
  have hpool : fillEntry e.st.pool i (readingEntry r res b) =
      { reserved := more, used := tablePut p.used i (readingEntry r res b) } := by
    rw [fillEntry, h.pool, hi]
    rfl
  have hfilled : Running s
      (((e.mod fun s => { s with pool := fillEntry s.pool i (readingEntry r res b) }).changeSession fun x =>
        { x with reservation := x.reservation - 1 }).dirtied (.entry i))
      { y with reservation := y.reservation - 1 } r res
      { reserved := more, used := tablePut p.used i (readingEntry r res b) } (items ++ [.entry i]) ns := by
    refine ⟨congrArg (Option.map _) h.session, h.record, h.result, hpool,
      show e.dirty ++ [.entry i] = _ by rw [h.items], h.notices,
      h.frame.step (qs := [.session, .pool]) (fun x hx => ?_) (by simp), h.others, h.rest⟩
    cases x <;> simp_all [SamePart, Ev.changeSession]
  have hwritten := hfilled.write (new := recordReading r res i) rfl rfl
  rw [List.append_assoc] at hwritten
  rw [Ev.takeReading, h.openTest, hhead]
  exact hwritten

theorem Running.announce (h : Running s e y r res p items ns) :
    Running s e.announceStep y r res p items (ns ++ [.nextStep y.anchor (stepInfo e.st y)]) := by
  rw [Ev.announceStep, h.session]
  exact h.raise _

/-- The schedule stands through the operations of the engine. -/
theorem Running.schedule (h : Running s e y r res p items ns) : e.st.schedule = s.schedule := h.frame .schedule (by simp)

theorem Running.meas (h : Running s e y r res p items ns) : e.st.meas = s.meas := h.frame .meas (by simp)

theorem Running.clock (h : Running s e y r res p items ns) : e.st.clock = s.clock := h.frame .clock (by simp)

theorem Running.readingNow (h : Running s e y r res p items ns) (k : ReadingKind) : readingNow e.st k = readingNow s k := by
  rw [Machine.readingNow, Machine.readingNow, stampTime, stampTime, h.meas, h.clock]

theorem stepInfo_congr {a b : State} (hs : a.schedule = b.schedule) (ha : a.anchors = b.anchors) (y : Session) :
    stepInfo a y = stepInfo b y := by
  have htest : testLoad a y.anchor = testLoad b y.anchor := by rw [testLoad, testLoad, findAnchor, findAnchor, ha]
  have hlock : lockLoad a y.anchor = lockLoad b y.anchor := by rw [lockLoad, lockLoad, findAnchor, findAnchor, ha]
  have htarget : sessionTarget a y = sessionTarget b y := by rw [sessionTarget, sessionTarget, hs, htest, hlock]
  rw [stepInfo, stepInfo, sessionBand, sessionBand, htarget, hs]

/-- The session moved along the next link of its step; a step without one is not left (R120). -/
def steppedOn (sch : ScheduleData) (y : Session) : Session :=
  match (stepAt sch y.step).next with
  | none => y
  | some j => { y with step := j, phase := phaseAt (stepAt sch j) }

theorem steppedOn_next {sch : ScheduleData} {y : Session} {j : Nat} (hn : (stepAt sch y.step).next = some j) :
    steppedOn sch y = { y with step := j, phase := phaseAt (stepAt sch j) } := by
  rw [steppedOn, hn]

theorem steppedOn_anchor (sch : ScheduleData) (y : Session) : (steppedOn sch y).anchor = y.anchor := by
  unfold steppedOn
  split <;> rfl

theorem moveOn_eq (e : Ev) : e.moveOn = (e.changeSession (steppedOn e.st.schedule)).announceStep := rfl

/-- A move along the next link, which is told. -/
theorem Running.moveOn (h : Running s e y r res p items ns) :
    Running s e.moveOn (steppedOn s.schedule y) r res p items
      (ns ++ [.nextStep y.anchor (stepInfo e.moveOn.st (steppedOn s.schedule y))]) := by
  have hmoved := (h.changeSession (f := steppedOn e.st.schedule) rfl (steppedOn_anchor _ _)).announce
  rw [steppedOn_anchor, h.schedule] at hmoved
  have hst : e.moveOn.st = (e.changeSession (steppedOn s.schedule)).st := by
    rw [moveOn_eq, announceStep_st, h.schedule]
  rw [moveOn_eq, announceStep_st, h.schedule]
  exact hmoved

/-- The STORE hold of a section goes with a change of stage as it would have gone before the event. -/
theorem Running.storeHoldGoes (h : Running s e y r res p items ns) {old new : AnchorRec} (hid : new.id = y.anchor) :
    storeHoldGoes e.st old new = storeHoldGoes s old new := by
  have hhold : hasHold e.st new.id.sect .store = hasHold s new.id.sect .store := by
    rw [hasHold, hasHold, sectionRec, sectionRec, h.frame .sections (by simp)]
  have hany := congrArg (List.any · fun q => decide (q.id.sect = new.id.sect) && decide (q.stage = .suspect)) h.rest
  simp only [List.any_filter, ← hid] at hany
  simp only [Machine.storeHoldGoes, hhold, Bool.and_assoc, hany]

/-- An event that carried a change of stage of the record under test through the tables, from the state `s` on. -/
structure Restaged (s : State) (g : Ev) (old new : AnchorRec) (items : List Item) (ns : List Notice) : Prop where
  moved : StageMoved old new s g.st
  items : ∀ i, i ∈ g.dirty ↔ i ∈ items ++ stageItems s old new
  notices : ∀ t : State, t.sections = g.st.sections → g.notices = ns ++ stageNotices s t old new
  frame : OnlyChanges [.session, .pool, .anchors, .cure, .sections] s g.st

/-- A change of stage at the end of the engine's work on a test. -/
theorem Running.restage (h : Running s e y r res p items ns) (hz : s.sections.length = 64) (hrange : IdInRange r.id)
    {f : State → State} (hf : OnlyChanges [.session, .pool] e.st (f e.st)) {new : AnchorRec} (hid : new.id = r.id) :
    Restaged s ((e.mod f).changeStage r new) r new items ns ∧
      ((e.mod f).changeStage r new).st.session = (f e.st).session ∧
      ((e.mod f).changeStage r new).st.pool = (f e.st).pool := by
  have ha : r.id = y.anchor := findAnchor_id h.record
  have hna : new.id = y.anchor := hid.trans ha
  have hanchors : (e.mod f).st.anchors = e.st.anchors := hf .anchors (by simp)
  have hsections : (e.mod f).st.sections = s.sections := (hf .sections (by simp)).trans (h.frame .sections (by simp))
  have hcure : (e.mod f).st.cure = s.cure := (hf .cure (by simp)).trans (h.frame .cure (by simp))
  have hold : findAnchor (e.mod f).st new.id = some r := by
    rw [findAnchor, hanchors, hna]
    exact h.record
  obtain ⟨⟨hsect, hmax⟩, -, -⟩ := hrange
  have hgoes : Machine.storeHoldGoes (e.mod f).st r new = Machine.storeHoldGoes s r new := by
    rw [← h.storeHoldGoes hna, Machine.storeHoldGoes, Machine.storeHoldGoes, hasHold, hasHold, sectionRec, sectionRec,
      hanchors, show (e.mod f).st.sections = e.st.sections from hf .sections (by simp)]
  have hmoved := changeStage_moved (e.mod f) r new hold (by rw [hid]; exact hsect)
    (by rw [hid, hsections, hz]; exact hmax)
  have hframe := changeStage_frame (e.mod f) r new
  have hrec : ∀ n, sectionRec (e.mod f).st n = sectionRec s n := fun n => by rw [sectionRec, hsections, sectionRec]
  refine ⟨⟨⟨hmoved.record, fun a hne => ?_, ?_, ?_, fun m h1 h2 => (hmoved.sections m h1 h2).trans (hrec m)⟩, fun i => ?_,
    fun t ht => ?_, ?_⟩, hframe .session (by simp), hframe .pool (by simp)⟩
  · refine (hmoved.others a hne).trans ?_
    rw [findAnchor, hanchors]
    exact h.others a (hna ▸ hne)
  · rw [hmoved.cure, hcure]
  · rw [hmoved.section_, movedSection, movedSection, hrec, hgoes]
  · rw [changeStage_items (e.mod f) r new hold, List.mem_append, stageItems, stageItems, hgoes,
      show (e.mod f).dirty = items from h.items]
  · rw [changeStage_notices (e.mod f) r new t hold ht, stageNotices, stageNotices, hgoes,
      show (e.mod f).notices = ns from h.notices]
  · exact ((h.frame.trans (hf.trans hframe)).mono (by simp))

end

/-! ## A request that works on the test -/

section
variable {k : ReqKind} {q : Port} {pl : List Byte} {s : State} {e : Ev} {y : Session} {r : AnchorRec} {res : TestResult}
  {p : Pool} {items : List Item} {ns : List Notice} {d : AnswerData}

/-- What a request does that works on the test and leaves it open. -/
theorem Running.accepted {body : State → Reply} (h : Running (takeFrame s q) e y r res p items ns)
    (hasked : Asked k q pl s) (hb : body (takeFrame s q) = doneWith e d) :
    ∃ t, take k q pl body s = .next t ∧ Accepted k q d items ns [.session, .pool, .anchors] s t ∧ t.session = some y ∧
      t.pool = p ∧ findAnchor t y.anchor = some r ∧ OtherAnchorsSame y.anchor s t ∧ WatchFlagsSame s t ∧
      ∀ x, stepInfo t x = stepInfo e.st x := by
  have hanchors : (commit (putAnswer k.code q (doneWith e d))).anchors = e.st.anchors := by
    rw [commit_anchors, putAnswer_anchors]; rfl
  have hfind : ∀ a, findAnchor (commit (putAnswer k.code q (doneWith e d))) a = findAnchor e.st a := fun a => by
    rw [findAnchor, hanchors, findAnchor]
  refine ⟨_, take_done hasked hb, accepted_event hasked h.items h.notices h.frame (by simp) (by simp) (by simp), ?_, ?_,
    (hfind _).trans h.record, fun a ha => (hfind a).trans (h.others a ha), putAnswer_watches (h.frame .watch (by simp)),
    fun x => stepInfo_congr ?_ hanchors x⟩
  · rw [commit_session, putAnswer_session]; exact h.session
  · rw [commit_pool, putAnswer_pool]; exact h.pool
  · rw [commit_schedule, putAnswer_schedule]; rfl

/-- An event without a session leaves JACK down. -/
theorem commit_jack_down {e : Ev} (h : e.st.session = none) : (commit e).permits.jack = false :=
  (commit_permits e .jack).trans (lineUp_of_cause (c := .idle) (by simp [causeStands, workAnchor, h]))

/-- What a request does that closes the session with a change of stage. -/
theorem Running.closes {body : State → Reply} (h : Running (takeFrame s q) e y r res p items ns) (hasked : Asked k q pl s)
    (hz : s.sections.length = 64) (hrange : IdInRange r.id) {f : State → State}
    (hf : OnlyChanges [.session, .pool] e.st (f e.st)) (hnone : (f e.st).session = none) {new : AnchorRec}
    (hid : new.id = r.id) (n : Notice)
    (hb : body (takeFrame s q) = doneWith (((e.mod f).changeStage r new).raise n) d) :
    ∃ t, take k q pl body s = .next t ∧
      Accepted k q d (items ++ stageItems s r new) (ns ++ stageNotices s t r new ++ [n])
        [.session, .pool, .anchors, .cure, .sections] s t ∧
      StageMoved r new s t ∧ t.session = none ∧ t.pool = (f e.st).pool ∧ t.permits.jack = false ∧ WatchFlagsSame s t := by
  obtain ⟨⟨hmoved, hitems, hnotices, hframe⟩, hsession, hpool⟩ := h.restage hz hrange hf hid
  obtain ⟨g, hg⟩ : ∃ g, g = ((e.mod f).changeStage r new).raise n := ⟨_, rfl⟩
  have hst : g.st = ((e.mod f).changeStage r new).st := by rw [hg]; rfl
  rw [← hg] at hb
  rw [← hst] at hmoved hnotices hframe hsession hpool
  have hsections : (commit (putAnswer k.code q (doneWith g d))).sections = g.st.sections := by
    rw [commit_sections, putAnswer_sections]; rfl
  have htold : g.notices = ns ++ stageNotices s (commit (putAnswer k.code q (doneWith g d))) r new ++ [n] := by
    refine (congrArg Ev.notices hg).trans ?_
    rw [Ev.raise_notices, hnotices _ hsections]
    rfl
  have hanchors : (commit (putAnswer k.code q (doneWith g d))).anchors = g.st.anchors := by
    rw [commit_anchors, putAnswer_anchors]; rfl
  have hcure : (commit (putAnswer k.code q (doneWith g d))).cure = g.st.cure := by
    rw [commit_cure, putAnswer_cure]; rfl
  refine ⟨_, take_done hasked hb, (accepted_event hasked rfl htold hframe (by simp) (by simp) (by simp)).congr fun i => ?_,
    hmoved.congr rfl rfl rfl hanchors hcure hsections, ?_, ?_, commit_jack_down ?_,
    putAnswer_watches (hframe .watch (by simp))⟩
  · rw [hg, Ev.raise_dirty]
    exact hitems i
  · rw [commit_session, putAnswer_session]; exact hsession.trans hnone
  · rw [commit_pool, putAnswer_pool]; exact hpool
  · rw [putAnswer_session]; exact hsession.trans hnone

end

end Sys2Proof.Machine
end

section
/-! SUPPORT. Stress Open (R118, R119), Stress Abort and Stop Session (R138, R139). -/

namespace Sys2Proof.Machine

/-! ## The stagger rule (R43) -/

theorem smallest_spec (l : List Nat) :
    (smallest l = none ↔ l = []) ∧ ∀ m, smallest l = some m → m ∈ l ∧ ∀ n ∈ l, m ≤ n := by
  induction l with
  | nil => exact ⟨⟨fun _ => rfl, fun _ => rfl⟩, fun m h => by cases h⟩
  | cons x rest ih =>
    obtain ⟨hnone, hsome⟩ := ih
    rw [smallest]
    cases hs : smallest rest with
    | none =>
      rw [hnone.1 hs]
      exact ⟨by simp, by simp⟩
    | some k =>
      obtain ⟨hmem, hle⟩ := hsome k hs
      refine ⟨by simp, fun m hm => ?_⟩
      obtain rfl : min x k = m := Option.some.inj hm
      refine ⟨?_, fun n hn => ?_⟩
      · rcases min_choice x k with h | h <;> rw [h]
        · exact List.mem_cons_self
        · exact List.mem_cons_of_mem _ hmem
      · rcases List.mem_cons.1 hn with rfl | hn
        · exact min_le_left _ _
        · exact (min_le_right _ _).trans (hle n hn)

/-- A bound below the smallest number of a list is a bound below every one. -/
theorem smallest_bound (l : List Nat) (P : Nat → Prop) [DecidablePred P] (hP : ∀ m n, m ≤ n → P m → P n) :
    (match smallest l with | none => true | some m => decide (P m)) = true ↔ ∀ n ∈ l, P n := by
  obtain ⟨hnone, hsome⟩ := smallest_spec l
  cases hs : smallest l with
  | none => simp [hnone.1 hs]
  | some m =>
    obtain ⟨hmem, hle⟩ := hsome m hs
    simp only [decide_eq_true_eq]
    exact ⟨fun h n hn => hP m n (hle n hn) h, fun h => h m hmem⟩

theorem mem_neighbours {s : State} {sect n : Nat} :
    n ∈ neighbours s sect ↔ (n + 1 = sect ∨ n = sect + 1) ∧ 1 ≤ n ∧ n ≤ s.config.params.sectionCount := by
  have hmem : n ∈ neighbours s sect ↔
      (inSections s (sect - 1) = true ∧ n = sect - 1) ∨ (inSections s (sect + 1) = true ∧ n = sect + 1) := by
    unfold neighbours
    rw [List.mem_append]
    split <;> split <;> simp_all
  rw [hmem]
  simp only [inSections, Bool.and_eq_true, decide_eq_true_eq]
  constructor
  · rintro (⟨h, rfl⟩ | ⟨h, rfl⟩) <;> omega
  · rintro ⟨rfl | rfl, h⟩
    · exact .inl ⟨by simpa using h, by simp⟩
    · exact .inr ⟨h, rfl⟩

theorem constrains_iff {s : State} {n tier : Nat} :
    constrains s n tier = true ↔
      ∃ r ∈ s.anchors, r.id.sect = n ∧ r.id.tier = tier ∧ r.stage ≠ .lockedOff ∧ r.stage ≠ .abandoned := by
  simp [constrains, List.any_eq_true, and_assoc]

theorem staggerPasses_iff (s : State) (a : AnchorId) : staggerPasses s a = true ↔
    s.config.params.stagger = 0 ∨
      ∀ n, (n + 1 = a.sect ∨ n = a.sect + 1) → 1 ≤ n → n ≤ s.config.params.sectionCount →
        (∃ r ∈ s.anchors, r.id.sect = n ∧ r.id.tier = a.tier ∧ r.stage ≠ .lockedOff ∧ r.stage ≠ .abandoned) →
        lockedCount s a.sect a.tier + 1 ≤ lockedCount s n a.tier + s.config.params.stagger := by
  rw [staggerPasses, Bool.or_eq_true, decide_eq_true_eq]
  refine or_congr_right ((smallest_bound _ (fun m => lockedCount s a.sect a.tier + 1 ≤ m + s.config.params.stagger)
    fun m n hmn h => by omega).trans ?_)
  simp only [List.forall_mem_map, List.mem_filter, mem_neighbours, constrains_iff, and_imp]

/-- Where no check fails, none stands. -/
theorem firstFailing_none {checks : List (Bool × Code)} (h : firstFailing checks = none) {c : Bool × Code}
    (hc : c ∈ checks) : c.1 = false := by
  have hnone := List.find?_eq_none.1 (Option.map_eq_none_iff.1 h) c hc
  simpa using hnone

theorem Checks.mono {checks : List (Bool × Code)} {s : State} {P Q : Reply → Prop} {r : Reply} (h : Checks checks s P r)
    (hPQ : ∀ r, P r → Q r) : Checks checks s Q r := by
  unfold Checks at *
  split
  next hc => rwa [hc] at h
  next hc => rw [hc] at h; exact hPQ r h

/-! ## The lowest free entries (R160) -/

/-- Every free number below one chosen is chosen. -/
theorem lowestFree_below (taken : List Nat) : ∀ fuel i want j m, j ∈ lowestFree taken fuel i want → i ≤ m → m < j →
    m ∉ taken → m ∈ lowestFree taken fuel i want := by
  intro fuel
  induction fuel with
  | zero => intro i want j m hj; simp [lowestFree] at hj
  | succ fuel ih =>
    intro i want j m hj him hmj hm
    cases want with
    | zero => simp [lowestFree] at hj
    | succ want =>
      rw [lowestFree] at hj ⊢
      split at hj
      next hi =>
        rw [if_pos hi]
        have hne : m ≠ i := fun h => hm (by simpa [h] using hi)
        exact ih (i + 1) (want + 1) j m hj (by omega) hmj hm
      next hi =>
        rw [if_neg hi]
        rcases List.mem_cons.1 hj with rfl | hj
        · omega
        · by_cases hmi : m = i
          · exact hmi ▸ List.mem_cons_self
          · exact List.mem_cons_of_mem _ (ih (i + 1) want j m hj (by omega) hmj hm)

/-- At most as many numbers are taken as the list of them is long. -/
theorem free_length (taken : List Nat) (n : Nat) :
    n - taken.length ≤ ((List.range' 0 n).filter fun i => !taken.contains i).length := by
  have hsplit := List.length_eq_length_filter_add (l := List.range' 0 n) fun i => taken.contains i
  have htaken : ((List.range' 0 n).filter fun i => taken.contains i).length ≤ taken.length := by
    refine (List.Nodup.subperm ((List.nodup_range').filter _) fun i hi => ?_).length_le
    simpa using (List.mem_filter.1 hi).2
  rw [List.length_range'] at hsplit
  omega

/-- The entries that an accepted Stress Open reserves: as many as wanted, free, and the lowest. -/
theorem reserveEntries_lowest {q : Pool} {w : Nat} (h : w ≤ 8192 - (q.reserved.length + q.used.length)) :
    (reserveEntries q w).reserved.length = w ∧
      ∀ j ∈ (reserveEntries q w).reserved, j < 8192 ∧ j ∉ q.used.map (·.index) ∧
        ∀ m, m < j → m ∉ q.used.map (·.index) → m ∈ (reserveEntries q w).reserved := by
  have hfree := free_length (q.used.map (·.index)) 8192
  rw [List.length_map] at hfree
  obtain ⟨hlen, -, hspec⟩ := lowestFree_spec2 (q.used.map (·.index)) 8192 0 w (by omega)
  refine ⟨hlen, fun j hj => ?_⟩
  obtain ⟨-, hlt, hnot⟩ := hspec j hj
  exact ⟨by omega, hnot, fun m hm hfree => lowestFree_below _ 8192 0 w j m hj (Nat.zero_le m) hm hfree⟩

/-! ## Stress Open (R118, R119) -/

theorem stressOpenReply_missing {pl : List Byte} {s : State} (hf : findAnchor s (anchorField pl) = none) :
    stressOpenReply pl s = refuse s .noSuchAnchor := by
  simp only [stressOpenReply, hf]

/-- The checks of R118 from the schedule on, and the event where none fails. -/
theorem stressOpenOn_checks (s : State) (r : AnchorRec) (d : Design) (area now : Nat) :
    Checks
      [((s.results.get d.cls).walkCount.isNone, .scheduleInvalid),
       (equalTargets s.schedule d.tl [] (s.results.get d.cls).path, .scheduleInvalid),
       (decide (area < 5000 ∨ 60000 < area), .badValue), (jackFaulted s.meas, .sensorFault),
       (decide (8192 - (s.pool.reserved.length + s.pool.used.length) <
          (s.results.get d.cls).walkCount.getD 0 + 3 * s.config.params.relockMax), .poolExhausted)] s
      (fun reply => reply = stressOpenDone s r d (s.results.get d.cls).path area now
        ((s.results.get d.cls).walkCount.getD 0 + 3 * s.config.params.relockMax))
      (stressOpenOn s r d area now) := by
  unfold stressOpenOn
  cases hres : s.results.get d.cls with
  | invalid f i => exact .fails rfl
  | valid path count =>
    refine .passes rfl ?_
    dsimp only [HeadResult.path, HeadResult.walkCount]
    iterate 3
      split
      · exact .fails (by simp_all)
      refine .passes (by simp_all) ?_
    split
    next h => exact .fails (decide_eq_true h)
    next h => exact .passes (decide_eq_false h) (.none_left rfl)

/-- The checks of R118 in their order, and the event where none fails. -/
theorem stressOpenReply_checks {pl : List Byte} {s : State} {r : AnchorRec} {d : Design}
    (hf : findAnchor s (anchorField pl) = some r) (hd : r.design = some d) :
    Checks
      [(s.session.isSome, .sessionBusy), (s.clock.time.isNone, .clockUnset),
       (decide (r.stage ≠ .stressable), .wrongStage), (anchorZoneClosed s r, .zoneClosed),
       (sectionHeld s r.id.sect, .sectionHeld), (sectionIsStale s r.id.sect, .deflectionStale),
       (!staggerPasses s r.id, .stagger), ((s.results.get d.cls).walkCount.isNone, .scheduleInvalid),
       (equalTargets s.schedule d.tl [] (s.results.get d.cls).path, .scheduleInvalid),
       (decide (fieldNat pl 2 2 < 5000 ∨ 60000 < fieldNat pl 2 2), .badValue), (jackFaulted s.meas, .sensorFault),
       (decide (8192 - (s.pool.reserved.length + s.pool.used.length) <
          (s.results.get d.cls).walkCount.getD 0 + 3 * s.config.params.relockMax), .poolExhausted)] s
      (fun reply => r.stage = .stressable ∧ ∀ now, s.clock.time = some now →
        reply = stressOpenDone s r d (s.results.get d.cls).path (fieldNat pl 2 2) now
          ((s.results.get d.cls).walkCount.getD 0 + 3 * s.config.params.relockMax))
      (stressOpenReply pl s) := by
  have hzone : anchorZoneClosed s r = !zoneOpen s d.zone := by simp only [anchorZoneClosed, hd]
  simp only [stressOpenReply, hf]
  split
  next h => exact .fails h
  next h =>
    refine .passes (by simpa using h) ?_
    cases hnow : s.clock.time with
    | none => exact .fails rfl
    | some now =>
      refine .passes rfl ?_
      dsimp only
      split
      next h => exact .fails (decide_eq_true h)
      next hstage =>
        refine .passes (decide_eq_false hstage) ?_
        rw [hd, hzone]
        dsimp only
        iterate 4
          split
          · exact .fails (by assumption)
          refine .passes (by simp_all) ?_
        exact (stressOpenOn_checks s r d (fieldNat pl 2 2) now).mono fun reply hreply =>
          ⟨not_not.1 hstage, fun n hn => Option.some.inj hn ▸ hreply⟩

/-- The identity of every record lies in its ranges. -/
theorem anchor_inRange {s : State} {a : AnchorId} {r : AnchorRec} (hz : TablesSized s) (hf : findAnchor s a = some r) :
    IdInRange r.id := by
  obtain ⟨-, -, -, -, -, -, -, -, hids, -⟩ := hz
  exact hids r (List.mem_of_find?_eq_some hf)

/-- The state an accepted Stress Open changes the stage on. -/
def sessionOpened (s : State) (r : AnchorRec) (d : Design) (path : List Nat) (area w : Nat) : State :=
  { s with session := some (openedSession s r d.cls path area w), pool := reserveEntries s.pool w }

theorem sessionOpened_frame (s : State) (r : AnchorRec) (d : Design) (path : List Nat) (area w : Nat) :
    OnlyChanges [.session, .pool] s (sessionOpened s r d path area w) := by
  intro x hx
  cases x <;> simp_all [SamePart, sessionOpened]

theorem stressOpenDone_eq (s : State) (r : AnchorRec) (d : Design) (path : List Nat) (area now w : Nat) :
    stressOpenDone s r d path area now w =
      doneWith ((Ev.of (sessionOpened s r d path area w)).changeStage r (openedRecord r now w)).announceStep
        (.stressOpen w (path.headD 0)
          ((sessionTarget (sessionOpened s r d path area w) (openedSession s r d.cls path area w)).getD 0)
          ((sessionBand (sessionOpened s r d path area w) (openedSession s r d.cls path area w)).getD 0)) := rfl

/-- The first step of an opened session as its notice gives it. -/
theorem stepInfo_opened {t : State} {r r' : AnchorRec} {d : Design} {x : Session} {f : Nat} {nx : Option Nat}
    (hrec : findAnchor t r.id = some r') (hd : r'.design = some d) (ha : x.anchor = r.id)
    (hstep : stepAt t.schedule x.step = .datum f nx) :
    sessionTarget t x = some (d.tl * f / 1000) ∧
    sessionBand t x = some (max (d.tl * f / 1000 * x.captured.reachBand / 1000) 10) ∧
    stepInfo t x = { step := x.step, kind := .datum, target := some (d.tl * f / 1000),
                     band := some (max (d.tl * f / 1000 * x.captured.reachBand / 1000) 10), phase := x.phase.name } := by
  have htest : testLoad t x.anchor = d.tl := by simp [testLoad, ha, hrec, hd]
  have htarget : sessionTarget t x = some (d.tl * f / 1000) := by
    rw [sessionTarget, hstep]
    simp only [htest]
    rfl
  have hband : sessionBand t x = some (max (d.tl * f / 1000 * x.captured.reachBand / 1000) 10) := by
    rw [sessionBand, htarget, hstep]
    rfl
  refine ⟨htarget, hband, ?_⟩
  rw [stepInfo, htarget, hband, hstep]
  rfl

/-- Settles O47: the stagger rule, the checks of R118, and a change of stage on the state with the session open. -/
theorem stressOpenOpensSession : Obligations.StressOpenOpensSession := by
  refine ⟨staggerPasses_iff, fun p pl s h => ⟨fun hf => take_refused h (stressOpenReply_missing hf),
    fun r d hf hd => ?_⟩⟩
  intro head area want failing
  have hchecks := stressOpenReply_checks (s := takeFrame s p) hf hd
  refine ⟨fun c hfail => take_refused h (hchecks.refused hfail), fun now i f nx hpass hz hnow hhead hstep => ?_⟩
  intro target band number opened result new
  obtain ⟨hstage, hreply⟩ := hchecks.accepted hpass
  have hroom : want ≤ 8192 - (s.pool.reserved.length + s.pool.used.length) := by
    have hlast := firstFailing_none hpass (c := (decide (8192 - (s.pool.reserved.length + s.pool.used.length) < want),
      .poolExhausted)) (by simp only [List.mem_cons, true_or, or_true])
    simpa using hlast
  obtain ⟨hreserved, hlowest⟩ := reserveEntries_lowest hroom
  have hi : head.path.headD 0 = i := by rw [List.headD_eq_head?_getD, hhead]; rfl
  have hopened : openedSession (takeFrame s p) r d.cls head.path area want = opened := by
    rw [openedSession, hi]
    rfl
  have hu := sessionOpened_frame (takeFrame s p) r d head.path area want
  obtain ⟨u, hudef⟩ : ∃ u, u = sessionOpened (takeFrame s p) r d head.path area want := ⟨_, rfl⟩
  have husession : u.session = some opened := by rw [hudef, sessionOpened, hopened]
  have hupool : u.pool = reserveEntries s.pool want := by rw [hudef]; rfl
  rw [← hudef] at hu
  obtain ⟨e, hedef⟩ : ∃ e, e = (Ev.of u).changeStage r new := ⟨_, rfl⟩
  have hesession : e.st.session = some opened := by
    rw [hedef]
    exact (changeStage_keeps u r new (x := .session) (by simp)).trans husession
  have hepool : e.st.pool = reserveEntries s.pool want := by
    rw [hedef]
    exact (changeStage_keeps u r new (x := .pool) (by simp)).trans hupool
  have hannounce : e.announceStep = e.raise (.nextStep r.id (stepInfo e.st opened)) := by
    rw [Ev.announceStep, hesession]
  have huf : findAnchor u r.id = some r := by
    rw [findAnchor, hu .anchors (by simp)]
    exact (findAnchor_id hf) ▸ hf
  have hef : findAnchor e.st r.id = some new := by
    rw [hedef]
    obtain ⟨⟨hsect, hmax⟩, -, -⟩ := anchor_inRange hz hf
    have hsections : u.sections.length = 64 := (congrArg List.length (hu .sections (by simp))).trans hz.1
    exact (changeStage_moved (Ev.of u) r new huf hsect (by rw [Ev.of_st, hsections]; exact hmax)).record
  have hesch : e.st.schedule = s.schedule := by
    rw [hedef]
    exact (changeStage_keeps u r new (x := .schedule) (by simp)).trans (hu .schedule (by simp))
  obtain ⟨-, -, hinfo⟩ := stepInfo_opened (t := e.st) (x := opened) hef (show new.design = some d from hd) rfl
    (by rw [hesch]; exact hstep)
  obtain ⟨htarget, hband, -⟩ := stepInfo_opened (t := u) (x := opened) huf hd rfl
    (by rw [hu .schedule (by simp)]; exact hstep)
  have hbody : stressOpenReply pl (takeFrame s p) = doneWith e.announceStep (.stressOpen want i target band) := by
    have hdone := stressOpenDone_eq (takeFrame s p) r d head.path area now want
    rw [← hudef, hopened, hi, htarget, hband] at hdone
    rw [hedef]
    exact (hreply now hnow).trans hdone
  obtain ⟨haccepted, hmoved, hwatch⟩ := accepted_stage (r := doneWith e.announceStep (.stressOpen want i target band))
    (u := u) (old := r) (new := new) (extra := [.nextStep r.id (stepInfo e.st opened)]) h rfl
    (by rw [← hedef]; exact announceStep_st e) (by rw [← hedef, hannounce]; rfl) (by rw [← hedef, hannounce]; rfl) hu
    (by simp) hf rfl hz.1
  rw [stageItems_plain (by simp [hstage]) (by simp [new]) (by simp [hstage]), stageNotices_plain (by simp [hstage]), hinfo,
    hstage] at haccepted
  refine ⟨_, take_done h hbody, haccepted, hmoved, ?session, ?used, ?count, ?lowest, hwatch⟩
  case session =>
    rw [commit_session, putAnswer_session]
    exact (congrArg State.session (announceStep_st e)).trans hesession
  all_goals
    rw [commit_pool, putAnswer_pool, show (doneWith e.announceStep (.stressOpen want i target band)).ev.st.pool =
      reserveEntries s.pool want from (congrArg State.pool (announceStep_st e)).trans hepool]
  case used => rfl
  case count => exact hreserved
  case lowest => exact hlowest

/-! ## Stress Abort and Stop Session (R138, R139) -/

theorem openTest_idle {s : State} (h : s.session = none) : openTest s = none := by
  simp only [openTest, h]

theorem openTest_running {s : State} {y : Session} {r : AnchorRec} {res : TestResult} (hs : s.session = some y)
    (hf : findAnchor s y.anchor = some r) (hr : r.result = some res) :
    openTest s = some { sess := y, rec_ := r, result := res } := by
  simp only [openTest, hs, hf, hr, Option.map_some]

theorem interruptReply_idle {how : SessionEnd} {s : State} (h : s.session = none) :
    interruptReply how s = refuse s .noSession := by
  simp only [interruptReply, openTest_idle h]

theorem interruptReply_running {how : SessionEnd} {s : State} {o : OpenTest} (h : openTest s = some o) :
    interruptReply how s =
      doneWith ((((Ev.of s).mod fun u => interruptedPool u o).changeStage o.rec_ (interruptedRecord o)).raise
        (.sessionEnded o.rec_.id how)) (.stage (interruptedRecord o).stage) := by
  simp only [interruptReply, h]
  rfl

theorem interruptedPool_frame (s : State) (o : OpenTest) : OnlyChanges [.session, .pool] s (interruptedPool s o) := by
  unfold interruptedPool
  split
  · exact closeSession_frame s
  · exact ((releaseReadings_frame s _).trans (closeSession_frame _)).mono (by simp)

theorem interruptedPool_closed (s : State) (o : OpenTest) :
    (interruptedPool s o).session = none ∧
      (interruptedPool s o).pool =
        { reserved := [],
          used := if hasCritical o.sess then s.pool.used
            else s.pool.used.filter fun e => !o.result.readings.contains (.entry e.index) } := by
  unfold interruptedPool
  split <;> exact ⟨rfl, rfl⟩

theorem interruptedRecord_id (o : OpenTest) : (interruptedRecord o).id = o.rec_.id := by
  unfold interruptedRecord
  split <;> rfl

/-- What an interrupted session leaves, for both requests. -/
theorem interrupted {k : ReqKind} {p : Port} {pl : List Byte} {s : State} {how : SessionEnd} {x : Session} {r : AnchorRec}
    {res : TestResult} (h : Asked k p pl s) (hz : TablesSized s) (hs : s.session = some x)
    (hf : findAnchor s x.anchor = some r) (hr : r.result = some res) :
    ∃ t, take k p pl (interruptReply how) s = .next t ∧
      Accepted k p (.stage (interruptedRecord { sess := x, rec_ := r, result := res }).stage)
        (stageItems s r (interruptedRecord { sess := x, rec_ := r, result := res }))
        (stageNotices s t r (interruptedRecord { sess := x, rec_ := r, result := res }) ++ [.sessionEnded x.anchor how])
        [.session, .pool, .anchors, .cure, .sections] s t ∧
      StageMoved r (interruptedRecord { sess := x, rec_ := r, result := res }) s t ∧ t.session = none ∧
      t.pool = { reserved := [], used := if hasCritical x then s.pool.used
        else s.pool.used.filter fun e => !res.readings.contains (.entry e.index) } ∧
      t.permits.jack = false ∧ WatchFlagsSame s t := by
  have hrun : Running (takeFrame s p) (Ev.of (takeFrame s p)) x r res s.pool [] [] :=
    Running.start (e := Ev.of (takeFrame s p)) hs hf hr
  have hbody := interruptReply_running (how := how) (s := takeFrame s p) (openTest_running hs hf hr)
  obtain ⟨hnone, hpool⟩ := interruptedPool_closed (takeFrame s p) { sess := x, rec_ := r, result := res }
  obtain ⟨t, hexec, haccepted, hmoved, hsession, hp, hjack, hwatch⟩ :=
    hrun.closes h hz.1 (anchor_inRange hz hf) (f := fun u => interruptedPool u { sess := x, rec_ := r, result := res })
      (interruptedPool_frame _ _) hnone (interruptedRecord_id _) (.sessionEnded r.id how) hbody
  rw [show r.id = x.anchor from findAnchor_id hf] at haccepted
  exact ⟨t, hexec, haccepted, hmoved, hsession, hp.trans hpool, hjack, hwatch⟩

/-- Settles O51: both requests close the session, with or without releasing the readings. -/
theorem abortOrStopClosesSession : Obligations.AbortOrStopClosesSession := by
  intro k p pl s hk h
  refine ⟨fun hs => ?idle, fun x r res hz hs hf hr => ?running⟩
  case idle =>
    rcases hk with rfl | rfl
    · exact take_refused h (interruptReply_idle (s := takeFrame s p) hs)
    · exact take_refused h (interruptReply_idle (s := takeFrame s p) hs)
  case running =>
    intro critical new
    rcases hk with rfl | rfl
    · obtain ⟨t, hexec, haccepted, hmoved, hsession, hpool, hjack, hwatch⟩ := interrupted (how := .abort) h hz hs hf hr
      exact ⟨t, hexec, haccepted, hmoved, hsession, congrArg Pool.reserved hpool, congrArg Pool.used hpool, hjack, hwatch⟩
    · obtain ⟨t, hexec, haccepted, hmoved, hsession, hpool, hjack, hwatch⟩ := interrupted (how := .stop) h hz hs hf hr
      exact ⟨t, hexec, haccepted, hmoved, hsession, congrArg Pool.reserved hpool, congrArg Pool.used hpool, hjack, hwatch⟩

end Sys2Proof.Machine
end

section
/-! SUPPORT. Advance at a DATUM, LOAD_TO or LOCK_OFF step (R125, R126), and Release (R133). -/

namespace Sys2Proof.Machine

/-! ## The loads of the anchor under test -/

theorem testLoad_eq {s : State} {a : AnchorId} {r : AnchorRec} (h : findAnchor s a = some r) :
    testLoad s a = (r.design.map (·.tl)).getD 0 := by
  rw [testLoad, h, Option.bind_some]
  cases r.design <;> rfl

/-- The operations of the engine leave the design data, and with it the test load. -/
theorem Running.testLoad {s : State} {e : Ev} {y : Session} {r r0 : AnchorRec} {res : TestResult} {p : Pool}
    {items : List Item} {ns : List Notice} (h : Running s e y r res p items ns) (h0 : findAnchor s y.anchor = some r0)
    (hd : r.design = r0.design) : testLoad e.st y.anchor = testLoad s y.anchor := by
  rw [testLoad_eq h.record, testLoad_eq h0, hd]

/-! ## Advance (R125, R126) -/

theorem advanceReply_idle {s : State} (h : s.session = none) : advanceReply s = refuse s .noSession := by
  simp only [advanceReply, openTest_idle h]

theorem advanceReply_holding {s : State} {o : OpenTest} {h : HoldCtx} (ho : openTest s = some o)
    (hp : o.sess.phase = .holding h) : advanceReply s = refuse s .holdRunning := by
  simp only [advanceReply, ho, hp]

theorem advanceReply_phase {s : State} {o : OpenTest} (ho : openTest s = some o)
    (hp : o.sess.phase = .releaseWait ∨ ∃ l, o.sess.phase = .liftoff l) : advanceReply s = refuse s .wrongPhase := by
  rcases hp with hp | ⟨l, hp⟩ <;> simp only [advanceReply, ho, hp]

theorem advanceReply_step {s : State} {o : OpenTest} {k : ReadingKind} (ho : openTest s = some o)
    (hp : o.sess.phase = .opened ∨ o.sess.phase = .approach) (hk : arrivalKind (stepAt s.schedule o.sess.step) = some k) :
    advanceReply s = advanceOn s o k := by
  rcases hp with hp | hp <;> simp only [advanceReply, ho, hp, hk]

/-- The target and the band of a step with an arrival (R145, R146). -/
theorem arrival_target {s : State} {x : Session} {k : ReadingKind} (hk : arrivalKind (stepAt s.schedule x.step) = some k) :
    let target := match stepAt s.schedule x.step with
      | .datum f _ | .loadTo f _ | .unloadTo f _ => testLoad s x.anchor * f / 1000
      | _ => lockLoad s x.anchor
    (sessionTarget s x).getD 0 = target ∧
      (sessionBand s x).getD 0 = max (target * x.captured.reachBand / 1000) 10 := by
  intro target
  simp only [sessionBand, sessionTarget, target]
  cases hstep : stepAt s.schedule x.step <;> simp [arrivalKind, hstep, targetOf, bandOf] at hk ⊢

/-- The checks of R125 at a step with an arrival, and the answer where none fails. -/
theorem advanceOn_checks {s : State} {x : Session} {r : AnchorRec} {res : TestResult} {k : ReadingKind}
    (hs : s.session = some x) (hk : arrivalKind (stepAt s.schedule x.step) = some k) :
    let target := match stepAt s.schedule x.step with
      | .datum f _ | .loadTo f _ | .unloadTo f _ => testLoad s x.anchor * f / 1000
      | _ => lockLoad s x.anchor
    let band := max (target * x.captured.reachBand / 1000) 10
    Checks
      [(jackFaulted s.meas && Config.faultBeforePaused, .sensorFault), (!s.permits.jack, .paused),
       (jackFaulted s.meas, .sensorFault),
       (decide ((stepAt s.schedule x.step).kind = .loadTo) && anchorZoneClosed s r, .zoneClosed),
       (decide (target + band < channelValue s.meas .load ∨ channelValue s.meas .load + band < target), .targetNotReached)] s
      (fun reply => reply = advanceDone s { sess := x, rec_ := r, result := res } k)
      (advanceOn s { sess := x, rec_ := r, result := res } k) := by
  intro target band
  obtain ⟨htarget, hband⟩ := arrival_target hk
  have hpaused : sessionPaused s = !s.permits.jack := by simp [sessionPaused, hs]
  have hin : (!inBand (channelValue s.meas .load) ((sessionTarget s x).getD 0) ((sessionBand s x).getD 0)) =
      decide (target + band < channelValue s.meas .load ∨ channelValue s.meas .load + band < target) := by
    rw [htarget, hband]
    change (!inBand (channelValue s.meas .load) target band) = _
    rw [inBand, Bool.eq_iff_iff]
    simp only [Bool.not_eq_true', Bool.and_eq_false_iff, decide_eq_false_iff_not, decide_eq_true_eq]
    omega
  unfold advanceOn
  dsimp only
  rw [hpaused, hin]
  iterate 3
    split
    · exact .fails (by assumption)
    refine .passes (Bool.eq_false_iff.2 (by assumption)) ?_
  split
  next h => exact .fails (by simpa using h)
  next h =>
    refine .passes (by simpa using h) ?_
    split
    next h => exact .fails h
    next h => exact .passes (Bool.eq_false_iff.2 h) (.none_left rfl)

/-- The event of an accepted Advance, from the frame taken on. -/
def advanceEvent (s : State) (o : OpenTest) (k : ReadingKind) : Ev :=
  ((Ev.of s).takeReading (readingNow s k)).carryOut o (s.pool.reserved.headD 0)

theorem advanceDone_eq (s : State) (o : OpenTest) (k : ReadingKind) :
    advanceDone s o k =
      doneWith (advanceEvent s o k)
        (.advance { kind := k, load := channelValue s.meas .load, ext := s.meas.extension, time := stampTime s }
          ((advanceEvent s o k).st.session.map (stepInfo (advanceEvent s o k).st)) (unloadAnswer s o).1
          (unloadAnswer s o).2) := rfl

/-- The session as an Advance leaves it at a step that is no UNLOAD_TO (R122, R123, R126). -/
def advancedSession (s : State) (x : Session) (arrival : Nat) : Session :=
  match stepAt s.schedule x.step with
  | .datum f _ =>
    steppedOn s.schedule
      { x with reservation := x.reservation - 1, datum := some (datumFrame s x f) }
  | .loadTo f _ => steppedOn s.schedule (pushStage s { x with reservation := x.reservation - 1 } f arrival)
  | _ => { x with reservation := x.reservation - 1, phase := .releaseWait }

theorem advancedSession_anchor (s : State) (x : Session) (i : Nat) : (advancedSession s x i).anchor = x.anchor := by
  unfold advancedSession
  split
  · exact steppedOn_anchor _ _
  · exact steppedOn_anchor _ _
  · rfl

theorem unloadAnswer_none {s : State} {o : OpenTest} (h : (stepAt s.schedule o.sess.step).kind ≠ .unloadTo) :
    unloadAnswer s o = (none, none) := by
  unfold unloadAnswer
  split
  next hstep => simp [hstep, StepRec.kind] at h
  next => rfl

/-- The notices of an Advance at a step that is no UNLOAD_TO: the step it moves to. -/
def advancedNotices (s : State) (x : Session) (arrival : Nat) (info : Session → StepInfo) : List Notice :=
  match stepAt s.schedule x.step with
  | .lockOff _ => []
  | _ => [.nextStep x.anchor (info (advancedSession s x arrival))]

/-- An accepted Advance at a step that is no UNLOAD_TO. -/
theorem advanceEvent_running {s : State} {x : Session} {r : AnchorRec} {res : TestResult} {k : ReadingKind} {i : Nat}
    {more : List Nat} (hs : s.session = some x) (hf : findAnchor s x.anchor = some r) (hr : r.result = some res)
    (hk : arrivalKind (stepAt s.schedule x.step) = some k) (hi : s.pool.reserved = i :: more)
    (hunload : (stepAt s.schedule x.step).kind ≠ .unloadTo) :
    let e := advanceEvent s { sess := x, rec_ := r, result := res } k
    Running s e (advancedSession s x i) (recordReading r res i) (withReading res i)
      { reserved := more, used := tablePut s.pool.used i (readingEntry r res (readingNow s k)) } [.entry i, .image r.imageSlot]
      (advancedNotices s x i (stepInfo e.st)) := by
  intro e
  have hstart : Running s (Ev.of s) x r res s.pool [] [] := Running.start (e := Ev.of s) hs hf hr
  have hread := hstart.takeReading hi (readingNow s k)
  rw [List.nil_append] at hread
  obtain ⟨e1, he1⟩ : ∃ e1, e1 = (Ev.of s).takeReading (readingNow s k) := ⟨_, rfl⟩
  rw [← he1] at hread
  have he : e = e1.carryOut { sess := x, rec_ := r, result := res } i := by
    change advanceEvent s _ k = _
    rw [advanceEvent, ← he1, hi]
    rfl
  have hload : Machine.testLoad e1.st x.anchor = Machine.testLoad s x.anchor := hread.testLoad hf rfl
  rw [he]
  unfold Ev.carryOut advancedNotices advancedSession
  rw [hread.schedule]
  dsimp only
  cases hstep : stepAt s.schedule x.step with
  | datum f n =>
    have hdatum : datumFrame e1.st { x with reservation := x.reservation - 1 } f = datumFrame s x f := by
      rw [datumFrame, datumFrame, hload, hread.meas]
    have hset := hread.changeSession
      (f := fun x => { x with datum := some (datumFrame e1.st x f) })
      (y' := { x with reservation := x.reservation - 1, datum := some (datumFrame s x f) }) (by dsimp only; rw [hdatum]) rfl
    exact hset.moveOn
  | loadTo f n =>
    have hpush : pushStage e1.st { x with reservation := x.reservation - 1 } f i =
        pushStage s { x with reservation := x.reservation - 1 } f i := by
      rw [pushStage, pushStage, stageFrame, stageFrame, hload]
    exact (hread.changeSession (f := fun x => pushStage e1.st x f i) hpush rfl).moveOn
  | lockOff n => exact hread.changeSession (f := fun x => { x with phase := .releaseWait }) rfl rfl
  | unloadTo | hold | liftOff | endStep => simp [hstep, arrivalKind, StepRec.kind] at hk hunload

/-- Settles O48: the checks of R125, and the event of `advanceEvent_running`. -/
theorem advanceCarriesOutStep : Obligations.AdvanceCarriesOutStep := by
  refine fun p pl s h => ⟨fun hs => take_refused h (advanceReply_idle (s := takeFrame s p) hs), fun x r res hs hf hr => ?_⟩
  have ho : openTest (takeFrame s p) = some { sess := x, rec_ := r, result := res } := openTest_running hs hf hr
  refine ⟨fun c hc => take_refused h (advanceReply_holding ho hc), fun hp => take_refused h (advanceReply_phase ho hp),
    fun k hp hk => ?_⟩
  intro here load ext target band failing
  have hreply := advanceReply_step ho hp hk
  have hchecks := advanceOn_checks (s := takeFrame s p) (r := r) (res := res) hs hk
  rw [← hreply] at hchecks
  refine ⟨fun c hfail => take_refused h (hchecks.refused hfail), fun i more hpass hi hunload => ?_⟩
  intro entry
  have hrun := advanceEvent_running (s := takeFrame s p) hs hf hr hk hi hunload
  have hbody := hchecks.accepted hpass
  rw [advanceDone_eq] at hbody
  obtain ⟨t, hexec, haccepted, hsession, hpool, hrecord, hothers, hwatch, hinfo⟩ := hrun.accepted h hbody
  have hnone := unloadAnswer_none (s := takeFrame s p) (o := { sess := x, rec_ := r, result := res }) hunload
  rw [hrun.session, hnone] at haccepted
  rw [advancedSession_anchor] at hrecord hothers
  refine ⟨t, hexec, ?accepted, hrecord, hothers, hwatch, congrArg Pool.reserved hpool, ?entry, fun f j hstep => ?datum,
    fun f j hstep => ?load, fun nx hstep => ?lock⟩
  case accepted =>
    rw [hsession]
    simp only [Option.map_some, hinfo]
    exact haccepted
  case entry =>
    rw [hpool, tableGet_put, if_pos rfl]
    rfl
  all_goals
    have hsame : stepAt (takeFrame s p).schedule x.step = here := rfl
    rw [hsession, advancedSession, hsame, hstep]
  case datum =>
    have htarget : target = testLoad s x.anchor * f / 1000 := by simp only [target, hstep]
    rw [htarget]
    exact congrArg some (steppedOn_next (sch := s.schedule)
      (y := { x with reservation := x.reservation - 1, datum := some (datumFrame (takeFrame s p) x f) })
      (congrArg StepRec.next hstep))
  case load =>
    have htarget : target = testLoad s x.anchor * f / 1000 := by simp only [target, hstep]
    refine (congrArg some (steppedOn_next (sch := s.schedule)
      (y := pushStage (takeFrame s p) { x with reservation := x.reservation - 1 } f i)
      (congrArg StepRec.next hstep))).trans ?_
    simp only [pushStage, stageFrame, List.isEmpty_iff, htarget]
    rfl

/-! ## Release (R133) -/

theorem releaseReply_idle {s : State} (h : s.session = none) : releaseReply s = refuse s .noSession := by
  simp only [releaseReply, openTest_idle h]

/-- The checks of R133, and the answer where none fails. -/
theorem releaseReply_checks {s : State} {o : OpenTest} (ho : openTest s = some o) :
    Checks [(decide (o.sess.phase ≠ .releaseWait), .wrongPhase), (jackFaulted s.meas, .sensorFault)] s
      (fun reply => reply = releaseDone s) (releaseReply s) := by
  simp only [releaseReply, ho]
  cases hp : o.sess.phase with
  | releaseWait =>
    refine .passes (by simp) ?_
    dsimp only
    split
    next h => exact .fails h
    next h => exact .passes (Bool.eq_false_iff.2 h) (.none_left rfl)
  | opened | approach | holding | liftoff => exact .fails (by simp)

/-- The event of an accepted Release. -/
def releaseEvent (s : State) : Ev :=
  (((((Ev.of s).changeResult fun t => { t with plock := some (channelValue s.meas .load) }).takeReading
    (readingNow s .release)).changeSession (releasedSession s))).announceStep

theorem releaseDone_eq (s : State) :
    releaseDone s = doneWith (releaseEvent s)
      (.release (channelValue s.meas .load)
        { kind := .release, load := channelValue s.meas .load, ext := s.meas.extension, time := stampTime s }) := rfl

theorem releaseEvent_running {s : State} {x : Session} {r : AnchorRec} {res : TestResult} {i j : Nat} {more : List Nat}
    (hs : s.session = some x) (hf : findAnchor s x.anchor = some r) (hr : r.result = some res)
    (hi : s.pool.reserved = i :: more) (hj : (stepAt s.schedule x.lockStep).next = some j) :
    let judged : TestResult := { res with plock := some (channelValue s.meas .load) }
    let y : Session := { x with step := j, phase := .liftoff { lowSeen := false, ref := none }, reservation := x.reservation - 1 }
    Running s (releaseEvent s) y (recordReading { r with result := some judged } judged i) (withReading judged i)
      { reserved := more, used := tablePut s.pool.used i (readingEntry r judged (readingNow s .release)) }
      [.image r.imageSlot, .entry i, .image r.imageSlot] [.nextStep x.anchor (stepInfo (releaseEvent s).st y)] := by
  intro judged y
  have hstart : Running s (Ev.of s) x r res s.pool [] [] := Running.start (e := Ev.of s) hs hf hr
  have hreleased := ((hstart.changeResult fun t => { t with plock := some (channelValue s.meas .load) }).takeReading hi
    (readingNow s .release)).changeSession (f := releasedSession s) (y' := y) (by simp only [releasedSession, hj]; rfl) rfl
  have hannounced := hreleased.announce
  have hst : (releaseEvent s).st = ((((Ev.of s).changeResult fun t =>
    { t with plock := some (channelValue s.meas .load) }).takeReading (readingNow s .release)).changeSession
      (releasedSession s)).st := announceStep_st _
  rw [← hst] at hannounced
  exact hannounced

/-- Settles O50: the checks of R133, and the event of `releaseEvent_running`. -/
theorem releaseRecordsLockOffLoad : Obligations.ReleaseRecordsLockOffLoad := by
  refine fun p pl s h => ⟨fun hs => take_refused h (releaseReply_idle (s := takeFrame s p) hs), fun x r res hs hf hr => ?_⟩
  intro failing
  have hchecks := releaseReply_checks (s := takeFrame s p) (openTest_running hs hf hr)
  refine ⟨fun c hfail => take_refused h (hchecks.refused hfail), fun i more j hpass hi hj => ?_⟩
  intro load ext
  have hrun := releaseEvent_running (s := takeFrame s p) hs hf hr hi hj
  have hbody := hchecks.accepted hpass
  rw [releaseDone_eq] at hbody
  obtain ⟨t, hexec, haccepted, hsession, hpool, hrecord, hothers, hwatch, hinfo⟩ := hrun.accepted h hbody
  refine ⟨t, hexec, ?accepted, hrecord, hothers, hwatch, congrArg Pool.reserved hpool, ?entry, hsession⟩
  case accepted =>
    rw [hsession, Option.map_some, hinfo]
    exact haccepted.congr fun i => by simp [or_comm, or_left_comm]
  case entry =>
    rw [hpool, tableGet_put, if_pos rfl]
    rfl

end Sys2Proof.Machine
end

section
/-! SUPPORT. Advance at an UNLOAD_TO: the summaries of the popped frames and the apparent free length (R124, R126, R149 to
R152, R157). -/

namespace Sys2Proof.Machine

/-! ## Several readings in a row (R117, R160) -/

/-- The result and the record after readings in the entries `is`. -/
def withReadings (res : TestResult) (is : List Nat) : TestResult := { res with readings := res.readings ++ is.map .entry }

def recordReadings (r : AnchorRec) (res : TestResult) (is : List Nat) : AnchorRec :=
  { r with reserved := r.reserved - is.length, result := some (withReadings res is) }

/-- The table of used entries after readings in the entries `is` with the contents `bs`. -/
def filledUsed (used : List (Slot PoolEntry)) (r : AnchorRec) (res : TestResult) :
    List Nat → List ReadingBody → List (Slot PoolEntry)
  | i :: is, b :: bs => filledUsed (tablePut used i (readingEntry r res b)) r (withReading res i) is bs
  | _, _ => used

/-- An entry not among those filled is as it was. -/
theorem filledUsed_other (r : AnchorRec) {m : Nat} : ∀ (is : List Nat) (bs : List ReadingBody) (used : List (Slot PoolEntry))
    (res : TestResult), m ∉ is → tableGet (filledUsed used r res is bs) m = tableGet used m := by
  intro is
  induction is with
  | nil => intro bs used res _; rw [filledUsed]; simp
  | cons i is ih =>
    intro bs used res hm
    cases bs with
    | nil => rw [filledUsed]; simp
    | cons b bs =>
      rw [filledUsed, ih bs _ _ fun h => hm (List.mem_cons_of_mem _ h), tableGet_put,
        if_neg fun h : m = i => hm (h ▸ List.mem_cons_self)]

/-- An entry filled holds its reading, with the position it has in the list. -/
theorem filledUsed_get (r : AnchorRec) : ∀ (is : List Nat) (bs : List ReadingBody) (used : List (Slot PoolEntry))
    (res : TestResult) (n m : Nat) (b : ReadingBody), is.Nodup → is[n]? = some m → bs[n]? = some b →
    tableGet (filledUsed used r res is bs) m =
      some { owner := r.id, position := res.readings.length + 1 + n, stamp := res.stamp, body := some b } := by
  intro is
  induction is with
  | nil => intro bs used res n m b _ h; simp at h
  | cons i is ih =>
    intro bs used res n m b hnodup hi hb
    obtain ⟨hnot, hrest⟩ := List.nodup_cons.1 hnodup
    cases bs with
    | nil => simp at hb
    | cons b' bs =>
      rw [filledUsed]
      cases n with
      | zero =>
        obtain rfl : i = m := by simpa using hi
        obtain rfl : b' = b := by simpa using hb
        rw [filledUsed_other r is bs _ _ hnot, tableGet_put, if_pos rfl]
        rfl
      | succ n =>
        rw [ih bs _ _ n m b hrest (by simpa using hi) (by simpa using hb)]
        have hplace : (withReading res i).readings.length + 1 + n = res.readings.length + 1 + (n + 1) := by
          simp only [withReading, List.length_append, List.length_cons, List.length_nil]
          omega
        rw [hplace]
        rfl

/-- The index that the end of a frame is read from (R124, R149). -/
def endIndex (g : StageFrame) : Nat := g.holdReadings.getLast?.getD g.arrival

/-- The end of a frame does not change with an entry of another index. -/
theorem frameEnd_put {s t : State} {i : Nat} {v : PoolEntry} {g : StageFrame} (ht : t.pool.used = tablePut s.pool.used i v)
    (h : endIndex g ≠ i) : frameEnd t g = frameEnd s g := by
  have hget : tableGet t.pool.used (endIndex g) = tableGet s.pool.used (endIndex g) := by rw [ht, tableGet_put, if_neg h]
  change entryValues t (endIndex g) = entryValues s (endIndex g)
  rw [entryValues, entryValues, hget]

/-- The contents of the summaries of popped frames. -/
def summaryBodies (s : State) : List StageFrame → Option Int → List ReadingBody
  | [], _ => []
  | g :: rest, permanent => summaryBody s g permanent :: rest.map fun q => summaryBody s q none

theorem summaryBodies_length (s : State) (frames : List StageFrame) (permanent : Option Int) :
    (summaryBodies s frames permanent).length = frames.length := by
  cases frames <;> simp [summaryBodies]

theorem summaryBodies_get (s : State) {frames : List StageFrame} (permanent : Option Int) {n : Nat} {q : StageFrame}
    (h : frames[n]? = some q) :
    (summaryBodies s frames permanent)[n]? = some (summaryBody s q (if n = 0 then permanent else none)) := by
  cases frames with
  | nil => simp at h
  | cons g rest =>
    cases n with
    | zero =>
      obtain rfl : g = q := by simpa using h
      rfl
    | succ n =>
      have : rest[n]? = some q := by simpa using h
      simp [summaryBodies, this]

section
variable {s : State} {e : Ev} {y : Session} {r : AnchorRec} {res : TestResult} {p : Pool} {items : List Item}
  {ns : List Notice}

/-- One summary, on an event in which the frame ends where it ended in the state `u`. -/
theorem Running.summaryBody (h : Running s e y r res p items ns) {u : State} (hu : stampTime s = stampTime u)
    {g : StageFrame} (hg : frameEnd e.st g = frameEnd u g) (permanent : Option Int) :
    summaryBody e.st g permanent = summaryBody u g permanent := by
  have hstamp : stampTime e.st = stampTime u := by rw [← hu, stampTime, h.clock, stampTime]
  rw [Machine.summaryBody, Machine.summaryBody, hg, hstamp]

theorem withReadings_cons (res : TestResult) (i : Nat) (is : List Nat) :
    withReadings (withReading res i) is = withReadings res (i :: is) := by
  simp [withReadings, withReading, List.append_assoc]

theorem recordReadings_cons (r : AnchorRec) (res : TestResult) (i : Nat) (is : List Nat) :
    recordReadings (recordReading r res i) (withReading res i) is = recordReadings r res (i :: is) := by
  have hcount : r.reserved - 1 - is.length = r.reserved - (i :: is).length := by rw [List.length_cons]; omega
  rw [recordReadings, withReadings_cons, recordReadings, ← hcount]
  rfl

/-- The filling does not look at the record but for its identity. -/
theorem filledUsed_congr {r r' : AnchorRec} (h : r'.id = r.id) : ∀ (is : List Nat) (bs : List ReadingBody)
    (used : List (Slot PoolEntry)) (res : TestResult), filledUsed used r' res is bs = filledUsed used r res is bs := by
  intro is
  induction is with
  | nil => intro bs used res; cases bs <;> rfl
  | cons i is ih =>
    intro bs used res
    cases bs with
    | nil => rfl
    | cons b bs =>
      rw [filledUsed, filledUsed, ih]
      simp only [readingEntry, h]

theorem withReadings_nil (res : TestResult) : withReadings res [] = res := by
  simp [withReadings]

theorem recordReadings_nil {r : AnchorRec} {res : TestResult} (h : r.result = some res) : recordReadings r res [] = r := by
  rw [recordReadings, withReadings_nil, ← h]
  rfl

/-- What readings in the entries `is` dirty. -/
def readingItems (r : AnchorRec) (is : List Nat) : List Item := is.flatMap fun i => [.entry i, .image r.imageSlot]

/-- Summaries of frames that end outside the entries to be filled, one after another. -/
theorem Running.foldSummaries {u : State} (hu : stampTime s = stampTime u) {more : List Nat} :
    ∀ (frames : List StageFrame) (is : List Nat) {e : Ev} {y : Session} {r : AnchorRec} {res : TestResult} {p : Pool}
      {items : List Item}, Running s e y r res p items ns → p.reserved = is ++ more → is.length = frames.length →
      (∀ g ∈ frames, endIndex g ∉ is ∧ frameEnd e.st g = frameEnd u g) →
      Running s (frames.foldl (fun acc g => acc.takeReading (Machine.summaryBody acc.st g none)) e)
        { y with reservation := y.reservation - is.length } (recordReadings r res is) (withReadings res is)
        { reserved := more, used := filledUsed p.used r res is (frames.map fun g => Machine.summaryBody u g none) }
        (items ++ readingItems r is) ns := by
  intro frames
  induction frames with
  | nil =>
    intro is e y r res p items h hp hlen _
    obtain rfl := List.length_eq_zero_iff.1 hlen
    rw [recordReadings_nil h.result, withReadings_nil, readingItems, List.flatMap_nil, List.append_nil]
    have hpool : p = { reserved := more, used := filledUsed p.used r res [] [] } := by rw [← show p.reserved = more from hp]; rfl
    rw [List.map_nil, ← hpool]
    exact h
  | cons g rest ih =>
    intro is e y r res p items h hp hlen hends
    obtain ⟨i, is, rfl⟩ := List.exists_cons_of_length_eq_add_one hlen
    obtain ⟨hne, hend⟩ := hends g List.mem_cons_self
    have hone := h.takeReading hp (Machine.summaryBody u g none)
    have hbody := h.summaryBody hu hend none
    rw [← hbody] at hone
    have hall := ih is hone rfl (by simpa using hlen) fun q hq => by
      obtain ⟨hqi, hqend⟩ := hends q (List.mem_cons_of_mem _ hq)
      rw [List.mem_cons, not_or] at hqi
      exact ⟨hqi.2, (frameEnd_put (by rw [hone.pool, h.pool]) hqi.1).trans hqend⟩
    rw [hbody] at hall
    have hreservation : y.reservation - 1 - is.length = y.reservation - (i :: is).length := by rw [List.length_cons]; omega
    rw [recordReadings_cons, withReadings_cons, filledUsed_congr (r' := recordReading r res i) (r := r) rfl, List.append_assoc] at hall
    dsimp only at hall
    rw [hreservation] at hall
    rw [List.foldl_cons, hbody]
    exact hall

/-- The summaries of popped frames that end outside the entries to be filled. -/
theorem Running.summaries (h : Running s e y r res p items ns) (permanent : Option Int) {u : State}
    (hu : stampTime s = stampTime u) {frames : List StageFrame} {is more : List Nat} (hp : p.reserved = is ++ more)
    (hlen : is.length = frames.length) (hends : ∀ g ∈ frames, endIndex g ∉ is ∧ frameEnd e.st g = frameEnd u g) :
    Running s (e.takeSummaries frames permanent) { y with reservation := y.reservation - is.length }
      (recordReadings r res is) (withReadings res is)
      { reserved := more, used := filledUsed p.used r res is (summaryBodies u frames permanent) }
      (items ++ readingItems r is) ns := by
  cases frames with
  | nil => exact h.foldSummaries hu [] is hp hlen hends
  | cons g rest =>
    obtain ⟨i, is, rfl⟩ := List.exists_cons_of_length_eq_add_one hlen
    obtain ⟨hne, hend⟩ := hends g List.mem_cons_self
    have hone := h.takeReading hp (Machine.summaryBody u g permanent)
    have hbody := h.summaryBody hu hend permanent
    rw [← hbody] at hone
    have hall := hone.foldSummaries hu rest is rfl (by simpa using hlen) fun q hq => by
      obtain ⟨hqi, hqend⟩ := hends q (List.mem_cons_of_mem _ hq)
      rw [List.mem_cons, not_or] at hqi
      exact ⟨hqi.2, (frameEnd_put (by rw [hone.pool, h.pool]) hqi.1).trans hqend⟩
    rw [hbody] at hall
    have hreservation : y.reservation - 1 - is.length = y.reservation - (i :: is).length := by rw [List.length_cons]; omega
    rw [recordReadings_cons, withReadings_cons, filledUsed_congr (r' := recordReading r res i) (r := r) rfl, List.append_assoc] at hall
    dsimp only at hall
    rw [hreservation] at hall
    rw [Ev.takeSummaries, hbody]
    exact hall

end

/-! ## The apparent free length (R149 to R151) -/

/-- The formula of R150, rounded half up, on a positive recovery and a positive load drop. -/
theorem roundedQuotient (ea m n : Nat) :
    clampInt 0 65535 (((ea : Int) * m + (100 * (n : Int)).tdiv 2).tdiv (100 * n)) =
      min 65535 ((ea * m + 50 * n) / (100 * n)) := by
  have hhalf : (100 * (n : Int)).tdiv 2 = ((50 * n : Nat) : Int) := by
    rw [Int.tdiv_eq_ediv_of_nonneg (by omega)]
    omega
  have hsum : (ea : Int) * m + ((50 * n : Nat) : Int) = ((ea * m + 50 * n : Nat) : Int) := by push_cast; ring
  have hden : 100 * (n : Int) = ((100 * n : Nat) : Int) := by push_cast; ring
  rw [hhalf, hsum, hden, Int.tdiv_eq_ediv_of_nonneg (by omega), ← Int.natCast_ediv, clampInt, Int.toNat_natCast]
  exact Nat.zero_max _

theorem apparentFreeLength_eq (ea : Nat) {dP : Int} (dE : Int) (h : 500 ≤ dP) :
    apparentFreeLength ea dP dE =
      if dE ≤ 0 then 0 else min 65535 ((ea * dE.toNat + 50 * dP.toNat) / (100 * dP.toNat)) := by
  unfold apparentFreeLength
  split
  · rfl
  · obtain ⟨m, rfl⟩ := Int.eq_ofNat_of_zero_le (show 0 ≤ dE by omega)
    obtain ⟨n, rfl⟩ := Int.eq_ofNat_of_zero_le (show 0 ≤ dP by omega)
    exact roundedQuotient ea m n

/-- The verdict of the evaluation (R149 to R151). -/
def freeLengthVerdict (g : Geometry) (c : Captured) (dP : Int) (formed : Nat) : Option Verdict :=
  if dP < 500 then some .failNotEvaluable
  else if formed < g.lfree * c.freeLower / 1000 then some .failFreeLengthLow
  else if g.lfree + g.lbond * c.bondShare / 1000 < formed then some .failFreeLengthHigh
  else none

/-- What the evaluation forms and how it judges. -/
theorem evaluateFreeLength_eq (g : Geometry) (c : Captured) (pPeak sPeak pRes sRes : Nat) :
    let dP : Int := (pPeak : Int) - pRes
    let dE : Int := (sPeak : Int) - sRes
    let formed := if dE ≤ 0 then 0 else min 65535 ((g.ea * dE.toNat + 50 * dP.toNat) / (100 * dP.toNat))
    evaluateFreeLength g c pPeak sPeak pRes sRes =
      { lapp := if dP < 500 then none else some formed, verdict := freeLengthVerdict g c dP formed } := by
  intro dP dE formed
  unfold evaluateFreeLength freeLengthVerdict
  by_cases h : dP < 500
  · rw [if_pos h, if_pos h, if_pos h]
  · rw [if_neg h, if_neg h, if_neg h]
    have hformed : apparentFreeLength g.ea dP dE = formed := apparentFreeLength_eq g.ea dE (by omega)
    change ({ lapp := some (apparentFreeLength g.ea dP dE), verdict := boundsVerdict g c (apparentFreeLength g.ea dP dE) } :
      Evaluated) = _
    rw [hformed]
    rfl

/-- A verdict of the evaluation is a fail verdict. -/
theorem freeLengthVerdict_fails {g : Geometry} {c : Captured} {dP : Int} {formed : Nat} {v : Verdict}
    (h : freeLengthVerdict g c dP formed = some v) : v ≠ .pass := by
  unfold freeLengthVerdict at h
  split_ifs at h <;> cases h <;> simp

section
variable {s : State} {e : Ev} {y : Session} {r : AnchorRec} {res : TestResult} {p : Pool} {items : List Item}
  {ns : List Notice}

/-- The length an evaluation forms, written into the result. -/
theorem Running.formed (h : Running s e y r res p items ns) (lapp : Option Nat) :
    ∃ items', (∀ i, i ∈ items' ↔ i ∈ items ∨ (lapp ≠ none ∧ i = .image r.imageSlot)) ∧
      Running s (match lapp with | none => e | some l => e.changeResult fun t => { t with lapp := some l }) y
        { r with result := some { res with lapp := lapp.or res.lapp } } { res with lapp := lapp.or res.lapp } p items' ns := by
  cases lapp with
  | none =>
    have hrecord : ({ r with result := some res } : AnchorRec) = r := by rw [← h.result]
    exact ⟨items, by simp, by rw [Option.none_or, hrecord]; exact h⟩
  | some l => exact ⟨_, by simp, h.changeResult _⟩

end

/-! ## An unload carried out (R124) -/

/-- An unload after its arrival reading, before it is evaluated or moves on. -/
def unloaded (e : Ev) (o : OpenTest) (f : Nat) : Ev :=
  (e.takeSummaries (poppedFrames f o.sess)
    (if evaluationRuns f o.sess then permanentDisplacement e.st o.sess else none)).changeSession fun x =>
    { x with stages := x.stages.dropWhile fun g => f < g.fraction }

theorem unload_goesOn {e : Ev} {o : OpenTest} {f : Nat} (h : evaluationRuns f o.sess = false) :
    e.unload o f = (unloaded e o f).moveOn := by
  rw [Ev.unload, unloaded, h]

theorem unload_evaluates {e : Ev} {o : OpenTest} {f : Nat} {top : StageFrame} (h : evaluationRuns f o.sess = true)
    (htop : (poppedFrames f o.sess).head? = some top) :
    e.unload o f = (unloaded e o f).evaluate (evaluationOf e.st o top) := by
  rw [Ev.unload, unloaded, h, htop]
  rfl

/-- The event of an Advance at an UNLOAD_TO, from the frame taken on, before it is evaluated or moves on. -/
def unloadedEvent (s : State) (o : OpenTest) (f : Nat) : Ev :=
  unloaded ((Ev.of s).takeReading (readingNow s .unloadArrival)) o f

section
variable {s : State} {x : Session} {r : AnchorRec} {res : TestResult} {f i : Nat} {is more : List Nat}

/-- The contents of the readings of an unload: the arrival, and the summaries. -/
def unloadBodies (s : State) (x : Session) (f : Nat) : List ReadingBody :=
  readingNow s .unloadArrival ::
    summaryBodies s (poppedFrames f x) (if evaluationRuns f x then permanentDisplacement s x else none)

/-- The session after an unload, before it is evaluated or moves on. -/
def unloadedSession (x : Session) (f : Nat) : Session :=
  { x with reservation := x.reservation - (1 + (poppedFrames f x).length)
           stages := x.stages.dropWhile fun g => f < g.fraction }

theorem unloadedEvent_running (hs : s.session = some x) (hf : findAnchor s x.anchor = some r) (hr : r.result = some res)
    (hi : s.pool.reserved = i :: is ++ more) (hlen : is.length = (poppedFrames f x).length)
    (hends : ∀ g ∈ poppedFrames f x, endIndex g ∉ i :: is) :
    Running s (unloadedEvent s { sess := x, rec_ := r, result := res } f) (unloadedSession x f)
      (recordReadings r res (i :: is)) (withReadings res (i :: is))
      { reserved := more, used := filledUsed s.pool.used r res (i :: is) (unloadBodies s x f) }
      (readingItems r (i :: is)) [] := by
  have hstart : Running s (Ev.of s) x r res s.pool [] [] := Running.start (e := Ev.of s) hs hf hr
  have hread := hstart.takeReading hi (readingNow s .unloadArrival)
  have hall := hread.summaries (if evaluationRuns f x then permanentDisplacement s x else none) (u := s) rfl
    (is := is) rfl hlen fun g hg => by
      have hg' := hends g hg
      rw [List.mem_cons, not_or] at hg'
      exact ⟨hg'.2, frameEnd_put (s := s) (by rw [hread.pool]) hg'.1⟩
  have hpermanent : permanentDisplacement ((Ev.of s).takeReading (readingNow s .unloadArrival)).st x =
      permanentDisplacement s x := by rw [permanentDisplacement, permanentDisplacement, hread.meas]
  have hreservation : x.reservation - 1 - is.length = x.reservation - (1 + (poppedFrames f x).length) := by omega
  rw [recordReadings_cons, withReadings_cons, filledUsed_congr (r' := recordReading r res i) (r := r) rfl] at hall
  dsimp only at hall
  rw [hreservation] at hall
  rw [unloadedEvent, unloaded, hpermanent]
  exact hall.changeSession rfl rfl

end

theorem mem_readingItems {r : AnchorRec} {i : Nat} {is : List Nat} {j : Item} :
    j ∈ readingItems r (i :: is) ↔ j ∈ (i :: is).map Item.entry ++ [.image r.imageSlot] := by
  simp only [readingItems, List.mem_flatMap, List.mem_cons, List.not_mem_nil, or_false, List.mem_append, List.mem_map]
  constructor
  · rintro ⟨k, hk, rfl | rfl⟩
    · exact .inl ⟨k, hk, rfl⟩
    · exact .inr rfl
  · rintro (⟨k, hk, rfl⟩ | rfl)
    · exact ⟨k, hk, .inl rfl⟩
    · exact ⟨i, .inl rfl, .inr rfl⟩

end Sys2Proof.Machine
end

section
/-! SUPPORT. An Advance at an UNLOAD_TO, whole (R124, R126, R137, R149 to R152). -/

namespace Sys2Proof.Machine

theorem verdictStage_fail {v : Verdict} (h : v ≠ .pass) : verdictStage v = .failed := if_neg h

theorem judgedResult_fail {v : Verdict} (h : v ≠ .pass) (t : TestResult) :
    judgedResult v t = { t with verdict := some v } := by
  rw [judgedResult, if_neg h]

section
variable {s : State} {e : Ev} {y : Session} {r : AnchorRec} {res : TestResult} {p : Pool} {items : List Item}
  {ns : List Notice} {q : Port} {pl : List Byte}

/-- An Advance that leaves the session open at the step it tells. -/
theorem Running.advanced (h : Running (takeFrame s q) e y r res p items [.nextStep y.anchor (stepInfo e.st y)])
    (hasked : Asked .advance q pl s) {items' : List Item} (hitems : ∀ i, i ∈ items ↔ i ∈ items') {info : ReadingInfo}
    {n : Option Nat} {v : Option Verdict}
    (hb : advanceReply (takeFrame s q) = doneWith e (.advance info (e.st.session.map (stepInfo e.st)) n v)) :
    ∃ t, exec (.advance q pl) s = .next t ∧
      Accepted .advance q (.advance info (t.session.map (stepInfo t)) n v) items' [.nextStep y.anchor (stepInfo t y)]
        [.session, .pool, .anchors] s t ∧
      t.session = some y ∧ t.pool = p ∧ findAnchor t y.anchor = some r := by
  obtain ⟨t, hexec, haccepted, hsession, hpool, hrecord, -, -, hinfo⟩ := h.accepted hasked hb
  rw [h.session, Option.map_some, ← hinfo y] at haccepted
  refine ⟨t, hexec, ?_, hsession, hpool, hrecord⟩
  rw [hsession, Option.map_some]
  exact haccepted.congr hitems

theorem Running.endWith_eq (h : Running s e y r res p items ns) (v : Verdict) :
    e.endWith v =
      ((e.mod closeSession).changeStage r
        { r with stage := verdictStage v, reserved := 0, result := some (judgedResult v res) }).raise
        (.sessionEnded r.id (.verdict v y.relocks)) := by
  rw [Ev.endWith, h.openTest]

/-- An Advance that ends the session with a fail verdict. -/
theorem Running.fails (h : Running (takeFrame s q) e y r res p items ns) (hasked : Asked .advance q pl s)
    (hz : s.sections.length = 64) (hrange : IdInRange r.id) {v : Verdict} (hv : v ≠ .pass) {info : ReadingInfo}
    {n : Option Nat}
    (hb : advanceReply (takeFrame s q) = doneWith (e.endWith v)
      (.advance info ((e.endWith v).st.session.map (stepInfo (e.endWith v).st)) n (some v))) :
    let failed : AnchorRec :=
      { r with stage := .failed, reserved := 0, result := some { res with verdict := some v } }
    ∃ t, exec (.advance q pl) s = .next t ∧
      Accepted .advance q (.advance info (t.session.map (stepInfo t)) n (some v)) (items ++ stageItems s r failed)
        (ns ++ stageNotices s t r failed ++ [.sessionEnded y.anchor (.verdict v y.relocks)])
        [.session, .pool, .anchors, .cure, .sections] s t ∧
      t.session = none ∧ t.pool = { p with reserved := [] } ∧ t.permits.jack = false ∧
      findAnchor t y.anchor = some failed := by
  intro failed
  have ha : r.id = y.anchor := findAnchor_id h.record
  have hended := h.endWith_eq v
  rw [verdictStage_fail hv, judgedResult_fail hv] at hended
  obtain ⟨-, hclosed, -⟩ := h.restage (new := failed) (f := closeSession) hz hrange (closeSession_frame _) rfl
  rw [hended] at hb
  rw [show (((e.mod closeSession).changeStage r failed).raise (.sessionEnded r.id (.verdict v y.relocks))).st.session = none
    from hclosed] at hb
  obtain ⟨t, hexec, haccepted, hmoved, hsession, hpool, hjack, -⟩ :=
    h.closes hasked hz hrange (closeSession_frame e.st) rfl (new := failed) rfl _ hb
  rw [ha] at haccepted
  have hrecord := hmoved.record
  rw [show failed.id = y.anchor from ha] at hrecord
  refine ⟨t, hexec, ?_, hsession, hpool.trans ?_, hjack, hrecord⟩
  · rw [hsession]
    exact haccepted
  · rw [closeSession, h.pool]

end

/-- The reply of an Advance at an UNLOAD_TO that passes the checks of R125. -/
theorem advanceReply_unload {s : State} {x : Session} {r : AnchorRec} {res : TestResult} {f : Nat} {nx : Option Nat}
    (hs : s.session = some x) (hf : findAnchor s x.anchor = some r) (hr : r.result = some res)
    (hphase : x.phase = .opened ∨ x.phase = .approach) (hstep : stepAt s.schedule x.step = .unloadTo f nx)
    (hjack : s.permits.jack = true) (hsound : jackFaulted s.meas = false)
    (hle : channelValue s.meas .load ≤ testLoad s x.anchor * f / 1000 +
      max (testLoad s x.anchor * f / 1000 * x.captured.reachBand / 1000) 10)
    (hge : testLoad s x.anchor * f / 1000 ≤ channelValue s.meas .load +
      max (testLoad s x.anchor * f / 1000 * x.captured.reachBand / 1000) 10) :
    let o : OpenTest := { sess := x, rec_ := r, result := res }
    let e := ((Ev.of s).takeReading (readingNow s .unloadArrival)).unload o f
    advanceReply s = doneWith e
      (.advance
        { kind := .unloadArrival, load := channelValue s.meas .load, ext := s.meas.extension, time := stampTime s }
        (e.st.session.map (stepInfo e.st)) (some (poppedFrames f x).length) (unloadVerdict s o f)) := by
  intro o e
  have hk : arrivalKind (stepAt s.schedule x.step) = some .unloadArrival := by rw [hstep]; rfl
  have hchecks := advanceOn_checks (s := s) (r := r) (res := res) hs hk
  dsimp only at hchecks
  rw [hstep] at hchecks
  have hnone := hchecks.accepted (by
    simp only [firstFailing, hsound, hjack, Bool.false_and, Bool.not_true, StepRec.kind, reduceCtorEq, decide_false,
      Option.map_eq_none_iff, List.find?_eq_none, List.mem_cons, List.not_mem_nil, or_false]
    rintro c (rfl | rfl | rfl | rfl | rfl) <;> simp
    omega)
  rw [advanceReply_step (openTest_running hs hf hr) hphase hk, hnone, advanceDone_eq]
  have hsch : ((Ev.of s).takeReading (readingNow s .unloadArrival)).st.schedule = s.schedule :=
    takeReading_frame (Ev.of s) _ .schedule (by simp)
  have hcarry : advanceEvent s o .unloadArrival = e := by
    rw [advanceEvent, Ev.carryOut, hsch]
    simp only [o, hstep]
    rfl
  have hanswer : unloadAnswer s o = (some (poppedFrames f x).length, unloadVerdict s o f) := by
    simp only [unloadAnswer, o, hstep]
  rw [hcarry, hanswer]

/-- The evaluation of an unload, on the geometry of the record. -/
theorem evaluationOf_eq {s : State} {x : Session} {r : AnchorRec} {res : TestResult} {g : Geometry}
    (hg : r.geometry = some g) (top : StageFrame) :
    let dP : Int := ((frameEnd s top).1 : Int) - channelValue s.meas .load
    let dE : Int := ((frameEnd s top).2 : Int) - s.meas.extension
    let formed := if dE ≤ 0 then 0 else min 65535 ((g.ea * dE.toNat + 50 * dP.toNat) / (100 * dP.toNat))
    evaluationOf s { sess := x, rec_ := r, result := res } top =
      { lapp := if dP < 500 then none else some formed, verdict := freeLengthVerdict g x.captured dP formed } := by
  intro dP dE formed
  rw [evaluationOf]
  simp only [hg]
  exact evaluateFreeLength_eq g x.captured _ _ _ _

/-- The arrival reading of an unload does not touch the ends that its evaluation reads. -/
theorem evaluationOf_read {s : State} {x : Session} {r : AnchorRec} {res : TestResult} {i : Nat} {more : List Nat}
    (hs : s.session = some x) (hf : findAnchor s x.anchor = some r) (hr : r.result = some res)
    (hi : s.pool.reserved = i :: more) (o : OpenTest) {top : StageFrame} (htop : endIndex top ≠ i) :
    evaluationOf ((Ev.of s).takeReading (readingNow s .unloadArrival)).st o top = evaluationOf s o top := by
  have hread := (Running.start (e := Ev.of s) hs hf hr).takeReading hi (readingNow s .unloadArrival)
  have hend : frameEnd ((Ev.of s).takeReading (readingNow s .unloadArrival)).st top = frameEnd s top :=
    frameEnd_put (by rw [hread.pool]; rfl) htop
  have hmeas : ((Ev.of s).takeReading (readingNow s .unloadArrival)).st.meas = s.meas := hread.meas
  rw [evaluationOf, evaluationOf, hend, hmeas]

/-- The entries of an unload as the pool holds them after it. -/
theorem unload_entries {s : State} {x : Session} {r : AnchorRec} {res : TestResult} {dat : DatumFrame} {f i : Nat}
    {is : List Nat} {runs : Bool} (hdat : x.datum = some dat) (hruns : evaluationRuns f x = runs)
    (hnodup : (i :: is).Nodup) :
    tableGet (filledUsed s.pool.used r res (i :: is) (unloadBodies s x f)) i =
        some { owner := r.id, position := res.readings.length + 1, stamp := res.stamp
               body := some (readingNow s .unloadArrival) } ∧
      ∀ n q m, (poppedFrames f x)[n]? = some q → (i :: is)[n + 1]? = some m →
        tableGet (filledUsed s.pool.used r res (i :: is) (unloadBodies s x f)) m =
          some { owner := r.id, position := res.readings.length + 2 + n, stamp := res.stamp
                 body := some (summaryBody s q
                   (if n = 0 ∧ runs = true then some ((s.meas.extension : Int) - dat.ext0) else none)) } := by
  have hget := filledUsed_get r (i :: is) (unloadBodies s x f) s.pool.used res
  refine ⟨hget 0 i _ hnodup rfl rfl, fun n q m hq hm => ?_⟩
  have hbody := summaryBodies_get s (if evaluationRuns f x then permanentDisplacement s x else none) hq
  have hpermanent : (if n = 0 then (if evaluationRuns f x = true then permanentDisplacement s x else none) else none) =
      if n = 0 ∧ runs = true then some ((s.meas.extension : Int) - dat.ext0) else none := by
    rw [hruns, permanentDisplacement, hdat, ite_and]
    rfl
  rw [hpermanent] at hbody
  rw [hget (n + 1) m _ hnodup hm hbody]
  have hplace : res.readings.length + 1 + (n + 1) = res.readings.length + 2 + n := by omega
  rw [hplace]

/-- An evaluation after its length is written: the session goes on, or ends with the verdict. -/
def formedEvent (e : Ev) (lapp : Option Nat) : Ev :=
  match lapp with
  | none => e
  | some l => e.changeResult fun t => { t with lapp := some l }

theorem evaluate_eq (e : Ev) (lapp : Option Nat) (verdict : Option Verdict) :
    e.evaluate { lapp := lapp, verdict := verdict } =
      match verdict with
      | none => (formedEvent e lapp).moveOn
      | some v => (formedEvent e lapp).endWith v := rfl

/-- Settles O49: the readings of the unload, and its evaluation, which goes on or ends the session. -/
theorem unloadPopsFramesAndEvaluates : Obligations.UnloadPopsFramesAndEvaluates := by
  intro p pl s x r res g f j i dat h hz hs hf hr hg hphase hstep hdat hjack hsound load ext target band popped kept taken
    hle hge htaken hhead hnodup hfree hends evaluates gone readings answer goesOn
  obtain ⟨is, his⟩ := List.head?_eq_some_iff.1 hhead
  obtain ⟨more, hmore⟩ : ∃ more, s.pool.reserved = i :: is ++ more :=
    ⟨s.pool.reserved.drop (1 + popped.length), by rw [← his]; exact (List.take_append_drop _ _).symm⟩
  have hlen : is.length = (poppedFrames f x).length := by
    rw [his, List.length_cons] at htaken
    change is.length = popped.length
    omega
  have hout : ∀ q ∈ poppedFrames f x, endIndex q ∉ i :: is := fun q hq hmem =>
    hends q hq (hfree _ (by rw [hmore]; exact List.mem_append_left _ hmem))
  have hdistinct : (i :: is).Nodup := (List.nodup_append.1 (hmore ▸ hnodup)).1
  have hrun := unloadedEvent_running (s := takeFrame s p) (f := f) hs hf hr hmore hlen hout
  have hreply := advanceReply_unload (s := takeFrame s p) hs hf hr hphase hstep hjack hsound hle hge
  dsimp only at hreply
  have hruns : evaluationRuns f x = evaluates := by
    rw [evaluationRuns, hdat]
    rfl
  obtain ⟨harrival, hsummaries⟩ := unload_entries (s := takeFrame s p) (r := r) (res := res) hdat hruns hdistinct
  have hgone : steppedOn (takeFrame s p).schedule (unloadedSession x f) = gone :=
    steppedOn_next (y := unloadedSession x f) (congrArg StepRec.next hstep)
  have htakenItems : ∀ k, k ∈ readingItems r (i :: is) ↔ k ∈ taken.map Item.entry ++ [.image r.imageSlot] := fun k => by
    rw [his]
    exact mem_readingItems
  have hcount : r.reserved - (i :: is).length = r.reserved - (1 + popped.length) := by rw [← his, htaken]
  have hreadings : withReadings res (i :: is) = { res with readings := readings } := by rw [withReadings, ← his]
  have hrecord : recordReadings r res (i :: is) =
      { r with reserved := r.reserved - (1 + popped.length), result := some { res with readings := readings } } := by
    rw [recordReadings, hcount, hreadings]
  rw [hrecord, hreadings] at hrun
  obtain ⟨used, hused⟩ : ∃ used, used = filledUsed (takeFrame s p).pool.used r res (i :: is)
      (unloadBodies (takeFrame s p) x f) := ⟨_, rfl⟩
  rw [← hused] at hrun harrival hsummaries
  have hparts : ([.session, .pool, .anchors] ++ endParts : List Part) ⊆
      [.session, .pool, .anchors, .cure, .sections] ++ endParts := by simp
  by_cases hev : evaluates = true
  case neg =>
    rw [Bool.not_eq_true] at hev
    rw [hev] at hruns
    have hmoved := hrun.moveOn
    rw [hgone, List.nil_append] at hmoved
    rw [unload_goesOn (o := { sess := x, rec_ := r, result := res }) hruns, unloadVerdict, hruns] at hreply
    obtain ⟨t, hexec, haccepted, hsession, hpool, hfound⟩ := hmoved.advanced h htakenItems hreply
    have hp : t.pool.used = used := congrArg Pool.used hpool
    rw [← hp] at harrival hsummaries
    exact ⟨t, hexec, haccepted.lines, haccepted.frame.mono hparts, harrival,
      fun n q m hq hm => hsummaries n q m hq (his ▸ hm), fun _ => ⟨haccepted, hsession, hfound⟩, fun top htrue => absurd (hev.symm.trans htrue) (by simp)⟩
  case pos =>
    rw [hev] at hruns
    obtain ⟨top, htop⟩ : ∃ top, popped.head? = some top := by
      have hany : popped.any (·.critical) = true := (Bool.and_eq_true_iff.1 hev).2
      cases hp : popped with
      | nil => simp [hp] at hany
      | cons top rest => exact ⟨top, rfl⟩
    have hmem : top ∈ poppedFrames f x := List.mem_of_head? htop
    have hread := evaluationOf_read (s := takeFrame s p) hs hf hr hmore { sess := x, rec_ := r, result := res }
      fun heq => hout top hmem (heq ▸ List.mem_cons_self)
    obtain ⟨dP, hdP⟩ : ∃ dP : Int, dP = ((frameEnd s top).1 : Int) - load := ⟨_, rfl⟩
    obtain ⟨dE, hdE⟩ : ∃ dE : Int, dE = ((frameEnd s top).2 : Int) - ext := ⟨_, rfl⟩
    obtain ⟨formed, hformed⟩ : ∃ formed : Nat,
        formed = if dE ≤ 0 then 0 else min 65535 ((g.ea * dE.toNat + 50 * dP.toNat) / (100 * dP.toNat)) := ⟨_, rfl⟩
    have heval : evaluationOf (takeFrame s p) { sess := x, rec_ := r, result := res } top =
        { lapp := if dP < 500 then none else some formed, verdict := freeLengthVerdict g x.captured dP formed } := by
      rw [hformed, hdE, hdP]
      exact evaluationOf_eq (s := takeFrame s p) hg top
    have hlapp : (if dP < 500 then none else some formed : Option Nat).or res.lapp =
        if dP < 500 then res.lapp else some formed := by split <;> rfl
    rw [unload_evaluates (o := { sess := x, rec_ := r, result := res }) hruns htop, hread, unloadVerdict, hruns, if_pos rfl,
      show (poppedFrames f x).head? = some top from htop, Option.bind_some, heval, evaluate_eq] at hreply
    obtain ⟨items, hitems, hformedRun⟩ := hrun.formed (if dP < 500 then none else some formed)
    rw [hlapp] at hformedRun
    have hallItems : ∀ k, k ∈ items ↔ k ∈ taken.map Item.entry ++ [.image r.imageSlot] := fun k => by
      rw [hitems, htakenItems, List.mem_append, List.mem_singleton]
      tauto
    have hnone : evaluates = false → False := fun hfalse => absurd (hev.symm.trans hfalse) (by simp)
    have htopOnly : ∀ top', popped.head? = some top' → top' = top := fun top' h' =>
      (Option.some.inj (htop.symm.trans h')).symm
    cases hv : freeLengthVerdict g x.captured dP formed with
    | none =>
      rw [hv] at hreply
      have hmoved := hformedRun.moveOn
      rw [hgone, List.nil_append] at hmoved
      obtain ⟨t, hexec, haccepted, hsession, hpool, hfound⟩ := hmoved.advanced h hallItems hreply
      have hp : t.pool.used = used := congrArg Pool.used hpool
      rw [← hp] at harrival hsummaries
      refine ⟨t, hexec, haccepted.lines, haccepted.frame.mono hparts, harrival,
        fun n q m hq hm => hsummaries n q m hq (his ▸ hm), fun hfalse => (hnone hfalse).elim, fun top' _ htop' => ?_⟩
      obtain rfl := htopOnly top' htop'
      intro dP' dE' formed' verdict lapp
      have hverdict : verdict = none := by
        rw [← hv, hformed, hdE, hdP]
        rfl
      have hlapp' : lapp = if dP < 500 then res.lapp else some formed := by
        rw [hformed, hdE, hdP]
      refine ⟨fun _ => ⟨haccepted, hsession, ?_⟩, fun v hsome => absurd (hverdict.symm.trans hsome) (by simp)⟩
      rw [hlapp']
      exact hfound
    | some v =>
      rw [hv] at hreply
      have hfail := freeLengthVerdict_fails hv
      have hrange : IdInRange r.id := anchor_inRange hz hf
      obtain ⟨t, hexec, haccepted, hsession, hpool, hjack, hfound⟩ := hformedRun.fails h hz.1 hrange hfail hreply
      have hp : t.pool.used = used := congrArg Pool.used hpool
      rw [← hp] at harrival hsummaries
      refine ⟨t, hexec, haccepted.lines, haccepted.frame, harrival,
        fun n q m hq hm => hsummaries n q m hq (his ▸ hm), fun hfalse => (hnone hfalse).elim, fun top' _ htop' => ?_⟩
      obtain rfl := htopOnly top' htop'
      intro dP' dE' formed' verdict lapp
      have hverdict : verdict = some v := by
        rw [← hv, hformed, hdE, hdP]
        rfl
      have hlapp' : lapp = if dP < 500 then res.lapp else some formed := by
        rw [hformed, hdE, hdP]
      refine ⟨fun hno => absurd (hverdict.symm.trans hno) (by simp), fun v' hv' => ?_⟩
      obtain rfl : v = v' := Option.some.inj (hverdict.symm.trans hv')
      intro failed
      rw [← hlapp'] at hfound haccepted
      refine ⟨hsession, congrArg Pool.reserved hpool, hjack, hfound, haccepted.congr fun k => ?_⟩
      rw [List.mem_append, hallItems, List.mem_append, List.mem_append, List.mem_singleton]
      have himage : k = .image r.imageSlot → k ∈ stageItems s r failed := fun hk => hk ▸ List.mem_cons_self
      exact ⟨fun hk => hk.elim (fun hk => hk.imp_right himage) .inr, fun hk => hk.imp_left .inl⟩

end Sys2Proof.Machine
end

section
/-! SUPPORT. The requests on the watch unit (R170 to R174): each is a change of the channels by their number, with at most
the thresholds of the configuration changed beside it. -/

namespace Sys2Proof.Machine

/-! ## Changes of the channels by their number -/

/-- The channels changed, each by its number. -/
def switchWatches (g : WatchId → WatchState → WatchState) (s : State) : State := { s with watch := s.watch.map g }

theorem PerWatch.ext_get {α : Type} {x y : PerWatch α} (h : ∀ w, x.get w = y.get w) : x = y := by
  obtain ⟨x1, x2, x3, x4⟩ := x
  obtain ⟨y1, y2, y3, y4⟩ := y
  have h1 := h .w1
  have h2 := h .w2
  have h3 := h .w3
  have h4 := h .w4
  simp only [PerWatch.get] at h1 h2 h3 h4
  rw [h1, h2, h3, h4]

theorem PerWatch.get_set {α : Type} (x : PerWatch α) (w v : WatchId) (a : α) :
    (x.set w a).get v = if v = w then a else x.get v := by
  split
  next h => rw [h, PerWatch.get_set_self]
  next h => exact PerWatch.get_set_ne x a h

theorem switchWatches_get (g : WatchId → WatchState → WatchState) (s : State) (w : WatchId) :
    (switchWatches g s).watch.get w = g w (s.watch.get w) := PerWatch.get_map g s.watch w

theorem switchWatches_frame (g : WatchId → WatchState → WatchState) (s : State) :
    OnlyChanges [.watch] s (switchWatches g s) := by
  intro x hx
  cases x <;> simp_all [SamePart, switchWatches]

theorem switchWatches_twice (g h : WatchId → WatchState → WatchState) (e : Ev) :
    (e.mod (switchWatches g)).mod (switchWatches h) = e.mod (switchWatches fun w x => h w (g w x)) := by
  have hwatch : (e.st.watch.map g).map h = e.st.watch.map fun w x => h w (g w x) :=
    PerWatch.ext_get fun w => by rw [PerWatch.get_map, PerWatch.get_map, PerWatch.get_map]
  simp only [Ev.mod, switchWatches, hwatch]

theorem switchWatches_same {g : WatchId → WatchState → WatchState} {e : Ev} (h : ∀ w, g w (e.st.watch.get w) = e.st.watch.get w) :
    e.mod (switchWatches g) = e := by
  have hwatch : e.st.watch.map g = e.st.watch := PerWatch.ext_get fun w => (PerWatch.get_map g _ w).trans (h w)
  simp only [Ev.mod, switchWatches, hwatch]

theorem changeWatch_eq (e : Ev) (w : WatchId) (f : WatchState → WatchState) :
    e.changeWatch w f = e.mod (switchWatches fun v x => if v = w then f x else x) := by
  have hwatch : e.st.watch.set w (f (e.st.watch.get w)) = e.st.watch.map fun v x => if v = w then f x else x := by
    refine PerWatch.ext_get fun v => ?_
    rw [PerWatch.get_set, PerWatch.get_map]
    split
    next h => rw [h]
    next => rfl
  simp only [Ev.changeWatch, Ev.mod, switchWatches, hwatch]

theorem changeWatch_get (e : Ev) (w : WatchId) (f : WatchState → WatchState) (v : WatchId) :
    (e.changeWatch w f).st.watch.get v = if v = w then f (e.st.watch.get v) else e.st.watch.get v := by
  rw [changeWatch_eq]
  exact switchWatches_get _ _ _

/-- Every channel of a list reset, in one step. -/
theorem resetWatches_eq (ws : List WatchId) : ∀ e : Ev,
    e.resetWatches ws = e.mod (switchWatches fun v x => if v ∈ ws then x.reset else x) := by
  induction ws with
  | nil => exact fun e => (switchWatches_same fun w => by simp).symm
  | cons w rest ih =>
    intro e
    have hone : e.resetWatches (w :: rest) = (e.changeWatch w WatchState.reset).resetWatches rest := rfl
    have hfun : (fun (v : WatchId) (x : WatchState) =>
        if v ∈ rest then (if v = w then x.reset else x).reset else if v = w then x.reset else x) =
        fun v x => if v ∈ w :: rest then x.reset else x := by
      funext v x
      by_cases hv : v = w <;> by_cases hr : v ∈ rest <;> simp [hv, hr, WatchState.reset]
    rw [hone, ih, changeWatch_eq, switchWatches_twice, hfun]

theorem armIfEnabled_eq (e : Ev) (w : Option WatchId) :
    e.armIfEnabled w = e.mod (switchWatches fun v x => if w = some v ∧ x.enabled = true then { x with armed := true } else x) := by
  cases w with
  | none => exact (switchWatches_same fun v => by simp).symm
  | some w =>
    have hfun : (fun (v : WatchId) (x : WatchState) =>
        if v = w then (if x.enabled then { x with armed := true } else x) else x) =
        fun v x => if some w = some v ∧ x.enabled = true then { x with armed := true } else x := by
      funext v x
      by_cases hv : v = w
      · simp [hv]
      · simp [hv, Ne.symm hv]
    rw [Ev.armIfEnabled, changeWatch_eq, hfun]

/-- A channel of a restarted list: without flags, and armed if it is the first and ENABLED (R168, R173, R174). -/
def restarted (ws : List WatchId) (v : WatchId) (x : WatchState) : WatchState :=
  if v ∈ ws then
    { x with armed := decide (ws.head? = some v) && x.enabled, tripped := false, count := 0, window := none, history := [] }
  else x

theorem restart_eq (e : Ev) (ws : List WatchId) :
    (e.resetWatches ws).armIfEnabled ws.head? = e.mod (switchWatches (restarted ws)) := by
  have hfun : (fun (v : WatchId) (x : WatchState) =>
      if ws.head? = some v ∧ (if v ∈ ws then x.reset else x).enabled = true then
        { (if v ∈ ws then x.reset else x) with armed := true } else (if v ∈ ws then x.reset else x)) = restarted ws := by
    funext v x
    by_cases hv : v ∈ ws
    · by_cases hh : ws.head? = some v <;> cases hx : x.enabled <;> simp [restarted, hv, hh, hx, WatchState.reset]
    · have hh : ws.head? ≠ some v := fun h => hv (List.mem_of_head? h)
      simp [restarted, hv, hh]
  rw [resetWatches_eq, armIfEnabled_eq, switchWatches_twice, hfun]

theorem restarted_rested {ws : List WatchId} {v : WatchId} (h : v ∈ ws) (x : WatchState) : Rested (restarted ws v x) := by
  rw [restarted, if_pos h]
  exact ⟨rfl, rfl⟩

/-! ## The channels at the end of an event (R164) -/

/-- A channel without count and history keeps none at the end of the event. -/
theorem commit_rested {e : Ev} {w : WatchId} (h : Rested (e.st.watch.get w)) : Rested ((commit e).watch.get w) := by
  rw [commit_watch, restWatches, PerWatch.get_map]
  split
  · exact h
  · exact ⟨rfl, rfl⟩

theorem commit_count {e : Ev} {w : WatchId} (h : (e.st.watch.get w).count = 0) : ((commit e).watch.get w).count = 0 := by
  rw [commit_watch, restWatches, PerWatch.get_map]
  split
  · exact h
  · rfl

theorem commit_flags {e : Ev} {w : WatchId} {x : WatchState} (h : e.st.watch.get w = x) :
    SameFlags ((commit e).watch.get w) x := by
  subst h
  exact commit_watchFlags e w

/-- An accepted request whose event touches the channels beside the parts listed. -/
theorem accepted_watches {k : ReqKind} {p : Port} {pl : List Byte} {s : State} {e : Ev} {d : AnswerData}
    {items : List Item} {ns : List Notice} {parts : List Part} (h : Asked k p pl s) (hd : e.dirty = items)
    (hn : e.notices = ns) (hf : OnlyChanges (.watch :: parts) (takeFrame s p) e.st) (hp : .ports ∉ parts)
    (hr : .recorder ∉ parts) (hq : .permits ∉ parts) :
    Accepted k p d items ns parts s (commit (putAnswer k.code p (doneWith e d))) := by
  obtain ⟨taken, flags, told, items, lines, frame⟩ :=
    accepted_event (d := d) h hd hn hf (by simpa using hp) (by simpa using hr) (by simpa using hq)
  exact ⟨taken, flags, told, items, lines, frame.mono (by simp)⟩

/-! ## Watch Configure and Watch Threshold (R170, R171) -/

theorem clampThreshold_range {src : WatchSource} {k : CmpKind} {t th : Threshold} : clampThreshold src k t = some th →
    th.matchesKind k = t.matchesKind k ∧
      match th with
      | .one v => (thresholdRange src k).1 ≤ v ∧ v ≤ (thresholdRange src k).2
      | .two lo hi => (thresholdRange src k).1 ≤ lo ∧ lo ≤ hi ∧ hi ≤ (thresholdRange src k).2 := by
  intro h
  have hrange : (thresholdRange src k).1 ≤ (thresholdRange src k).2 := by
    cases src <;> simp only [thresholdRange] <;> try omega
    split <;> omega
  have hclamp : ∀ v, (thresholdRange src k).1 ≤ clampSigned (thresholdRange src k).1 (thresholdRange src k).2 v ∧
      clampSigned (thresholdRange src k).1 (thresholdRange src k).2 v ≤ (thresholdRange src k).2 := fun v => by
    rw [clampSigned]
    omega
  cases t with
  | one v =>
    obtain rfl := Option.some.inj h
    exact ⟨by cases k <;> rfl, hclamp v⟩
  | two lo hi =>
    simp only [clampThreshold] at h
    split at h
    · exact absurd h (by simp)
    next hle =>
      obtain rfl := Option.some.inj h
      exact ⟨by cases k <;> rfl, (hclamp lo).1, not_lt.1 hle, (hclamp hi).2⟩

theorem configuredKind_rise {w : WatchId} {pl : List Byte} (h : configuredKind w pl = some .riseOver) : w = .w4 := by
  unfold configuredKind at h
  split at h
  · by_contra hw
    simp [hw] at h
  next hne => exact absurd h hne

theorem configuredThreshold_matches (k : CmpKind) (pl : List Byte) : (configuredThreshold k pl).matchesKind k = true := by
  cases k <;> rfl

/-- A configuration that Watch Configure accepts (R170). -/
theorem configOfPayload_some {s : State} {w : WatchId} {pl : List Byte} {c : WatchConfig}
    (h : configOfPayload s w pl = some c) :
    ∃ src k lv dr th, configuredKind w pl = some k ∧ clampThreshold src k (configuredThreshold k pl) = some th ∧
      c = { source := src, kind := k
            riseWindow := if k = .riseOver then some (clampNat 1 600 (fieldNat pl 4 2)) else none
            threshold := th, persistence := clampNat 1 255 (fieldNat pl 12 1), level := lv, drop := dr
            chainWindow := clampNat 0 3600 (fieldNat pl 14 2) } := by
  unfold configOfPayload at h
  split at h
  next src k lv dr _ hk _ _ =>
    obtain ⟨th, hth, hc⟩ := Option.map_eq_some_iff.1 h
    exact ⟨src, k, lv, dr, th, hk, hth, hc.symm⟩
  next => exact absurd h (by simp)

theorem watchConfigureReply_bad {pl : List Byte} {s : State} (h : watchOfCode (fieldNat pl 0 1) = none) :
    watchConfigureReply pl s = refuse s .badValue := by
  simp only [watchConfigureReply, h]

/-- Watch Configure on a channel that exists (R170). -/
theorem watchConfigureReply_on {pl : List Byte} {s : State} {w : WatchId} (h : watchOfCode (fieldNat pl 0 1) = some w) :
    ((s.watch.get w).enabled = true → watchConfigureReply pl s = refuse s .configLocked) ∧
      ((s.watch.get w).enabled = false → configOfPayload s w pl = none →
        watchConfigureReply pl s = refuse s .badValue) ∧
      ∀ c, (s.watch.get w).enabled = false → configOfPayload s w pl = some c →
        watchConfigureReply pl s = doneWith ((Ev.of s).configureWatch w c) (.watchConfig c) := by
  refine ⟨fun he => ?_, fun he hc => ?_, fun c he hc => ?_⟩ <;> simp [watchConfigureReply, *]

theorem watchThresholdReply_bad {pl : List Byte} {s : State} (h : watchOfCode (fieldNat pl 0 1) = none) :
    watchThresholdReply pl s = refuse s .badValue := by
  simp only [watchThresholdReply, h]

/-- Watch Threshold on a channel that exists (R171). -/
theorem watchThresholdReply_on {pl : List Byte} {s : State} {w : WatchId} (h : watchOfCode (fieldNat pl 0 1) = some w) :
    (givenThreshold (s.config.watch.get w) pl = none → watchThresholdReply pl s = refuse s .badValue) ∧
      ∀ th, givenThreshold (s.config.watch.get w) pl = some th → watchThresholdReply pl s = acceptThreshold s w th := by
  refine ⟨fun hth => ?_, fun th hth => ?_⟩ <;> simp only [watchThresholdReply, h, hth]

/-- A request that writes a channel's configuration. -/
theorem configured_accepted {k : ReqKind} {p : Port} {pl : List Byte} {s : State} {body : State → Reply} {w : WatchId}
    {c : WatchConfig} {d : AnswerData} (h : Asked k p pl s)
    (hb : body (takeFrame s p) = doneWith ((Ev.of (takeFrame s p)).configureWatch w c) d) :
    ∃ t, take k p pl body s = .next t ∧ Accepted k p d [.config] [] [.config] s t ∧
      t.config = { s.config with watch := s.config.watch.set w c } ∧ WatchFlagsSame s t :=
  ⟨_, take_done h hb, accepted_event h rfl rfl (configureWatch_frame _ w c) (by simp) (by simp) (by simp),
    (by rw [commit_config, putAnswer_config]; rfl), putAnswer_watches rfl⟩

/-- Settles O54: a configuration is clamped field by field; both requests then write one record, or one channel's staged
threshold. -/
theorem watchSettingsAreStored : Obligations.WatchSettingsAreStored := by
  refine ⟨fun s w pl c h => ?clamped, fun p pl s => ⟨fun h => ⟨fun hw => take_refused h (watchConfigureReply_bad hw),
    fun w hw => ?configure⟩, fun h => ⟨fun hw => take_refused h (watchThresholdReply_bad hw), fun w hw => ?threshold⟩⟩⟩
  case clamped =>
    obtain ⟨src, k, lv, dr, th, hk, hth, rfl⟩ := configOfPayload_some h
    obtain ⟨hmatch, hrange⟩ := clampThreshold_range hth
    refine ⟨rfl, Nat.zero_max _, fun hr => ?_, fun hr => if_neg hr, hmatch.trans (configuredThreshold_matches k pl), hrange⟩
    have hkr : k = .riseOver := hr
    subst hkr
    exact ⟨configuredKind_rise hk, rfl⟩
  case configure =>
    obtain ⟨hlocked, hbad, hdone⟩ := watchConfigureReply_on (s := takeFrame s p) hw
    exact ⟨fun he => take_refused h (hlocked he), fun he hc => take_refused h (hbad he hc),
      fun c he hc => configured_accepted h (hdone c he hc)⟩
  case threshold =>
    obtain ⟨hbad, hdone⟩ := watchThresholdReply_on (s := takeFrame s p) hw
    refine ⟨fun hth => take_refused h (hbad hth), fun th hth => ⟨fun he => ?_, fun he => ?_⟩⟩
    · have hoff : ((takeFrame s p).watch.get w).enabled = false := he
      exact configured_accepted h ((hdone th hth).trans (by rw [acceptThreshold, hoff]; rfl))
    · have hon : ((takeFrame s p).watch.get w).enabled = true := he
      obtain ⟨e, heq⟩ : ∃ e, e = (Ev.of (takeFrame s p)).changeWatch w fun x => { x with staged := some th } := ⟨_, rfl⟩
      have hget : ∀ v, e.st.watch.get v = if v = w then { s.watch.get v with staged := some th } else s.watch.get v := by
        rw [heq]
        exact changeWatch_get _ w _
      refine ⟨_, take_done h ((hdone th hth).trans (show _ = doneWith e (.threshold th true) by
          rw [acceptThreshold, hon, heq]; rfl)),
        accepted_watches h (by rw [heq]; rfl) (by rw [heq]; rfl) (by rw [heq]; exact changeWatch_frame _ _ _) (by simp)
          (by simp) (by simp), commit_flags ?_, fun v hv => commit_flags ?_⟩
      · exact (hget w).trans (if_pos rfl)
      · exact (hget v).trans (if_neg hv)

end Sys2Proof.Machine
end

section
/-! SUPPORT. Watch Enable, Watch Disable and Watch Rearm (R172 to R174). -/

namespace Sys2Proof.Machine

theorem changeWatch_congr {e : Ev} {w : WatchId} {f g : WatchState → WatchState}
    (h : f (e.st.watch.get w) = g (e.st.watch.get w)) : e.changeWatch w f = e.changeWatch w g := by
  simp only [Ev.changeWatch, Ev.mod, h]

/-! ## Staged thresholds swapped in (R173, R174) -/

/-- The event `f`, from `e`, in which the channels of a list have their staged thresholds swapped in and their latches
released. -/
structure Swapped (ws : List WatchId) (e f : Ev) : Prop where
  config : f.st.config = { e.st.config with watch := f.st.config.watch }
  thresholds : ∀ v, f.st.config.watch.get v = if v ∈ ws then swappedConfig e.st v else e.st.config.watch.get v
  channels : ∀ v, f.st.watch.get v =
    if v ∈ ws then { e.st.watch.get v with staged := none, latch := false } else e.st.watch.get v
  items : ∀ i, i ∈ f.dirty ↔ i ∈ e.dirty ∨ (i = .config ∧ ∃ v ∈ ws, (e.st.watch.get v).staged.isSome = true)
  notices : f.notices = e.notices
  frame : OnlyChanges [.watch, .config] e.st f.st

theorem Swapped.nil (e : Ev) : Swapped [] e e := by
  refine ⟨rfl, fun v => ?_, fun v => ?_, fun i => ?_, rfl, .refl _ _⟩ <;> simp

theorem releaseLatch_get (e : Ev) (w v : WatchId) :
    (e.releaseLatch w).st.watch.get v = if v = w then { e.st.watch.get v with latch := false } else e.st.watch.get v :=
  changeWatch_get e w _ v

theorem Swapped.one (e : Ev) (w : WatchId) : Swapped [w] e ((e.swapThreshold w).releaseLatch w) := by
  have hframe : OnlyChanges [.watch, .config] e.st ((e.swapThreshold w).releaseLatch w).st :=
    ((swapThreshold_frame e w).mono (by simp)).step (changeWatch_frame _ w _) (by simp)
  cases hs : (e.st.watch.get w).staged with
  | none =>
    have hswap : e.swapThreshold w = e := by rw [Ev.swapThreshold, hs]
    rw [hswap] at hframe ⊢
    refine ⟨rfl, fun v => ?_, fun v => ?_, fun i => ?_, rfl, hframe⟩
    · by_cases hv : v = w
      · subst hv
        rw [if_pos List.mem_cons_self, swappedConfig, hs]
        rfl
      · rw [if_neg (by simpa using hv)]
        rfl
    · rw [releaseLatch_get]
      by_cases hv : v = w
      · subst hv
        rw [if_pos rfl, if_pos List.mem_cons_self, ← hs]
      · rw [if_neg hv, if_neg (by simpa using hv)]
    · simp [hs, Ev.releaseLatch, Ev.changeWatch]
  | some th =>
    have hswap : e.swapThreshold w =
        (e.configureWatch w { e.st.config.watch.get w with threshold := th }).changeWatch w
          fun x => { x with staged := none } := by rw [Ev.swapThreshold, hs]
    rw [hswap] at hframe ⊢
    refine ⟨rfl, fun v => ?_, fun v => ?_, fun i => ?_, rfl, hframe⟩
    · refine (PerWatch.get_set e.st.config.watch w v _).trans ?_
      by_cases hv : v = w
      · subst hv
        rw [if_pos rfl, if_pos List.mem_cons_self, swappedConfig, hs]
      · rw [if_neg hv, if_neg (by simpa using hv)]
    · rw [releaseLatch_get, changeWatch_get, show (e.configureWatch w _).st.watch = e.st.watch from rfl]
      by_cases hv : v = w
      · subst hv
        rw [if_pos rfl, if_pos rfl, if_pos List.mem_cons_self]
      · rw [if_neg hv, if_neg hv, if_neg (by simpa using hv)]
    · simp [hs, Ev.releaseLatch, Ev.changeWatch, Ev.configureWatch]

theorem Swapped.staged {ws : List WatchId} {e f : Ev} (h : Swapped ws e f) (v : WatchId) :
    (f.st.watch.get v).staged = if v ∈ ws then none else (e.st.watch.get v).staged := by
  rw [h.channels]
  split <;> rfl

theorem Swapped.cons {w : WatchId} {ws : List WatchId} {e f g : Ev} (h : Swapped [w] e f) (k : Swapped ws f g) :
    Swapped (w :: ws) e g := by
  have hone : ∀ v, v ∈ [w] ↔ v = w := fun v => by simp
  refine ⟨by rw [k.config, h.config], fun v => ?_, fun v => ?_, fun i => ?_, k.notices.trans h.notices,
    h.frame.trans k.frame |>.mono (by simp)⟩
  · rw [k.thresholds]
    by_cases hw : v = w
    · have hswapped : swappedConfig f.st v = swappedConfig e.st v := by
        rw [swappedConfig, h.staged v, if_pos ((hone v).2 hw)]
        exact (h.thresholds v).trans (if_pos ((hone v).2 hw))
      have hthreshold := (h.thresholds v).trans (if_pos ((hone v).2 hw))
      rw [if_pos (show v ∈ w :: ws by simp [hw]), hswapped, hthreshold, ite_self]
    · have hswapped : swappedConfig f.st v = swappedConfig e.st v := by
        rw [swappedConfig, swappedConfig, h.staged v, if_neg (by simpa using hw), h.thresholds v, if_neg (by simpa using hw)]
      have hthreshold := (h.thresholds v).trans (if_neg (by simpa using hw))
      have hmem : v ∈ w :: ws ↔ v ∈ ws := by simp [hw]
      simp only [hmem, hswapped, hthreshold]
  · rw [k.channels, h.channels]
    by_cases hw : v = w <;> by_cases hv : v ∈ ws <;> simp [hw, hv]
  · rw [k.items, h.items]
    simp only [List.mem_cons, List.not_mem_nil, or_false, exists_eq_or_imp, exists_eq_left]
    constructor
    · rintro ((hi | ⟨hi, hs⟩) | ⟨hi, v, hv, hs⟩)
      · exact .inl hi
      · exact .inr ⟨hi, .inl hs⟩
      · rw [h.staged v] at hs
        split at hs
        · simp at hs
        · exact .inr ⟨hi, .inr ⟨v, hv, hs⟩⟩
    · rintro (hi | ⟨hi, hs | ⟨v, hv, hs⟩⟩)
      · exact .inl (.inl hi)
      · exact .inl (.inr ⟨hi, hs⟩)
      · by_cases hw : v = w
        · exact .inl (.inr ⟨hi, hw ▸ hs⟩)
        · exact .inr ⟨hi, v, hv, by rw [h.staged v, if_neg (by simpa using hw)]; exact hs⟩

theorem Swapped.list (ws : List WatchId) : ∀ e : Ev,
    Swapped ws e (ws.foldl (fun acc v => (acc.swapThreshold v).releaseLatch v) e) := by
  induction ws with
  | nil => exact Swapped.nil
  | cons w rest ih => exact fun e => (Swapped.one e w).cons (ih _)

/-! ## The chain (R167) -/

theorem chainCondition_complete (s : State) : decide (chainCondition s = .complete) = chainComplete s := by
  have hfinal : finalTripped s = chainComplete s := rfl
  cases hc : chainOf s with
  | nil =>
    have hcomplete : chainComplete s = false := by
      rw [← hfinal, finalTripped, hc]
      rfl
    simp [chainCondition, hc, hcomplete]
  | cons w rest =>
    unfold chainCondition
    rw [hc, hfinal]
    cases chainComplete s
    · simp only [List.isEmpty_cons, Bool.false_eq_true, if_false]
      split
      · simp
      · split <;> simp
    · simp

/-! ## Enable (R172) -/

theorem watchEnableReply_bad {pl : List Byte} {s : State} (h : watchOfCode (fieldNat pl 0 1) = none) :
    watchEnableReply pl s = refuse s .badValue := by
  simp only [watchEnableReply, h]

theorem watchDisableReply_bad {pl : List Byte} {s : State} (h : watchOfCode (fieldNat pl 0 1) = none) :
    watchDisableReply pl s = refuse s .badValue := by
  simp only [watchDisableReply, h]

theorem watchRearmReply_bad {pl : List Byte} {s : State} (h : watchOfCode (fieldNat pl 0 1) = none) :
    watchRearmReply pl s = refuse s .badValue := by
  simp only [watchRearmReply, h]

theorem sourceOutside_iff (s : State) (src : WatchSource) :
    sourceOutside s src = true ↔ ∃ n, src = .deflection n ∧ inSections s n = false := by
  cases src <;> simp [sourceOutside]

theorem armsOnEnable_eq (s : State) (w : WatchId) :
    armsOnEnable s w =
      if (chainOf s).contains w then decide ((chainOf s).head? = some w) && !chainComplete s else true := by
  rw [armsOnEnable, ← chainCondition_complete]
  cases (chainOf s).contains w <;> simp

/-- The channel as Watch Enable leaves it. -/
def enabledWatch (s : State) (w : WatchId) (x : WatchState) : WatchState :=
  if x.enabled then x else { x with enabled := true, count := 0, armed := armsOnEnable s w }

theorem watchEnableReply_on {pl : List Byte} {s : State} {w : WatchId} (h : watchOfCode (fieldNat pl 0 1) = some w)
    (hs : sourceOutside s (s.config.watch.get w).source = false) :
    watchEnableReply pl s = done ((Ev.of s).changeWatch w (enabledWatch s w)) := by
  cases he : (s.watch.get w).enabled with
  | true =>
    have hsame : (Ev.of s).changeWatch w (enabledWatch s w) = Ev.of s := by
      rw [changeWatch_eq]
      refine switchWatches_same fun v => ?_
      split
      next hv =>
        subst hv
        simp [enabledWatch, Ev.of, he]
      next => rfl
    simp [watchEnableReply, h, hs, he, hsame]
  | false =>
    have hchange : (Ev.of s).changeWatch w (enabledWatch s w) =
        (Ev.of s).changeWatch w fun x => { x with enabled := true, count := 0, armed := armsOnEnable s w } :=
      changeWatch_congr (if_neg (by simp [Ev.of, he]))
    simp [watchEnableReply, h, hs, he, hchange]

/-! ## Disable (R173) -/

/-- The channel as Watch Disable leaves it, before its chain is restarted. -/
def disabledWatch (x : WatchState) : WatchState := { x.reset with enabled := false, staged := none, latch := false }

/-- The events of a Watch Disable before the chain is restarted. -/
def clearedChannel (s : State) (w : WatchId) : Ev :=
  ((((Ev.of s).resetWatches [w]).changeWatch w fun x => { x with enabled := false }).swapThreshold w).releaseLatch w

structure Cleared (s : State) (w : WatchId) (f : Ev) : Prop where
  config : f.st.config = { s.config with watch := s.config.watch.set w (swappedConfig s w) }
  channels : ∀ v, f.st.watch.get v = if v = w then disabledWatch (s.watch.get v) else s.watch.get v
  items : ∀ i, i ∈ f.dirty ↔ i ∈ (if (s.watch.get w).staged.isSome then [.config] else [])
  notices : f.notices = []
  frame : OnlyChanges [.watch, .config] s f.st

theorem clearedChannel_cleared (s : State) (w : WatchId) : Cleared s w (clearedChannel s w) := by
  obtain ⟨e, he⟩ : ∃ e, e = ((Ev.of s).resetWatches [w]).changeWatch w fun x => { x with enabled := false } := ⟨_, rfl⟩
  have hwatch : ∀ v, e.st.watch.get v = if v = w then { (s.watch.get v).reset with enabled := false } else s.watch.get v := by
    intro v
    rw [he, changeWatch_get, resetWatches_eq, Ev.mod_st, switchWatches_get]
    by_cases hv : v = w <;> simp [hv, Ev.of]
  have hrest : e.st.config = s.config ∧ e.dirty = [] ∧ e.notices = [] := by
    rw [he, resetWatches_eq]
    exact ⟨rfl, rfl, rfl⟩
  obtain ⟨hconfig, hdirty, hnotices⟩ := hrest
  have hframe : OnlyChanges [.watch] s e.st := by
    rw [he]
    exact (resetWatches_frame (Ev.of s) [w]).step (changeWatch_frame _ w _) (by simp)
  have hstaged : (e.st.watch.get w).staged = (s.watch.get w).staged := by
    rw [hwatch, if_pos rfl]
    rfl
  have hswap : swappedConfig e.st w = swappedConfig s w := by rw [swappedConfig, swappedConfig, hstaged, hconfig]
  have h := Swapped.one e w
  rw [show (e.swapThreshold w).releaseLatch w = clearedChannel s w by rw [he]; rfl] at h
  refine ⟨?_, fun v => ?_, fun i => ?_, h.notices.trans hnotices, (hframe.trans h.frame).mono (by simp)⟩
  · have hthresholds : (clearedChannel s w).st.config.watch = s.config.watch.set w (swappedConfig s w) := by
      refine PerWatch.ext_get fun v => ?_
      rw [h.thresholds, PerWatch.get_set, hconfig]
      by_cases hv : v = w
      · rw [if_pos hv, if_pos (by simpa using hv), hv, hswap]
      · rw [if_neg hv, if_neg (by simpa using hv)]
    rw [h.config, hconfig, hthresholds]
  · rw [h.channels, hwatch]
    by_cases hv : v = w <;> simp [hv, disabledWatch]
  · rw [h.items, hdirty]
    cases hs : (s.watch.get w).staged <;> simp [hstaged, hs]

theorem disableEvent_eq (s : State) (w : WatchId) :
    disableEvent s w =
      if (chainOf s).contains w ∧ chainComplete s = false then
        (clearedChannel s w).mod (switchWatches (restarted (chainOf s)))
      else clearedChannel s w := by
  have hchain : chainOf (clearedChannel s w).st = chainOf s := by
    rw [chainOf, (clearedChannel_cleared s w).config]
    rfl
  change (clearedChannel s w).restartChain w (decide (chainCondition s = .complete)) = _
  rw [Ev.restartChain, hchain, chainCondition_complete, restart_eq]

/-- What a Watch Disable makes of every channel. -/
def afterDisable (s : State) (w v : WatchId) : WatchState :=
  let x := if v = w then disabledWatch (s.watch.get v) else s.watch.get v
  if (chainOf s).contains w ∧ chainComplete s = false then restarted (chainOf s) v x else x

theorem disableEvent_get (s : State) (w v : WatchId) : (disableEvent s w).st.watch.get v = afterDisable s w v := by
  have h := (clearedChannel_cleared s w).channels v
  rw [disableEvent_eq, afterDisable]
  split
  · rw [Ev.mod_st, switchWatches_get, h]
  · exact h

theorem disableEvent_rest (s : State) (w : WatchId) :
    (disableEvent s w).st.config = (clearedChannel s w).st.config ∧ (disableEvent s w).dirty = (clearedChannel s w).dirty ∧
      (disableEvent s w).notices = (clearedChannel s w).notices := by
  rw [disableEvent_eq]
  split <;> exact ⟨rfl, rfl, rfl⟩

theorem disableEvent_touches (s : State) (w : WatchId) : OnlyChanges [.watch, .config] s (disableEvent s w).st := by
  rw [disableEvent_eq]
  split
  · exact (clearedChannel_cleared s w).frame.step (switchWatches_frame _ _) (by simp)
  · exact (clearedChannel_cleared s w).frame

/-- The channel that is disabled, its chain restarted or not. -/
theorem afterDisable_self (s : State) (w : WatchId) : afterDisable s w w = disabledWatch (s.watch.get w) := by
  simp only [afterDisable, if_true]
  split
  next h => simp [restarted, disabledWatch, WatchState.reset]
  next => rfl

theorem afterDisable_other {s : State} {w v : WatchId} (hv : v ≠ w) :
    afterDisable s w v =
      if (chainOf s).contains w = true ∧ chainComplete s = false then restarted (chainOf s) v (s.watch.get v)
      else s.watch.get v := by
  simp only [afterDisable, hv, if_false]

/-- Settles O55: each command is one change of the channels by their number; the chain is the one that the chain mode names. -/
theorem watchChannelsAreSwitched : Obligations.WatchChannelsAreSwitched := by
  intro p pl s chain
  refine ⟨fun k hk h hw => ?bad, fun w hw => ⟨fun h => ⟨fun hout => ?outside, fun hin => ?enable⟩,
    fun h => ⟨fun hoff => ?isOff, fun hon => ?disable⟩, fun h => ?rearm⟩⟩
  case bad =>
    simp only [List.mem_cons, List.not_mem_nil, or_false] at hk
    rcases hk with rfl | rfl | rfl
    · exact take_refused h (watchEnableReply_bad hw)
    · exact take_refused h (watchDisableReply_bad hw)
    · exact take_refused h (watchRearmReply_bad hw)
  case outside =>
    refine take_refused h ?_
    have hsource : sourceOutside (takeFrame s p) ((takeFrame s p).config.watch.get w).source = true :=
      (sourceOutside_iff s _).2 hout
    simp only [watchEnableReply, hw, hsource, if_true]
  case enable =>
    intro armed switched
    have hsource : sourceOutside s (s.config.watch.get w).source = false := by
      rw [Bool.eq_false_iff, ne_eq, sourceOutside_iff]
      rintro ⟨n, hn, hout⟩
      rw [hin n hn] at hout
      exact absurd hout (by simp)
    have hbody := watchEnableReply_on (s := takeFrame s p) hw hsource
    obtain ⟨e, he⟩ : ∃ e, e = (Ev.of (takeFrame s p)).changeWatch w (enabledWatch (takeFrame s p) w) := ⟨_, rfl⟩
    have hget : ∀ v, e.st.watch.get v = if v = w then enabledWatch s w (s.watch.get v) else s.watch.get v := by
      rw [he]
      exact changeWatch_get _ w _
    rw [← he] at hbody
    refine ⟨_, take_done h hbody, accepted_watches h (by rw [he]; rfl) (by rw [he]; rfl)
      (by rw [he]; exact changeWatch_frame _ _ _) (by simp) (by simp) (by simp), ?_, fun hoff => commit_count ?_,
      fun v hv => commit_flags ((hget v).trans (if_neg hv))⟩
    · have hflags := commit_flags (e := putAnswer ReqKind.watchEnable.code p (done e)) ((hget w).trans (if_pos rfl))
      have harmed : armsOnEnable s w = armed := armsOnEnable_eq s w
      rw [enabledWatch, harmed] at hflags
      simp only [switched]
      split
      next hen => rwa [if_pos hen] at hflags
      next hen => rwa [if_neg hen] at hflags
    · refine (congrArg WatchState.count ((hget w).trans (if_pos rfl))).trans ?_
      simp [enabledWatch, hoff]
  case isOff =>
    have hbody : watchDisableReply pl (takeFrame s p) = done (Ev.of (takeFrame s p)) := by
      simp only [watchDisableReply, hw]
      exact if_neg (by simp [takeFrame, hoff])
    exact ⟨_, take_done h hbody, accepted_event h rfl rfl (.refl _ _) (by simp) (by simp) (by simp), putAnswer_watches rfl⟩
  case disable =>
    have hbody : watchDisableReply pl (takeFrame s p) = done (disableEvent (takeFrame s p) w) := by
      simp only [watchDisableReply, hw]
      exact if_pos hon
    have hcleared := clearedChannel_cleared (takeFrame s p) w
    obtain ⟨hconfig, hdirty, hnotices⟩ := disableEvent_rest (takeFrame s p) w
    have hget : ∀ v, (disableEvent (takeFrame s p) w).st.watch.get v = afterDisable s w v :=
      disableEvent_get (takeFrame s p) w
    have hframe := disableEvent_touches (takeFrame s p) w
    obtain ⟨e, he⟩ : ∃ e, e = disableEvent (takeFrame s p) w := ⟨_, rfl⟩
    rw [← he] at hbody hget hframe hconfig hdirty hnotices
    refine ⟨_, take_done h hbody, (accepted_watches h hdirty (hnotices.trans hcleared.notices) hframe (by simp) (by simp)
      (by simp)).congr hcleared.items, ?_, ?_, commit_rested ?_, fun v hcw hcv hnot => commit_rested ?_, fun v hv => ?_⟩
    · rw [commit_config, putAnswer_config]
      exact hconfig.trans hcleared.config
    · have hflags := commit_flags (e := putAnswer ReqKind.watchDisable.code p (done e))
        ((hget w).trans (afterDisable_self s w))
      exact hflags
    · refine (congrArg Rested ((hget w).trans (afterDisable_self s w))).mpr ?_
      exact ⟨rfl, rfl⟩
    · have hrestart : afterDisable s w v = restarted (chainOf s) v (if v = w then disabledWatch (s.watch.get v) else s.watch.get v) := by
        simp only [afterDisable]
        exact if_pos ⟨hcw, hnot⟩
      refine (congrArg Rested ((hget v).trans hrestart)).mpr (restarted_rested ?_ _)
      exact List.contains_iff_mem.1 hcv
    · have hflags := commit_flags (e := putAnswer ReqKind.watchDisable.code p (done e))
        ((hget v).trans (afterDisable_other hv))
      by_cases hc : (chainOf s).contains w = true ∧ chainComplete s = false
      · rw [if_pos hc] at hflags
        by_cases hcv : (chainOf s).contains v = true
        · rw [if_pos ⟨hc.1, hcv, hc.2⟩]
          rw [restarted, if_pos (List.contains_iff_mem.1 hcv)] at hflags
          exact hflags
        · rw [if_neg fun hall => hcv hall.2.1]
          rwa [restarted, if_neg fun hm => hcv (List.contains_iff_mem.2 hm)] at hflags
      · rw [if_neg hc] at hflags
        rwa [if_neg fun hall => hc ⟨hall.1, hall.2.2⟩]
  case rearm =>
    intro acted
    have hbody : watchRearmReply pl (takeFrame s p) = done (rearmEvent (takeFrame s p) w) := by
      simp only [watchRearmReply, hw]
    have hacted : rearmed (takeFrame s p) w = acted := rfl
    obtain ⟨f, hf⟩ : ∃ f, f = acted.foldl (fun acc v => (acc.swapThreshold v).releaseLatch v) (Ev.of (takeFrame s p)) := ⟨_, rfl⟩
    have hswapped : Swapped acted (Ev.of (takeFrame s p)) f := by
      rw [hf]
      exact Swapped.list acted _
    obtain ⟨g, hg⟩ : ∃ g, g = f.mod (switchWatches (restarted acted)) := ⟨_, rfl⟩
    have hevent : rearmEvent (takeFrame s p) w = g := by rw [rearmEvent, hacted, ← hf, restart_eq, hg]
    rw [hevent] at hbody
    obtain ⟨hitems, hnotices, hconfig⟩ : g.dirty = f.dirty ∧ g.notices = f.notices ∧ g.st.config = f.st.config := by
      rw [hg]
      exact ⟨rfl, rfl, rfl⟩
    have hframe : OnlyChanges [.watch, .config] (takeFrame s p) g.st := by
      rw [hg]
      exact hswapped.frame.step (switchWatches_frame _ _) (by simp)
    have hget : ∀ v, g.st.watch.get v = restarted acted v (f.st.watch.get v) := by
      rw [hg]
      exact fun v => switchWatches_get _ f.st v
    have hflags : ∀ v, SameFlags ((commit (putAnswer ReqKind.watchRearm.code p (doneWith g .none))).watch.get v)
        (restarted acted v (f.st.watch.get v)) := fun v => commit_flags (hget v)
    have hconfigured : (commit (putAnswer ReqKind.watchRearm.code p (doneWith g .none))).config = f.st.config := by
      rw [commit_config, putAnswer_config]
      exact hconfig
    refine ⟨_, take_done h hbody, (accepted_watches h hitems (hnotices.trans hswapped.notices) hframe (by simp) (by simp)
      (by simp)).congr fun i => ?_, by rw [hconfigured]; exact hswapped.config,
      fun v => ⟨fun hv => ⟨?_, commit_rested ?_, ?_⟩, fun hv => ⟨?_, ?_⟩⟩⟩
    · rw [hswapped.items]
      by_cases hany : acted.any (fun v => (s.watch.get v).staged.isSome) = true
      · rw [if_pos hany]
        simpa [Ev.of, takeFrame] using fun _ => by simpa using hany
      · rw [if_neg hany]
        simpa [Ev.of, takeFrame] using fun _ => by simpa using hany
    · rw [hconfigured]
      exact (hswapped.thresholds v).trans (if_pos hv)
    · exact (congrArg Rested (hget v)).mpr (restarted_rested hv _)
    · have hv' := hflags v
      rw [hswapped.channels, if_pos hv, restarted, if_pos hv] at hv'
      exact hv'
    · rw [hconfigured]
      exact (hswapped.thresholds v).trans (if_neg hv)
    · have hv' := hflags v
      rwa [hswapped.channels, if_neg hv, restarted, if_neg hv] at hv'

end Sys2Proof.Machine
end

section
/-! SUPPORT. The writer (R180 to R184), Restart (R186), the lapse of a chain (R168) and the second of RISE_OVER (R165). -/

namespace Sys2Proof.Machine

/-! ## The writer -/

theorem directoryJob_item (st : Store) (slots : List (Slot AnchorId)) : (directoryJob st slots).item = .directory := by
  unfold directoryJob
  split
  · split <;> rfl
  · rfl
  · rfl
  · rfl

theorem jobOf_item (s : State) (i : Item) : (jobOf s i).item = i := by
  cases i with
  | directory => exact directoryJob_item _ _
  | entry _ => rfl
  | image _ => rfl
  | sections => rfl
  | config => rfl
  | schedule => rfl
  | mark => rfl

theorem writerReady_iff (s : State) :
    writerReady s = true ↔ s.recorder.writer = .idle ∧ s.supply.warning = false ∧ s.recorder.causeDue = false := by
  simp [writerReady, and_assoc]

theorem exec_itemWriteBegin_next {s : State} {i : Item} {rest : List Item} (h : s.recorder.list = i :: rest) :
    exec .itemWriteBegin s = .next (if writerReady s then beginWrite s i else s) := by
  change execItemWriteBegin s = _
  simp only [execItemWriteBegin, h]

/-- Settles O58: each of the writer's events is one case of its definition. -/
theorem writerTakesItemsInOrder : Obligations.WriterTakesItemsInOrder := by
  refine ⟨fun s i rest hlist => ⟨fun hidle hwarning hcause => ⟨jobOf_item s i, ?begins⟩, fun hnot => ?waits⟩,
    fun s a b ha hb => ⟨fun hlt => ?first, fun hlt => ?second⟩, fun s => ⟨rfl, rfl, rfl, rfl, fun _ => rfl, fun _ => rfl⟩,
    fun st => ⟨fun n r => ⟨rfl, fun m => tableGet_put st.images n m r⟩, fun i e => ⟨rfl, fun m => tableGet_put st.entries i m e⟩,
      fun c => ⟨rfl, rfl⟩, fun c => rfl, fun c => rfl, fun c => rfl, fun c => rfl, fun n => ⟨rfl, rfl⟩⟩,
    fun s j noted hw => ?completes, fun s hw => ?marks⟩
  case begins =>
    rw [exec_itemWriteBegin_next hlist, if_pos ((writerReady_iff s).2 ⟨hidle, hwarning, hcause⟩), beginWrite, hlist]
    rfl
  case waits =>
    have hready : ¬ writerReady s = true := by
      rw [writerReady_iff]
      rintro ⟨hidle, hwarning, hcause⟩
      simp [hidle, hwarning, hcause] at hnot
    rw [exec_itemWriteBegin_next hlist, if_neg hready]
  case first =>
    change directoryJob s.store (directorySlots s) = _
    rw [directoryJob, ha, hb]
    exact if_pos hlt
  case second =>
    change directoryJob s.store (directorySlots s) = _
    rw [directoryJob, ha, hb]
    exact if_neg (by omega)
  case completes =>
    change execItemWriteComplete s = _
    rw [execItemWriteComplete, hw]
    rfl
  case marks =>
    change execWarningMarkWritten s = _
    rw [execWarningMarkWritten, if_pos hw]
    rfl

/-! ## Restart (R186) -/

theorem workActive_iff (s : State) :
    workActive s = true ↔ s.rig ≠ none ∨ s.grout.a ≠ none ∨ s.grout.b ≠ none ∨ s.session ≠ none := by
  simp [workActive, Option.isSome_iff_ne_none, or_assoc]

/-- The event of an accepted Restart. -/
def drainEvent (s : State) : Ev := if s.clock.time.isSome then (Ev.of (drain s)).dirtied .mark else Ev.of (drain s)

theorem restartReply_accepted {s : State} (h : workActive s = false) : restartReply s = done (drainEvent s) := by
  rw [restartReply, h]
  rfl

theorem drainEvent_st (s : State) : (drainEvent s).st = drain s := by
  unfold drainEvent
  split <;> rfl

theorem drainEvent_notices (s : State) : (drainEvent s).notices = [] := by
  unfold drainEvent
  split <;> rfl

theorem mem_drainEvent_dirty (s : State) (i : Item) : i ∈ (drainEvent s).dirty ↔ i = .mark ∧ s.clock.time ≠ none := by
  unfold drainEvent
  split
  next h => simp [Ev.of, Option.isSome_iff_ne_none.1 h]
  next h => simp [Ev.of, show s.clock.time = none by simpa using h]

theorem drain_frame (s : State) : OnlyChanges [.ports, .recorder] s (drain s) := by
  intro x hx
  cases x <;> simp_all [SamePart, drain]

theorem drained_iff (s : State) :
    drained s = true ↔ s.recorder.draining = true ∧ s.recorder.list = [] ∧ s.recorder.writer = .idle ∧
      ∀ q, (s.ports.get q).inHand = none := by
  have hsent : answersSent s = true ↔ ∀ q, (s.ports.get q).inHand = none := by
    simp only [answersSent, List.all_eq_true, Option.isNone_iff_eq_none]
    exact ⟨fun h q => h q (by cases q <;> simp [allPorts]), fun h q _ => h q⟩
  simp [drained, hsent, and_assoc, List.isEmpty_iff]

/-- What a reset makes of the recorder, the clock and the ports. -/
theorem resetAs_parts (k : ResetKind) (s : State) :
    (resetAs k s).recorder.cause.kind = k ∧ (resetAs k s).recorder.causeDue = true ∧
      (resetAs k s).recorder.draining = false ∧ (resetAs k s).clock.time = none ∧
      ∀ q, (resetAs k s).ports.get q = PortState.afterReset := by
  obtain ⟨-, -, -, -, -, -, hcause, hdue, -, hdraining⟩ :=
    joinItems_dirties (afterScan s (scanStore (tornStore s)) k) (scanStore (tornStore s)).items
  refine ⟨congrArg CauseRecord.kind hcause, hdue, hdraining, congrArg ClockState.time (joinItems_clock _ _), fun q => ?_⟩
  rw [resetAs, joinItems_ports]
  cases q <;> rfl

/-- Settles O59: an accepted Restart changes the ports' taking and the drain alone; the reset waits for `drained`. -/
theorem restartDrainsThenResets : Obligations.RestartDrainsThenResets := by
  refine ⟨fun p pl s h => ⟨fun hactive => ?refused, fun hrig ha hb hsession => ?accepted⟩, fun s => ?_⟩
  case refused =>
    refine take_refused h ?_
    rw [restartReply, if_pos ((workActive_iff (takeFrame s p)).2 hactive)]
  case accepted =>
    have hidle : workActive (takeFrame s p) = false := by
      rw [Bool.eq_false_iff, ne_eq, workActive_iff]
      simp [takeFrame, hrig, ha, hb, hsession]
    obtain ⟨g, hg⟩ : ∃ g, g = drainEvent (takeFrame s p) := ⟨_, rfl⟩
    have hst : g.st = drain (takeFrame s p) := by rw [hg, drainEvent_st]
    have hnotices : g.notices = [] := by rw [hg, drainEvent_notices]
    have hdirty : ∀ i, i ∈ g.dirty ↔ i = .mark ∧ s.clock.time ≠ none := by
      rw [hg]
      exact mem_drainEvent_dirty (takeFrame s p)
    have hbody : restartReply (takeFrame s p) = doneWith g .none := by
      rw [restartReply_accepted hidle, ← hg]
      rfl
    obtain ⟨e, he⟩ : ∃ e, e = putAnswer ReqKind.restart.code p (doneWith g .none) := ⟨_, rfl⟩
    have hports : ∀ q, e.st.ports.get q =
        { tookRequest p [.single ReqKind.restart.code .done .none] s q with taking := false } := by
      intro q
      have hdrained : (doneWith g .none).ev.st.ports.get q = { (takeFrame s p).ports.get q with taking := false } := by
        rw [show (doneWith g .none).ev.st = drain (takeFrame s p) from hst, drain]
        exact PerPort.get_map _ _ q
      rw [he, putAnswer_get, hdrained, takeFrame_get, tookRequest]
      by_cases hq : q = p
      · subst hq
        simp only [if_true]
        rfl
      · simp only [hq, if_false]
    have hrecorder : e.st.recorder = { s.recorder with draining := true } := by
      rw [he, putAnswer_recorder]
      exact congrArg State.recorder hst
    have hframe : OnlyChanges [.ports, .recorder] s e.st := by
      refine (takeFrame_frame s p).mono (by simp) |>.step (?_ : OnlyChanges [.ports, .recorder] _ _) (by simp)
      refine (hst ▸ drain_frame (takeFrame s p) : OnlyChanges [.ports, .recorder] (takeFrame s p) g.st).step
        (qs := [.ports]) (fun x hx => ?_) (by simp)
      rw [he]
      cases x <;> simp_all [SamePart, putAnswer, doneWith]
    have htold := commit_told e s (hframe .permits (by simp))
    have hbase : (fun q => e.st.ports.get q) =
        fun q => { tookRequest p [.single ReqKind.restart.code .done .none] s q with taking := false } := funext hports
    have hnone : e.notices = [] := by rw [he]; exact hnotices
    rw [hbase, hnone] at htold
    obtain ⟨hawaits, hprefix, hlist, -, -, -, -, -, -, hdraining⟩ := commit_dirties e
    have hdirtied : ∀ i, i ∈ e.dirty ↔ i = .mark ∧ s.clock.time ≠ none := by rw [he]; exact hdirty
    have hexec : exec (.restart p pl) s = .next (commit e) := by
      rw [he]
      exact take_done h hbody
    have hself := hports p
    rw [tookRequest, if_pos rfl] at hself
    have hother : ∀ q, (e.st.ports.get q).taking = false ∧ (e.st.ports.get q).link = (s.ports.get q).link ∧
        (e.st.ports.get q).flags = (s.ports.get q).flags := by
      intro q
      rw [hports, tookRequest]
      split
      next hq => exact ⟨rfl, by rw [hq], by rw [hq]⟩
      next => exact ⟨rfl, rfl, rfl⟩
    refine ⟨commit e, hexec, ?_, ?_, fun q => ?_, ?_, ?_, htold, fun hclock => hawaits _ ((hdirtied _).2 ⟨rfl, hclock⟩),
      fun i hi => ?_, commit_exact e, ?_, (commit_frame e s _ hframe).mono (by simp)⟩
    · obtain ⟨ns, hns⟩ := commit_ports e
      obtain ⟨⟨hlink, -⟩, -, hslot, hsending⟩ := offerAll_keeps p ns (e.st.ports.get p)
      rw [hns p]
      refine pump_answers _ _ _ _ [] rfl (hlink.trans ((hother p).2.1.trans (canTake_link h.1))) ?_ ?_
      · rw [hslot, hself]
      · rw [hsending, hself]
    · rw [(commit_keeps e p).1.2.2.1, hself]
    · obtain ⟨⟨hlink, -, -, htaking⟩, hflags⟩ := commit_keeps e q
      obtain ⟨hoff, hsame, hkept⟩ := hother q
      refine ⟨htaking.trans hoff, hlink.trans hsame, ?_⟩
      rw [FlagsKept, hkept] at hflags
      exact hflags
    · rw [hdraining, hrecorder]
    · rwa [hrecorder] at hprefix
    · have hin := hlist i hi
      rwa [hrecorder, hdirtied] at hin
    · have hflags := commit_watchFlags e
      have hwatch : e.st.watch = s.watch := hframe .watch (by simp)
      unfold WatchFlagsSame at hflags ⊢
      rwa [hwatch] at hflags
  · intro due
    have hexec : exec .restartReset s = .next (if drained s then resetAs .restart s else s) := rfl
    refine ⟨fun hdue => ⟨_, by rw [hexec, if_pos ((drained_iff s).2 hdue)], resetAs_parts .restart s⟩, fun hnot => ?_⟩
    rw [hexec, if_neg fun hdrained => hnot ((drained_iff s).1 hdrained)]

end Sys2Proof.Machine
end

section
/-! SUPPORT. Trips (R166, R168, R169), the lapse of a chain (R168) and the second of RISE_OVER (R165). -/

namespace Sys2Proof.Machine

/-! ## Section records through a write of one of them -/

theorem sectionRec_changeSection (e : Ev) (n : Nat) (f : SectionData → SectionData) (k : Nat) :
    sectionRec (e.changeSection n f).st k =
      if k - 1 = n - 1 ∧ n - 1 < e.st.sections.length then
        { sectionRec e.st k with data := f (sectionRec e.st k).data }
      else sectionRec e.st k := by
  change (e.st.sections.set (n - 1) { sectionRec e.st n with data := f (sectionRec e.st n).data }).getD (k - 1) SectionRec.default = _
  rw [List.getD_eq_getElem?_getD, List.getElem?_set]
  by_cases hk : n - 1 = k - 1
  · have hrec : sectionRec e.st k = sectionRec e.st n := by rw [sectionRec, sectionRec, hk]
    by_cases hl : n - 1 < e.st.sections.length
    · rw [if_pos hk, if_pos hl, if_pos ⟨hk.symm, hl⟩, hrec, Option.getD_some]
    · rw [if_pos hk, if_neg hl, if_neg fun h => hl h.2, sectionRec, List.getD_eq_getElem?_getD, ← hk,
        List.getElem?_eq_none (by omega)]
  · rw [if_neg hk, if_neg fun h => hk h.1.symm, sectionRec, List.getD_eq_getElem?_getD]

/-- The records of the sections through changes of their hold records alone. -/
structure HoldsOnly (a b : State) : Prop where
  size : b.sections.length = a.sections.length
  records : ∀ n, sectionRec b n =
    { sectionRec a n with data := { (sectionRec a n).data with holds := (sectionRec b n).data.holds } }

theorem HoldsOnly.of_same {a b : State} (h : b.sections = a.sections) : HoldsOnly a b :=
  ⟨by rw [h], fun n => by rw [show sectionRec b n = sectionRec a n by rw [sectionRec, h, sectionRec]]⟩

theorem HoldsOnly.trans {a b c : State} (h : HoldsOnly a b) (k : HoldsOnly b c) : HoldsOnly a c := by
  refine ⟨k.size.trans h.size, fun n => ?_⟩
  have hk := k.records n
  rw [h.records n] at hk
  exact hk

/-- The hold records of a source are the same in every section. -/
def HoldsOfSame (src : HoldSource) (a b : State) : Prop :=
  ∀ n, ((sectionRec b n).data.holds.filter fun h => h.source = src) =
    (sectionRec a n).data.holds.filter fun h => h.source = src

theorem HoldsOfSame.of_same {src : HoldSource} {a b : State} (h : b.sections = a.sections) : HoldsOfSame src a b :=
  fun n => by rw [show sectionRec b n = sectionRec a n by rw [sectionRec, h, sectionRec]]

theorem HoldsOfSame.trans {src : HoldSource} {a b c : State} (h : HoldsOfSame src a b) (k : HoldsOfSame src b c) :
    HoldsOfSame src a c := fun n => (k n).trans (h n)

theorem changeSection_holdsOfSame (e : Ev) (n : Nat) (f : SectionData → SectionData) {src : HoldSource}
    (hf : ∀ d, ((f d).holds.filter fun h => h.source = src) = d.holds.filter fun h => h.source = src) :
    HoldsOfSame src e.st (e.changeSection n f).st := fun k => by
  rw [sectionRec_changeSection]
  split
  · exact hf _
  · rfl

theorem writeHold_holdsOnly (e : Ev) (n : Nat) (src : HoldSource) (lv : HoldLevel) (reason : Option Nat) :
    HoldsOnly e.st (e.writeHold n src lv reason).st := by
  have hrec := sectionRec_changeSection e n fun d => { d with holds := putHold d.holds (heldAt e.st src lv reason) }
  refine ⟨changeSection_len e n fun d => { d with holds := putHold d.holds (heldAt e.st src lv reason) }, fun k => ?_⟩
  refine (hrec k).trans ?_
  rw [show sectionRec (e.writeHold n src lv reason).st k = _ from hrec k]
  split <;> rfl

theorem writeHold_holdsOfSame (e : Ev) (n : Nat) {src other : HoldSource} (lv : HoldLevel) (reason : Option Nat)
    (h : src ≠ other) : HoldsOfSame other e.st (e.writeHold n src lv reason).st :=
  changeSection_holdsOfSame e n (fun d => { d with holds := putHold d.holds (heldAt e.st src lv reason) }) fun d =>
    putHold_other d.holds _ fun x hx => by simp [hx, heldAt, h]

/-! ## What a trip does (R168, R169) -/

theorem actionHold_holdsOnly (e : Ev) (w : WatchId) (n : Option Nat) : HoldsOnly e.st (e.actionHold w n).st := by
  unfold Ev.actionHold
  split
  · exact writeHold_holdsOnly e _ _ _ _
  · exact .of_same rfl

theorem watchHoldSource_inj {v w : WatchId} (h : v ≠ w) : watchHoldSource v ≠ watchHoldSource w := by
  cases v <;> cases w <;> simp_all [watchHoldSource]

theorem actionHold_holdsOfSame (e : Ev) {v w : WatchId} (n : Option Nat) (h : v ≠ w) :
    HoldsOfSame (watchHoldSource w) e.st (e.actionHold v n).st := by
  unfold Ev.actionHold
  split
  · exact writeHold_holdsOfSame e _ _ _ (watchHoldSource_inj h)
  · exact .of_same rfl

theorem actionHold_watch (e : Ev) (w : WatchId) (n : Option Nat) : (e.actionHold w n).st.watch = e.st.watch := by
  unfold Ev.actionHold
  split <;> rfl

/-- A channel through what other channels do: its state and its hold records stand. -/
structure Bystander (m : WatchId) (a b : State) : Prop where
  channel : b.watch.get m = a.watch.get m
  holds : HoldsOfSame (watchHoldSource m) a b

theorem Bystander.refl (m : WatchId) (a : State) : Bystander m a a := ⟨rfl, fun _ => rfl⟩

theorem Bystander.trans {m : WatchId} {a b c : State} (h : Bystander m a b) (k : Bystander m b c) : Bystander m a c :=
  ⟨k.channel.trans h.channel, h.holds.trans k.holds⟩

theorem changeWatch_bystander (e : Ev) {m w : WatchId} (f : WatchState → WatchState) (h : m ≠ w) :
    Bystander m e.st (e.changeWatch w f).st :=
  ⟨PerWatch.get_set_ne _ _ h, .of_same rfl⟩

/-- The events of an action trip before its notice. -/
def actedEvent (e : Ev) (w : WatchId) : Ev :=
  ((e.changeWatch w WatchState.trip).actionHold w (relatedSection e.st (e.st.config.watch.get w).source)).changeWatch w
    fun x => { x with latch := x.latch || (e.st.config.watch.get w).drop.isSome }

theorem actionTrip_eq (e : Ev) (w : WatchId) (v : Int) :
    e.actionTrip w v = (actedEvent e w).raise
      (.watchTripped w true (e.st.config.watch.get w).source v
        (heldSection (e.st.config.watch.get w) (relatedSection e.st (e.st.config.watch.get w).source))
        (e.st.config.watch.get w).level (e.st.config.watch.get w).drop) := rfl

theorem actedEvent_holdsOnly (e : Ev) (w : WatchId) : HoldsOnly e.st (actedEvent e w).st := by
  have htripped : HoldsOnly e.st (e.changeWatch w WatchState.trip).st := .of_same rfl
  have hheld := actionHold_holdsOnly (e.changeWatch w WatchState.trip) w
    (relatedSection e.st (e.st.config.watch.get w).source)
  exact (htripped.trans hheld).trans (.of_same rfl)

theorem actedEvent_bystander (e : Ev) {m w : WatchId} (h : m ≠ w) : Bystander m e.st (actedEvent e w).st := by
  refine ((changeWatch_bystander e WatchState.trip h).trans ⟨?_, ?_⟩).trans (changeWatch_bystander _ _ h)
  · rw [actionHold_watch]
  · exact actionHold_holdsOfSame _ _ h.symm

theorem actedEvent_channel (e : Ev) (w : WatchId) :
    (actedEvent e w).st.watch.get w =
      { (e.st.watch.get w).trip with
        latch := (e.st.watch.get w).latch || (e.st.config.watch.get w).drop.isSome } := by
  rw [actedEvent, changeWatch_get, if_pos rfl, actionHold_watch, changeWatch_get, if_pos rfl]
  rfl

/-- The events of a step trip before its notice. -/
def steppedEvent (e : Ev) (w next : WatchId) : Ev :=
  (e.changeWatch w WatchState.trip).changeWatch next fun x => x.armAs (e.st.config.watch.get next).chainWindow

theorem steppedEvent_bystander (e : Ev) {m w next : WatchId} (hw : m ≠ w) (hn : m ≠ next) :
    Bystander m e.st (steppedEvent e w next).st :=
  (changeWatch_bystander e _ hw).trans (changeWatch_bystander _ _ hn)

theorem steppedEvent_sections (e : Ev) (w next : WatchId) : (steppedEvent e w next).st.sections = e.st.sections := rfl

theorem steppedEvent_channel (e : Ev) {w next : WatchId} (h : next ≠ w) :
    (steppedEvent e w next).st.watch.get w = (e.st.watch.get w).trip ∧
      (steppedEvent e w next).st.watch.get next =
        (e.st.watch.get next).armAs (e.st.config.watch.get next).chainWindow := by
  rw [steppedEvent]
  refine ⟨?_, ?_⟩
  · rw [changeWatch_get, if_neg (Ne.symm h), changeWatch_get, if_pos rfl]
  · rw [changeWatch_get, if_pos rfl, changeWatch_get, if_neg h]

/-! ## What an evaluation does to the tables and to the other channels (R166) -/

theorem tripWatch_holdsOnly (e : Ev) (w : WatchId) (v : Int) : HoldsOnly e.st (e.tripWatch w v).st := by
  unfold Ev.tripWatch
  split
  · exact .of_same rfl
  · exact actedEvent_holdsOnly e w

theorem tripWatch_bystander (e : Ev) {m w : WatchId} (v : Int) (hw : m ≠ w) (hn : watchSuccessor e.st w ≠ some m) :
    Bystander m e.st (e.tripWatch w v).st := by
  unfold Ev.tripWatch
  split
  next next hnext => exact steppedEvent_bystander e hw fun h => hn (h ▸ hnext)
  next => exact actedEvent_bystander e hw

theorem countWatch_holdsOnly (e : Ev) (w : WatchId) (b : Bool) (v : Int) : HoldsOnly e.st (e.countWatch w b v).st := by
  unfold Ev.countWatch
  split
  · split
    · exact tripWatch_holdsOnly e w v
    · exact .of_same rfl
  · exact .of_same rfl

theorem countWatch_bystander (e : Ev) {m w : WatchId} (b : Bool) (v : Int) (hw : m ≠ w)
    (hn : watchSuccessor e.st w ≠ some m) : Bystander m e.st (e.countWatch w b v).st := by
  unfold Ev.countWatch
  split
  · split
    · exact tripWatch_bystander e v hw hn
    · exact changeWatch_bystander e _ hw
  · exact changeWatch_bystander e _ hw

theorem evaluateWatch_holdsOnly (e : Ev) (w : WatchId) : HoldsOnly e.st (e.evaluateWatch w).st := by
  unfold Ev.evaluateWatch
  dsimp only
  split
  · exact .of_same rfl
  · exact countWatch_holdsOnly e w _ _

theorem evaluateWatch_bystander (e : Ev) {m w : WatchId} (hw : m ≠ w) (hn : watchSuccessor e.st w ≠ some m) :
    Bystander m e.st (e.evaluateWatch w).st := by
  unfold Ev.evaluateWatch
  dsimp only
  split
  · exact .refl m e.st
  · exact countWatch_bystander e _ _ hw hn

/-- A full count trips (R166). -/
theorem countWatch_trips {e : Ev} {w : WatchId} {v : Int}
    (h : (e.st.config.watch.get w).persistence ≤ (e.st.watch.get w).count + 1) :
    e.countWatch w true v = e.tripWatch w v := by
  rw [Ev.countWatch, if_pos rfl, if_pos h]

theorem tripWatch_action {e : Ev} {w : WatchId} (v : Int) (h : watchSuccessor e.st w = none) :
    e.tripWatch w v = e.actionTrip w v := by
  rw [Ev.tripWatch, h]

theorem tripWatch_step {e : Ev} {w next : WatchId} (v : Int) (h : watchSuccessor e.st w = some next) :
    e.tripWatch w v = e.stepTrip w next v := by
  rw [Ev.tripWatch, h]

/-! ## The lapse of a chain (R168) -/

theorem windowRunOut_iff (s : State) :
    windowRunOut s = true ↔
      ∃ w ∈ chainMembers s.config.params.chainMode, (s.watch.get w).armed = true ∧ (s.watch.get w).window = some 0 := by
  simp [windowRunOut, chainOf]

/-! ## The second of RISE_OVER (R165) -/

theorem watchSuccessor_w4 (s : State) : watchSuccessor s .w4 = none := by
  unfold watchSuccessor chainOf chainMembers
  split <;> rfl

theorem joinSnapshot_last {win : Nat} {old : List Int} {v : Int} : (joinSnapshot win old v).getLastD 0 = v := by
  rw [joinSnapshot, List.drop_append_of_le_length (by omega), List.getLastD_concat]

theorem risingWatches_w4 {s : State} (h4 : (s.config.watch.get .w4).kind = .riseOver)
    (hother : ∀ w, w ≠ .w4 → (s.config.watch.get w).kind ≠ .riseOver) (he : evaluating s .w4 = true) :
    risingWatches s = [.w4] := by
  simp [risingWatches, allWatches, h4, he, hother .w1 (by simp), hother .w2 (by simp), hother .w3 (by simp)]

/-- A channel that goes on evaluating keeps its state at the end of the event. -/
theorem commit_channel {e : Ev} {w : WatchId} (h : evaluating e.st w = true) :
    (commit e).watch.get w = e.st.watch.get w := by
  rw [commit_watch, restWatches, PerWatch.get_map, if_pos h]

/-- The state whose second of RISE_OVER is used up. -/
def risingSecond (s : State) : State := { s with time := { s.time with riseDue := s.time.riseDue - 1 } }

/-- The event of the second, where W4 is the channel that rises. -/
theorem riseEvent_w4 {s : State} (hdue : s.time.riseDue ≠ 0) (h4 : (s.config.watch.get .w4).kind = .riseOver)
    (hother : ∀ w, w ≠ .w4 → (s.config.watch.get w).kind ≠ .riseOver) (he : evaluating s .w4 = true) :
    riseEvent s = some ((Ev.of (risingSecond s)).evaluateRise .w4) := by
  rw [riseEvent, if_neg hdue, risingWatches_w4 h4 hother he]
  rfl

/-- Settles O57: a lapse restarts the chain; a RISE_OVER channel counts the comparison of its joined history, and W4, which
has no successor, trips with an action. -/
theorem chainsLapseAndRisesAreCounted : Obligations.ChainsLapseAndRisesAreCounted := by
  refine ⟨fun s => ?_, fun s win x v hdue h4 hother hwin hx he hv => ?_⟩
  · intro chain
    have hexec : exec .chainLapse s = occurs (chainLapseEvent s) s := rfl
    refine ⟨fun hout => ?_, fun hin => ?_⟩
    · obtain ⟨e, hevent⟩ : ∃ e, e = (Ev.of s).mod (switchWatches (restarted chain)) := ⟨_, rfl⟩
      have hlapse : chainLapseEvent s = some e := by
        rw [chainLapseEvent, if_pos ((windowRunOut_iff s).2 hout), restart_eq, hevent]
        rfl
      have hget : ∀ v, e.st.watch.get v = restarted chain v (s.watch.get v) := by
        rw [hevent]
        exact fun v => switchWatches_get _ s v
      have hframe : OnlyChanges [.watch] s e.st := by
        rw [hevent]
        exact switchWatches_frame _ s
      obtain ⟨ports, told, items, lines, frame⟩ := occurred_commit (s := s) (e := e) (items := []) (by rw [hevent]; rfl)
        (hframe .ports (by simp)) (hframe .recorder (by simp)) (hframe .permits (by simp)) hframe
      have hnone : e.notices = [] := by rw [hevent]; rfl
      rw [hnone] at told
      refine ⟨commit e, by rw [hexec, hlapse]; rfl, ⟨ports, told, items, lines, frame.mono (by simp)⟩,
        fun v hmem => commit_rested ?_, fun v => ?_⟩
      · rw [hget]
        exact restarted_rested hmem _
      · have hflags := commit_flags (e := e) (hget v)
        by_cases hmem : v ∈ chain
        · rw [restarted, if_pos hmem] at hflags
          rw [if_pos (List.contains_iff_mem.2 hmem)]
          exact hflags
        · rw [restarted, if_neg hmem] at hflags
          rwa [if_neg fun h => hmem (List.contains_iff_mem.1 h)]
    · have hnone : chainLapseEvent s = none := by
        rw [chainLapseEvent, if_neg]
        rw [windowRunOut_iff]
        rintro ⟨w, hw, harmed, hzero⟩
        rcases hin w hw with h | h
        · rw [h] at harmed
          exact absurd harmed (by simp)
        · exact h hzero
      rw [hexec, hnone]
      rfl
  · intro old history holds count
    obtain ⟨u, hu⟩ : ∃ u, u = risingSecond s := ⟨_, rfl⟩
    have hrise := riseEvent_w4 hdue h4 hother he
    rw [← hu] at hrise
    have hwatch : u.watch = s.watch := by rw [hu]; rfl
    have hconfig : u.config = s.config := by rw [hu]; rfl
    have hvalue : sourceValue u (u.config.watch.get .w4).source = some v := by rw [hu]; exact hv
    have hholds : riseHolds win (.one x) history = holds := by
      have hlast : history.getLastD 0 = v := joinSnapshot_last
      rw [riseHolds, hlast]
      exact (Bool.decide_and _ _).symm
    obtain ⟨e1, he1⟩ : ∃ e1, e1 = (Ev.of u).changeWatch .w4 fun y => { y with history := history } := ⟨_, rfl⟩
    have hevaluated : (Ev.of u).evaluateRise .w4 = e1.countWatch .w4 holds v := by
      simp only [Ev.evaluateRise, Ev.of, hvalue]
      rw [he1, ← hholds]
      simp only [hconfig, hwatch, hwin, hx, Option.getD_some]
      rfl
    have he1st : ∀ w, e1.st.watch.get w = if w = .w4 then { s.watch.get w with history := history } else s.watch.get w := by
      intro w
      rw [he1, changeWatch_get]
      simp only [Ev.of, hwatch]
    have he1cfg : e1.st.config = s.config := by rw [he1]; exact hconfig
    rw [hevaluated] at hrise
    have hexec : exec .riseOverEvaluation s = .next (commit (e1.countWatch .w4 holds v)) := congrArg (occurs · s) hrise
    have hframe := riseEvent_frame s _ hrise
    have htime : (e1.countWatch .w4 holds v).st.time = u.time := by
      have hcount := countWatch_frame e1 .w4 holds v .time (by simp)
      rw [he1] at hcount ⊢
      exact hcount
    refine ⟨_, hexec, ?_, commit_exact _, (commit_frame _ s _ hframe).mono (by simp), fun hlow => ?_, fun hh hfull => ?_⟩
    · rw [commit_time, htime, hu]
      rfl
    · have hcounted : e1.countWatch .w4 holds v = e1.changeWatch .w4 fun y => { y with count := count } := by
        have hcount : (e1.st.watch.get .w4).count = (s.watch.get .w4).count := by rw [he1st]; rfl
        rw [Ev.countWatch]
        cases hb : holds with
        | false =>
          have hzero : count = 0 := by simp only [count, hb]; rfl
          rw [hzero]
          rfl
        | true =>
          have hone : count = (s.watch.get .w4).count + 1 := by simp only [count, hb]; rfl
          rw [if_pos rfl, if_neg (by rw [he1cfg, hcount]; omega), hone]
          refine changeWatch_congr ?_
          rw [hcount]
      obtain ⟨f, hf⟩ : ∃ f, f = e1.countWatch .w4 holds v := ⟨_, rfl⟩
      have hget : ∀ w, f.st.watch.get w =
          if w = .w4 then { s.watch.get w with history := history, count := count } else s.watch.get w := by
        intro w
        rw [hf, hcounted, changeWatch_get, he1st]
        split <;> rfl
      have hstill : evaluating f.st .w4 = true := by
        have hparts : f.st.config = s.config ∧ f.st.meas = s.meas ∧ f.st.session = s.session ∧ f.st.grout = s.grout ∧
            f.st.rig = s.rig := by
          rw [hf]
          exact ⟨hframe .config (by simp), hframe .meas (by simp), hframe .session (by simp), hframe .grout (by simp),
            hframe .rig (by simp)⟩
        obtain ⟨h1, h2, h3, h5, h6⟩ := hparts
        have hactive : ∀ src, sourceActive f.st src = sourceActive s src := fun src => by
          cases src <;> simp only [sourceActive, h3, h5, h6]
        have houtside : ∀ src, sourceOutside f.st src = sourceOutside s src := fun src => by
          cases src <;> simp only [sourceOutside, inSections, h1]
        have hg := hget .w4
        rw [if_pos rfl] at hg
        rw [evaluating, h1, h2, hactive, houtside, hg]
        exact he
      rw [← hf, commit_channel hstill, hget, if_pos rfl]
      refine ⟨rfl, rfl, fun w => ?_⟩
      have hflags := commit_flags (hget w)
      by_cases hw : w = .w4
      · rw [if_pos hw] at hflags
        exact hflags
      · rwa [if_neg hw] at hflags
    · have hcount : (e1.st.watch.get .w4).count + 1 = count := by
        simp only [count, hh, he1st]
        rfl
      have htrip : e1.countWatch .w4 holds v = e1.actionTrip .w4 v := by
        rw [hh, countWatch_trips (by rw [he1cfg, hcount]; exact hfull), tripWatch_action v (watchSuccessor_w4 _)]
      obtain ⟨f, hf⟩ : ∃ f, f = e1.actionTrip .w4 v := ⟨_, rfl⟩
      have hnotice : .watchTripped .w4 true (s.config.watch.get .w4).source v
          (heldSection (s.config.watch.get .w4) (relatedSection s (s.config.watch.get .w4).source))
          (s.config.watch.get .w4).level (s.config.watch.get .w4).drop ∈ f.notices := by
        have hrelated : relatedSection e1.st (s.config.watch.get .w4).source =
            relatedSection s (s.config.watch.get .w4).source := by
          rw [he1, hu]
          cases (s.config.watch.get .w4).source <;> rfl
        rw [hf, actionTrip_eq, he1cfg, hrelated]
        exact raised_self _ _
      have hchannel : f.st.watch.get .w4 =
          { (e1.st.watch.get .w4).trip with
            latch := (e1.st.watch.get .w4).latch || (e1.st.config.watch.get .w4).drop.isSome } := by
        rw [hf]
        exact actedEvent_channel e1 .w4
      rw [htrip, ← hf] at hexec hrise hframe ⊢
      obtain ⟨-, harmed, htripped, -⟩ := commit_flags hchannel
      refine ⟨htripped, harmed, commit_count (by rw [hchannel]; rfl), ?_, f.notices, fun n hn => ?_, ?_⟩
      · have hrow : tripIn .w4 true .rise s = some f := by
          have hevent : triggerEvent .rise s = some f := hrise
          rw [tripIn, hevent]
          exact if_pos (raised_of_mem hnotice (by simp [tripsWatch]))
        change occurs (tripIn .w4 true .rise s) s = _
        rw [hrow]
        rfl
      · rw [List.mem_singleton.1 hn]
        exact hnotice
      · have htold := commit_told f s (hframe .permits (by simp))
        have hports : f.st.ports = s.ports := hframe .ports (by simp)
        rwa [hports] at htold

end Sys2Proof.Machine
end

section
/-! SUPPORT. The stressing engine's part of a sample set: it works on the session, the pool and the record, and ends the
session at most once, as its last step (R128, R134, R137). -/

namespace Sys2Proof.Machine

/-! ## Hold records through a change of stage (R38) -/

theorem removeHold_holdsOfSame (e : Ev) (n : Nat) {src other : HoldSource} (h : src ≠ other) :
    HoldsOfSame other e.st (e.removeHold n src).st := by
  unfold Ev.removeHold
  split
  · refine changeSection_holdsOfSame e n (fun d => { d with holds := d.holds.filter fun h => h.source ≠ src }) fun d => ?_
    rw [List.filter_filter]
    refine List.filter_congr fun x _ => ?_
    by_cases hx : x.source = other
    · simp [hx, Ne.symm h]
    · simp [hx]
  · exact .of_same rfl

theorem countLocked_holdsOfSame (e : Ev) (a : AnchorId) (f : Nat → Nat) (src : HoldSource) :
    HoldsOfSame src e.st (e.countLocked a f).st :=
  changeSection_holdsOfSame e a.sect _ fun _ => rfl

theorem leftSuspect_holdsOfSame (e : Ev) (n : Nat) {src : HoldSource} (h : src ≠ .store) :
    HoldsOfSame src e.st (e.leftSuspect n).st := by
  unfold Ev.leftSuspect
  split
  · exact .of_same rfl
  · exact removeHold_holdsOfSame e n h.symm

/-- A choice between two events of which either keeps the records keeps them. -/
theorem HoldsOfSame.ite {src : HoldSource} {a : State} {c : Prop} [Decidable c] {e f : Ev} (he : HoldsOfSame src a e.st)
    (hf : HoldsOfSame src a f.st) : HoldsOfSame src a (if c then e else f).st := by
  split
  · exact he
  · exact hf

theorem changeStage_holdsOfSame (e : Ev) (old new : AnchorRec) {src : HoldSource} (h : src ≠ .store) :
    HoldsOfSame src e.st (e.changeStage old new).st := by
  have hwritten : HoldsOfSame src e.st (e.writeAnchor new).st := .of_same rfl
  have hleft := HoldsOfSame.ite (c := old.stage = .curing)
    (e := (e.writeAnchor new).mod fun s => { s with cure := leaveCure new.id s.cure }) (.of_same rfl) hwritten
  obtain ⟨e1, h1⟩ : ∃ e1, e1 = if old.stage = .curing then
    (e.writeAnchor new).mod fun s => { s with cure := leaveCure new.id s.cure } else e.writeAnchor new := ⟨_, rfl⟩
  rw [← h1] at hleft
  have hjoined := HoldsOfSame.ite (c := new.stage = .curing)
    (e := e1.mod fun s => { s with cure := joinCure { due := new.cureDue.getD 0, id := new.id } s.cure })
    (hleft.trans (.of_same rfl)) hleft
  obtain ⟨e2, h2⟩ : ∃ e2, e2 = if new.stage = .curing then
    e1.mod fun s => { s with cure := joinCure { due := new.cureDue.getD 0, id := new.id } s.cure } else e1 := ⟨_, rfl⟩
  rw [← h2] at hjoined
  have hless := HoldsOfSame.ite (c := old.stage = .lockedOff)
    (hjoined.trans (countLocked_holdsOfSame e2 new.id (· - 1) src)) hjoined
  obtain ⟨e3, h3⟩ : ∃ e3, e3 = if old.stage = .lockedOff then e2.countLocked new.id (· - 1) else e2 := ⟨_, rfl⟩
  rw [← h3] at hless
  have hmore := HoldsOfSame.ite (c := new.stage = .lockedOff)
    (hless.trans (countLocked_holdsOfSame e3 new.id (· + 1) src)) hless
  obtain ⟨e4, h4⟩ : ∃ e4, e4 = if new.stage = .lockedOff then e3.countLocked new.id (· + 1) else e3 := ⟨_, rfl⟩
  rw [← h4] at hmore
  have hgone := HoldsOfSame.ite (c := old.stage = .suspect) (hmore.trans (leftSuspect_holdsOfSame e4 new.id.sect h)) hmore
  rw [h4, h3, h2, h1] at hgone
  exact hgone

theorem endWith_holdsOfSame (e : Ev) (v : Verdict) {src : HoldSource} (h : src ≠ .store) :
    HoldsOfSame src e.st (e.endWith v).st := by
  unfold Ev.endWith
  split
  · exact .of_same rfl
  · have hclosed : HoldsOfSame src e.st (e.mod closeSession).st := .of_same rfl
    exact hclosed.trans (changeStage_holdsOfSame _ _ _ h)

/-! ## Work, and then at most one end -/

/-- The parts the engine works on before it ends a session. -/
abbrev workParts : List Part := [.session, .pool, .anchors]

/-- The event `f` works on the session, the pool and the record from the state `a` on, and may then end the session. -/
def WorksThenEnds (a : State) (f : Ev) : Prop :=
  ∃ mid : Ev, OnlyChanges workParts a mid.st ∧ (f.st = mid.st ∨ ∃ v, f.st = (mid.endWith v).st)

theorem WorksThenEnds.works {a : State} {f : Ev} (h : OnlyChanges workParts a f.st) : WorksThenEnds a f := ⟨f, h, .inl rfl⟩

theorem WorksThenEnds.ends {a : State} {f : Ev} (h : OnlyChanges workParts a f.st) (v : Verdict) :
    WorksThenEnds a (f.endWith v) := ⟨f, h, .inr ⟨v, rfl⟩⟩

theorem WorksThenEnds.after {a : State} {e f : Ev} (h : OnlyChanges workParts a e.st) (k : WorksThenEnds e.st f) :
    WorksThenEnds a f := by
  obtain ⟨mid, hmid, hend⟩ := k
  exact ⟨mid, (h.trans hmid).mono (by simp), hend⟩

theorem changeSession_works (e : Ev) (f : Session → Session) : OnlyChanges workParts e.st (e.changeSession f).st :=
  (changeSession_frame e f).mono (by simp)

theorem writeCreep_works (e : Ev) (b : Bool) (k : Int) : OnlyChanges workParts e.st (e.writeCreep b k).st :=
  (writeCreep_frame e b k).mono (by simp)

theorem completeHold_works (e : Ev) (top : StageFrame) (k : Option Int) :
    OnlyChanges workParts e.st (e.completeHold top k).st := by
  have hrest : ∀ g : Ev, OnlyChanges workParts e.st g.st → OnlyChanges workParts e.st (match g.st.session with
      | none => g
      | some x =>
        ((g.changeSession fun y => changeTop y fun f => { f with holdDone := true }).raise
          (.holdComplete x.anchor top.target top.holdReadings.length top.ks top.ks2 top.rehold)).moveOn).st := by
    intro g hg
    split
    · exact hg
    · exact (hg.step (changeSession_works g _) (by simp)).step (moveOn_frame (Ev.raise _ _)) (by simp)
  cases k with
  | none => exact hrest e (.refl _ _)
  | some k => exact hrest _ (writeCreep_works e _ k)

theorem failCreep_ends (e : Ev) (top : StageFrame) (k : Int) : WorksThenEnds e.st (e.failCreep top k) :=
  .ends (writeCreep_works e _ k) _

theorem decideAtD_ends (e : Ev) (top : StageFrame) (h : HoldCtx) : WorksThenEnds e.st (e.decideAtD top h) := by
  unfold Ev.decideAtD
  split
  · exact .works (completeHold_works e top none)
  · dsimp only
    split
    · exact .after (changeSession_works e _) (.works (completeHold_works (e.changeSession _) _ _))
    · split
      · exact .works ((changeSession_works e _).step (changeSession_works (e.changeSession _) _) (by simp))
      · exact .after (changeSession_works e _) (failCreep_ends (e.changeSession _) _ _)

theorem decideAt10D_ends (e : Ev) (top : StageFrame) (h : HoldCtx) : WorksThenEnds e.st (e.decideAt10D top h) := by
  unfold Ev.decideAt10D
  dsimp only
  split
  · exact .after (changeSession_works e _) (.works (completeHold_works (e.changeSession _) _ _))
  · exact .after (changeSession_works e _) (failCreep_ends (e.changeSession _) _ _)

theorem reachPoint_ends (e : Ev) (x : Session) (h : HoldCtx) (i : Nat) : WorksThenEnds e.st (e.reachPoint x h i) := by
  unfold Ev.reachPoint
  dsimp only
  obtain ⟨g, hg⟩ : ∃ g, g = (e.takeReading (readingNow e.st .holdPoint)).changeSession fun y =>
      setHoldCtx (changeTop y fun f => { f with holdReadings := f.holdReadings ++ [i] })
        { h with nextPoint := h.nextPoint + 1 } := ⟨_, rfl⟩
  have hread : OnlyChanges workParts e.st g.st := by
    rw [hg]
    exact (takeReading_frame e _).step (changeSession_works _ _) (by simp)
  rw [← hg]
  split
  · exact .works hread
  · split
    · exact .after hread (decideAtD_ends (g.raise _) _ _)
    · split
      · exact .after hread (decideAt10D_ends (g.raise _) _ _)
      · exact .works hread

theorem runHold_ends (e : Ev) (x : Session) (h : HoldCtx) : WorksThenEnds e.st (e.runHold x h) := by
  unfold Ev.runHold
  dsimp only
  have hcounted := changeSession_works e fun y => setHoldCtx y { h with begun := true, elapsed := h.elapsed + 1, pause := 0 }
  split
  · split
    · exact .works hcounted
    · exact .after hcounted (reachPoint_ends (e.changeSession _) x _ _)
  · exact .works hcounted

theorem voidHold_ends (e : Ev) (x : Session) (top : StageFrame) (h : HoldCtx) (c : VoidCause) :
    WorksThenEnds e.st (e.voidHold x top h c) := by
  unfold Ev.voidHold
  dsimp only
  have hback := (returnReadings_frame e top.holdReadings).mono (qs := workParts) (by simp)
  split
  · exact .after hback (.ends (f := Ev.raise _ _) (changeSession_works _ _) _)
  · exact .after hback (.works (f := Ev.raise _ _) (changeSession_works _ _))

theorem countHold_ends (e : Ev) (x : Session) (top : StageFrame) (h : HoldCtx) (b : Bool) (c : VoidCause) :
    WorksThenEnds e.st (e.countHold x top h b c) := by
  unfold Ev.countHold
  split
  · exact voidHold_ends e x top h c
  · exact .works (changeSession_works e _)

theorem judgeHold_ends (e : Ev) (x : Session) (top : StageFrame) (h : HoldCtx) :
    WorksThenEnds e.st (e.judgeHold x top h) := by
  unfold Ev.judgeHold
  split_ifs
  · exact voidHold_ends ..
  · exact .works (.refl _ _)
  · exact countHold_ends ..
  · exact .works (.refl _ _)
  · exact countHold_ends ..
  · exact .works (.refl _ _)
  · exact runHold_ends ..

theorem failLift_ends (e : Ev) (x : Session) : WorksThenEnds e.st (e.failLift x) := by
  unfold Ev.failLift
  split
  · refine .works ?_
    rw [announceStep_st]
    exact changeSession_works e _
  · exact .ends (.refl _ _) _

theorem captureLift_ends (e : Ev) (x : Session) (load ll : Nat) : WorksThenEnds e.st (e.captureLift x load ll) := by
  unfold Ev.captureLift
  dsimp only
  have hread : OnlyChanges workParts e.st
      ((e.changeResult fun t => { t with plift := some load }).takeReading (readingNow e.st .liftOff)).st :=
    ((changeResult_frame e _).mono (by simp)).step (takeReading_frame _ _) (by simp)
  split
  · exact .after hread (.ends (f := Ev.raise _ _) (.refl _ _) _)
  · exact .after hread (failLift_ends (Ev.raise _ _) x)

theorem judgeLift_ends (e : Ev) (x : Session) (l : LiftCtx) : WorksThenEnds e.st (e.judgeLift x l) := by
  unfold Ev.judgeLift
  split
  · exact .works (.refl _ _)
  · dsimp only
    have hjudged := changeSession_works e fun y =>
      { y with phase := .liftoff (l.judge (channelValue e.st.meas .load) e.st.meas.extension (lockLoad e.st x.anchor)) }
    split
    · exact .after hjudged (captureLift_ends (e.changeSession _) x _ _)
    · split
      · exact .after (hjudged.step (takeReading_frame (e.changeSession _) _) (by simp)) (failLift_ends _ x)
      · exact .works hjudged

theorem judgeSession_ends (e : Ev) : WorksThenEnds e.st e.judgeSession := by
  unfold Ev.judgeSession
  split
  · exact .works (.refl _ _)
  · split
    · exact judgeHold_ends ..
    · exact judgeLift_ends ..
    · exact .works (.refl _ _)

/-- No hold record but that of STORE is touched by the stressing engine. -/
theorem judgeSession_holdsOfSame (e : Ev) {src : HoldSource} (h : src ≠ .store) :
    HoldsOfSame src e.st e.judgeSession.st := by
  obtain ⟨mid, hmid, hend | ⟨v, hend⟩⟩ := judgeSession_ends e
  · rw [hend]
    exact .of_same (hmid .sections (by simp))
  · rw [hend]
    have hworked : HoldsOfSame src e.st mid.st := .of_same (hmid .sections (by simp))
    exact hworked.trans (endWith_holdsOfSame mid v h)

end Sys2Proof.Machine
end

section
/-! SUPPORT. A channel that trips in the event of a trigger (R164 to R169). -/

namespace Sys2Proof.Machine

/-! ## The channels that evaluate in one event (R164, log 10, log 11) -/

theorem mem_watchesOn {s : State} {fed : WatchSource → Bool} {w : WatchId} :
    w ∈ watchesOn s fed ↔ evaluating s w = true ∧ fed (s.config.watch.get w).source = true ∧
      (s.config.watch.get w).kind ≠ .riseOver := by
  have hall : w ∈ allWatches := by cases w <;> simp [allWatches]
  simp [watchesOn, hall, and_assoc]

theorem watchesOn_nodup (s : State) (fed : WatchSource → Bool) : (watchesOn s fed).Nodup :=
  List.Nodup.filter _ (by decide)

theorem armed_of_evaluating {s : State} {w : WatchId} (h : evaluating s w = true) : (s.watch.get w).armed = true := by
  simp only [evaluating, Bool.and_eq_true] at h
  exact h.1.1.1.2

/-- The evaluations of a list of channels, one after the other. -/
def evaluateAll (ws : List WatchId) (e : Ev) : Ev := ws.foldl (fun acc w => acc.evaluateWatch w) e

theorem evaluateAll_cons (w : WatchId) (ws : List WatchId) (e : Ev) :
    evaluateAll (w :: ws) e = evaluateAll ws (e.evaluateWatch w) := rfl

theorem evaluateAll_frame (ws : List WatchId) (e : Ev) : OnlyChanges watchParts e.st (evaluateAll ws e).st :=
  foldl_frame watchParts (fun acc w => acc.evaluateWatch w) (fun a w => evaluateWatch_frame a w) ws e

theorem evaluateAll_grows (ws : List WatchId) (e : Ev) : e.Grows (evaluateAll ws e) :=
  grows_foldl (fun acc w => acc.evaluateWatch w) (fun a w => evaluateWatch_grows a w) ws e

theorem evaluateAll_holdsOnly (ws : List WatchId) : ∀ e : Ev, HoldsOnly e.st (evaluateAll ws e).st := by
  induction ws with
  | nil => exact fun e => .of_same rfl
  | cons w rest ih => exact fun e => (evaluateWatch_holdsOnly e w).trans (ih _)

theorem watchSuccessor_congr {a b : State} (h : b.config = a.config) (w : WatchId) :
    watchSuccessor b w = watchSuccessor a w := by rw [watchSuccessor, watchSuccessor, chainOf, chainOf, h]

theorem evaluateAll_bystander {m : WatchId} (ws : List WatchId) : ∀ e : Ev, m ∉ ws →
    (∀ v ∈ ws, watchSuccessor e.st v ≠ some m) → Bystander m e.st (evaluateAll ws e).st := by
  induction ws with
  | nil => exact fun e _ _ => .refl m e.st
  | cons w rest ih =>
    intro e hm hs
    have hone := evaluateWatch_bystander e (fun h => hm (by rw [h]; exact List.mem_cons_self)) (hs w List.mem_cons_self)
    have hconfig := evaluateWatch_frame e w .config (by simp)
    exact hone.trans (ih _ (fun h => hm (List.mem_cons_of_mem _ h)) fun v hv => by
      rw [watchSuccessor_congr hconfig]
      exact hs v (List.mem_cons_of_mem _ hv))

theorem nextIn_mem {w q : WatchId} {l : List WatchId} (h : nextIn w l = some q) : q ∈ l.tail := by
  induction l with
  | nil => exact absurd h (by simp [nextIn])
  | cons x rest ih =>
    rw [nextIn] at h
    split at h
    · exact List.mem_of_head? h
    · exact List.mem_of_mem_tail (ih h)

theorem nextIn_inj {v w q : WatchId} {l : List WatchId} (hl : l.Nodup) (hv : nextIn v l = some q) (hw : nextIn w l = some q) :
    v = w := by
  induction l with
  | nil => exact absurd hv (by simp [nextIn])
  | cons x rest ih =>
    have hrest := (List.nodup_cons.1 hl).2
    have hhead : ∀ u, rest.head? = some q → nextIn u rest ≠ some q := fun u hq hu => by
      cases rest with
      | nil => exact absurd hq (by simp)
      | cons y more =>
        obtain rfl : y = q := by simpa using hq
        exact (List.nodup_cons.1 hrest).1 (nextIn_mem hu)
    rw [nextIn] at hv hw
    split at hv <;> split at hw
    next hxv hxw => exact hxv.symm.trans hxw
    · exact absurd hw (hhead w hv)
    · exact absurd hv (hhead v hw)
    · exact ih hrest hv hw

theorem nextIn_ne {w q : WatchId} {l : List WatchId} (hl : l.Nodup) (h : nextIn w l = some q) : q ≠ w := by
  induction l with
  | nil => exact absurd h (by simp [nextIn])
  | cons x rest ih =>
    obtain ⟨hx, hrest⟩ := List.nodup_cons.1 hl
    rw [nextIn] at h
    split at h
    next hxw => exact fun hqw => hx (hxw ▸ hqw ▸ List.mem_of_head? h)
    · exact ih hrest h

theorem chainMembers_nodup (n : Nat) : (chainMembers n).Nodup := by
  unfold chainMembers
  split <;> decide

/-- A member of a chain is the successor of at most one other, and never of itself. -/
theorem watchSuccessor_inj {s : State} {v w q : WatchId} (hv : watchSuccessor s v = some q)
    (hw : watchSuccessor s w = some q) : v = w := nextIn_inj (chainMembers_nodup _) hv hw

theorem watchSuccessor_ne {s : State} {w q : WatchId} (h : watchSuccessor s w = some q) : q ≠ w :=
  nextIn_ne (chainMembers_nodup _) h

theorem sourceValue_holdsOnly {a b : State} (hm : b.meas = a.meas) (h : HoldsOnly a b) (src : WatchSource) :
    sourceValue b src = sourceValue a src := by
  cases src with
  | deflection n =>
    rw [sourceValue, sourceValue, h.records n]
  | _ => simp only [sourceValue, hm]

/-- The channel `w`, evaluating on the value `v` that completes its count, trips in `a`, where everything about it still
stands as the event found it; nothing after its trip touches it, nor a successor that was not armed. -/
structure Trips (e d a : Ev) (w : WatchId) (v : Int) : Prop where
  before : Bystander w e.st a.st
  after : Bystander w (a.tripWatch w v).st d.st
  frame : OnlyChanges watchParts e.st a.st
  size : a.st.sections.length = e.st.sections.length
  rest : (a.tripWatch w v).Grows d
  config : d.st.config = e.st.config
  successor : ∀ q, watchSuccessor e.st w = some q → (e.st.watch.get q).armed = false →
    Bystander q e.st a.st ∧ Bystander q (a.tripWatch w v).st d.st

theorem feedWatches_trips {e : Ev} {fed : WatchSource → Bool} {w : WatchId} {v : Int} (he : evaluating e.st w = true)
    (hfed : fed (e.st.config.watch.get w).source = true) (hk : (e.st.config.watch.get w).kind ≠ .riseOver)
    (hv : sourceValue e.st (e.st.config.watch.get w).source = some v)
    (hh : comparisonHolds (e.st.config.watch.get w).kind (e.st.config.watch.get w).threshold v = true)
    (hp : (e.st.config.watch.get w).persistence ≤ (e.st.watch.get w).count + 1)
    (hpred : ∀ q, watchSuccessor e.st q = some w → (e.st.watch.get q).armed = false) :
    ∃ a, Trips e (e.feedWatches fed) a w v := by
  obtain ⟨l1, l2, hsplit⟩ := List.append_of_mem (mem_watchesOn.2 ⟨he, hfed, hk⟩)
  have hnodup := watchesOn_nodup e.st fed
  rw [hsplit] at hnodup
  have hmem : ∀ u, u ∈ l1 ∨ u ∈ l2 → (e.st.watch.get u).armed = true := fun u hu => by
    refine armed_of_evaluating (mem_watchesOn (fed := fed).1 ?_).1
    rw [hsplit]
    rcases hu with hu | hu <;> simp [hu]
  have hw1 : w ∉ l1 := fun h => List.disjoint_of_nodup_append hnodup h List.mem_cons_self
  have hw2 : w ∉ l2 := (List.nodup_cons.1 (List.nodup_append.1 hnodup).2.1).1
  have hnotpred : ∀ u, u ∈ l1 ∨ u ∈ l2 → watchSuccessor e.st u ≠ some w := fun u hu hs => by
    have harmed := hmem u hu
    rw [hpred u hs] at harmed
    exact absurd harmed (by simp)
  obtain ⟨a, ha⟩ : ∃ a, a = evaluateAll l1 e := ⟨_, rfl⟩
  have hframe : OnlyChanges watchParts e.st a.st := by rw [ha]; exact evaluateAll_frame l1 e
  have hholds : HoldsOnly e.st a.st := by rw [ha]; exact evaluateAll_holdsOnly l1 e
  have hconfig : a.st.config = e.st.config := hframe .config (by simp)
  have hbefore : Bystander w e.st a.st := by
    rw [ha]
    exact evaluateAll_bystander l1 e hw1 fun u hu => hnotpred u (.inl hu)
  have htrip : a.evaluateWatch w = a.tripWatch w v := by
    have hvalue := sourceValue_holdsOnly (hframe .meas (by simp)) hholds (e.st.config.watch.get w).source
    simp only [Ev.evaluateWatch, hconfig, hvalue, hv, hh]
    exact countWatch_trips (by rw [hconfig, hbefore.channel]; exact hp)
  have hfeed : e.feedWatches fed = evaluateAll l2 (a.tripWatch w v) := by
    rw [← htrip, ha]
    change evaluateAll (watchesOn e.st fed) e = _
    rw [hsplit, evaluateAll, List.foldl_append]
    rfl
  have htripped : (a.tripWatch w v).st.config = e.st.config := (tripWatch_frame a w v .config (by simp)).trans hconfig
  refine ⟨a, hbefore, ?_, hframe, hholds.size, ?_, ?_, fun q hq hoff => ?_⟩
  · rw [hfeed]
    refine evaluateAll_bystander l2 _ hw2 fun u hu => ?_
    rw [watchSuccessor_congr htripped]
    exact hnotpred u (.inr hu)
  · rw [hfeed]
    exact evaluateAll_grows l2 _
  · rw [hfeed]
    exact (evaluateAll_frame l2 _ .config (by simp)).trans htripped
  · have hnot : ∀ u, u ∈ l1 ∨ u ∈ l2 → u ≠ q := fun u hu hqu => by
      have harmed := hmem u hu
      rw [hqu, hoff] at harmed
      exact absurd harmed (by simp)
    have hsucc : ∀ u, u ∈ l1 ∨ u ∈ l2 → watchSuccessor e.st u ≠ some q := fun u hu hs => by
      obtain rfl := watchSuccessor_inj hs hq
      exact hu.elim hw1 hw2
    refine ⟨?_, ?_⟩
    · rw [ha]
      exact evaluateAll_bystander l1 e (fun h => hnot q (.inl h) rfl) fun u hu => hsucc u (.inl hu)
    · rw [hfeed]
      refine evaluateAll_bystander l2 _ (fun h => hnot q (.inr h) rfl) fun u hu => ?_
      rw [watchSuccessor_congr htripped]
      exact hsucc u (.inr hu)

/-! ## The events of the triggers (R44, R49, R62, R165) -/

/-- The seconds that a trigger takes from the windows: a sample set may be the last of a second (log 6). -/
def secondsGone (g : Trigger) (s : State) : Nat :=
  match g with
  | .sample _ => if 100 ≤ s.time.periods + 1 then 1 else 0
  | .flowRate | .report _ _ | .rise => 0

/-- The event of a trigger: from `b`, which has the channels and the configuration of the state, the watch unit is fed, and
what follows takes from the windows the second that has gone. -/
structure Triggering (g : Trigger) (s : State) (b : Ev) (fed : WatchSource → Bool) (e : Ev) : Prop where
  event : triggerEvent g s = some e
  channels : b.st.watch = s.watch
  config : b.st.config = s.config
  clock : b.st.clock = s.clock
  size : b.st.sections.length = s.sections.length
  holds : ∀ m, HoldsOfSame (watchHoldSource m) s b.st
  grows : (b.feedWatches fed).Grows e
  after : ∀ m, e.st.watch.get m =
    { (b.feedWatches fed).st.watch.get m with
      window := ((b.feedWatches fed).st.watch.get m).window.map (· - secondsGone g s) }
  holdsAfter : ∀ m, HoldsOfSame (watchHoldSource m) (b.feedWatches fed).st e.st
  configAfter : e.st.config = (b.feedWatches fed).st.config
  told : Told (triggerBase g s) e.notices s (commit e)

theorem watchHoldSource_ne_store (w : WatchId) : watchHoldSource w ≠ .store := by cases w <;> simp [watchHoldSource]

theorem window_same (x : WatchState) : { x with window := x.window.map (· - 0) } = x := by
  cases x with
  | mk _ _ _ _ _ window _ _ => cases window <;> rfl

theorem tick_sections (s : State) : ∀ n, (sectionRec (tickTime (tickClock s)) n).data = (sectionRec s n).data := by
  intro n
  have hclock : (tickClock s).sections = s.sections := by
    unfold tickClock
    split <;> rfl
  unfold tickTime
  split
  · rw [sectionRec, sectionRec, show (_ : State).sections = _ from hclock]
  · change ((tickClock s).sections.map SectionRec.older |>.getD (n - 1) SectionRec.default).data = _
    rw [hclock]
    exact getD_map_data s.sections SectionRec.older (fun _ => rfl) (n - 1)

theorem tick_channels (s : State) (w : WatchId) :
    (tickTime (tickClock s)).watch.get w =
      { s.watch.get w with window := (s.watch.get w).window.map (· - if 100 ≤ s.time.periods + 1 then 1 else 0) } := by
  have hclock : (tickClock s).watch = s.watch ∧ (tickClock s).time = s.time := by
    unfold tickClock
    split <;> exact ⟨rfl, rfl⟩
  have hperiods : Config.periodsPerSecond = 100 := rfl
  unfold tickTime
  rw [hclock.2, hperiods]
  split
  next h =>
    rw [if_neg (by omega), window_same]
    exact congrArg (PerWatch.get · w) hclock.1
  next h =>
    rw [if_pos (by omega)]
    change ((tickClock s).watch.map fun _ x => x.olderWindow).get w = _
    rw [PerWatch.get_map, hclock.1]
    rfl

theorem sample_triggering (x : SampleIn) (s : State) :
    Triggering (.sample x) s (monitoredEvent x s) fedBySample (sampleEvent x s) := by
  have hframe := monitoredEvent_frame x s
  have hsession := judgeSession_frame (watchedEvent x s)
  have htick := tick_frame (watchedEvent x s).judgeSession.st
  have htime : (watchedEvent x s).judgeSession.st.time = s.time :=
    (hsession .time (by simp)).trans (watchedEvent_frame x s .time (by simp))
  have hsample := sampleEvent_frame x s
  refine ⟨rfl, hframe .watch (by simp), hframe .config (by simp), hframe .clock (by simp),
    congrArg List.length (hframe .sections (by simp)), fun m => .of_same (hframe .sections (by simp)), sample_grows x s,
    fun m => ?_, fun m n => ?_, (htick .config (by simp)).trans (hsession .config (by simp)), ?_⟩
  · refine (tick_channels _ m).trans ?_
    rw [htime, show (watchedEvent x s).judgeSession.st.watch = (watchedEvent x s).st.watch from hsession .watch (by simp)]
    rfl
  · have hdata := tick_sections (watchedEvent x s).judgeSession.st n
    refine (congrArg (fun d : SectionData => d.holds.filter fun h => h.source = watchHoldSource m) hdata).trans ?_
    exact judgeSession_holdsOfSame (watchedEvent x s) (watchHoldSource_ne_store m) n
  · have htold := commit_told (sampleEvent x s) s (hsample .permits (by simp))
    rwa [show (sampleEvent x s).st.ports = s.ports from hsample .ports (by simp)] at htold

theorem flowRate_triggering {s : State} (h : s.time.flowDue ≠ 0) :
    Triggering .flowRate s (Ev.of (flowSecond s)) fedByFlow ((Ev.of (flowSecond s)).feedWatches fedByFlow) := by
  have hevent : flowRateEvent s = some ((Ev.of (flowSecond s)).feedWatches fedByFlow) := by rw [flowRateEvent, if_neg h]
  have hframe := flowRateEvent_frame s _ hevent
  refine ⟨hevent, rfl, rfl, rfl, rfl, fun m => .of_same rfl, fun n hn => hn, fun m => (window_same _).symm, fun m n => rfl, rfl,
    ?_⟩
  have htold := commit_told ((Ev.of (flowSecond s)).feedWatches fedByFlow) s (hframe .permits (by simp))
  rwa [show ((Ev.of (flowSecond s)).feedWatches fedByFlow).st.ports = s.ports from hframe .ports (by simp)] at htold

/-- A report as it reaches the watch unit (R44, R45). -/
def reportedEvent (s : State) (n : Nat) (v : Int) : Ev :=
  ((Ev.of (reportedSection s n v)).dirtied .sections).compareLimit n v

theorem reportEvent_eq (s : State) (n : Nat) (v : Int) :
    reportEvent s n v = (reportedEvent s n v).feedWatches (fedByReport n) := rfl

theorem reportedSection_holdsOfSame (s : State) (n : Nat) (v : Int) (src : HoldSource) :
    HoldsOfSame src s (reportedSection s n v) := fun k => by
  have hreported := sectionRec_changeSection (Ev.of s) n
    (fun d => { d with lastDeflection := some { value := v, time := stampTime s } }) k
  have hdata : (sectionRec (reportedSection s n v) k).data =
      (sectionRec ((Ev.of s).changeSection n fun d =>
        { d with lastDeflection := some { value := v, time := stampTime s } }).st k).data := by
    change ((s.sections.set (n - 1) _).getD (k - 1) SectionRec.default).data =
      ((s.sections.set (n - 1) _).getD (k - 1) SectionRec.default).data
    simp only [List.getD_eq_getElem?_getD, List.getElem?_set]
    split
    · split <;> rfl
    · rfl
  rw [hdata, hreported]
  split <;> rfl

theorem compareLimit_holdsOfSame (e : Ev) (n : Nat) (v : Int) {src : HoldSource} (h : src ≠ .deflection) :
    HoldsOfSame src e.st (e.compareLimit n v).st := by
  unfold Ev.compareLimit
  dsimp only
  split
  · exact writeHold_holdsOfSame e n _ _ h.symm
  · exact .of_same rfl

theorem compareLimit_frame (e : Ev) (n : Nat) (v : Int) : OnlyChanges [.sections] e.st (e.compareLimit n v).st := by
  unfold Ev.compareLimit
  dsimp only
  split
  · exact writeHold_frame e _ _ _ _
  · exact .refl _ _

theorem compareLimit_size (e : Ev) (n : Nat) (v : Int) : (e.compareLimit n v).st.sections.length = e.st.sections.length := by
  unfold Ev.compareLimit
  dsimp only
  split
  · exact (writeHold_holdsOnly e _ _ _ _).size
  · rfl

theorem reportedEvent_frame (s : State) (n : Nat) (v : Int) : OnlyChanges [.sections] s (reportedEvent s n v).st :=
  (reportedSection_frame s n v).step (compareLimit_frame _ n v) (by simp)

theorem report_triggering {p : Port} {pl : List Byte} {s : State} (h : Asked .reportDeflection p pl s)
    (hin : inSections s (fieldNat pl 0 1) = true) :
    ∃ e, Triggering (.report p pl) s
      (reportedEvent (takeFrame s p) (fieldNat pl 0 1) (clampSigned (-50000) 50000 (fieldInt pl 1 4)))
      (fedByReport (fieldNat pl 0 1)) e := by
  obtain ⟨n, hn⟩ : ∃ n, n = fieldNat pl 0 1 := ⟨_, rfl⟩
  obtain ⟨v, hv⟩ : ∃ v, v = clampSigned (-50000) 50000 (fieldInt pl 1 4) := ⟨_, rfl⟩
  have hreply : reportDeflectionReply pl (takeFrame s p) = done (reportEvent (takeFrame s p) n v) := by
    rw [reportDeflectionReply, if_pos (show inSections (takeFrame s p) (fieldNat pl 0 1) = true from hin), hn, hv]
  obtain ⟨d, hd⟩ : ∃ d, d = reportEvent (takeFrame s p) n v := ⟨_, rfl⟩
  rw [← hd] at hreply
  have hfed : (reportedEvent (takeFrame s p) n v).feedWatches (fedByReport n) = d := by rw [hd, reportEvent_eq]
  have hframe := reportedEvent_frame (takeFrame s p) n v
  have htouched : OnlyChanges watchParts (takeFrame s p) d.st := by
    rw [← hfed]
    exact (hframe.mono (by simp)).step (feedWatches_frame _ _) (by simp)
  rw [← hn, ← hv]
  refine ⟨putAnswer ReqKind.reportDeflection.code p (doneWith d .none), ?_, hframe .watch (by simp), hframe .config (by simp),
    hframe .clock (by simp), ?_, fun m => ?_, ?_, fun m => ?_, fun m => ?_, ?_, ?_⟩
  · obtain ⟨htake, hallowed, hlength⟩ := h
    change takeEvent .reportDeflection p pl (reportDeflectionReply pl) s = _
    simp [takeEvent, decide_, htake, hallowed, hlength, hreply]
    rfl
  · refine (compareLimit_size _ n v).trans ?_
    exact List.length_set
  · have hreported := reportedSection_holdsOfSame (takeFrame s p) n v (watchHoldSource m)
    exact hreported.trans (compareLimit_holdsOfSame ((Ev.of (reportedSection (takeFrame s p) n v)).dirtied .sections) n v
      (watchHoldSource_ne_deflection m))
  · rw [hfed]
    exact fun x hx => hx
  · rw [hfed]
    exact (window_same _).symm
  · rw [hfed]
    exact .of_same rfl
  · rw [hfed]
    rfl
  · exact taken_told ReqKind.reportDeflection.code (doneWith d .none) (htouched .ports (by simp))
      (htouched .permits (by simp))

/-- Every trigger that feeds the watch unit has its event. -/
theorem fedAt_triggering {g : Trigger} {s u : State} {fed : WatchSource → Bool} (h : fedAt g s = some (u, fed)) :
    ∃ b e, b.st = u ∧ Triggering g s b fed e := by
  cases g with
  | sample x =>
    simp only [fedAt, Option.some.injEq, Prod.mk.injEq] at h
    obtain ⟨rfl, rfl⟩ := h
    exact ⟨_, _, rfl, sample_triggering x s⟩
  | flowRate =>
    simp only [fedAt] at h
    split at h
    · exact absurd h (by simp)
    next hdue =>
      simp only [Option.some.injEq, Prod.mk.injEq] at h
      obtain ⟨rfl, rfl⟩ := h
      exact ⟨_, _, rfl, flowRate_triggering hdue⟩
  | report p pl =>
    simp only [fedAt] at h
    split at h
    next hasked =>
      simp only [Bool.and_eq_true, beq_iff_eq] at hasked
      obtain ⟨⟨⟨htake, hallowed⟩, hlength⟩, hin⟩ := hasked
      simp only [Option.some.injEq, Prod.mk.injEq] at h
      obtain ⟨rfl, rfl⟩ := h
      obtain ⟨e, he⟩ := report_triggering ⟨htake, hallowed, hlength⟩ hin
      exact ⟨_, e, rfl, he⟩
    · exact absurd h (by simp)
  | rise => exact absurd h (by simp [fedAt])

end Sys2Proof.Machine
end

section
/-! SUPPORT. Action trips and step trips whole (R168, R169). -/

namespace Sys2Proof.Machine

/-- A channel without ARMED, or without ENABLED, has no count and no history at the end of an event (R164). -/
theorem commit_rested_idle {e : Ev} {w : WatchId} (h : (e.st.watch.get w).armed = false ∨ (e.st.watch.get w).enabled = false) :
    Rested ((commit e).watch.get w) := by
  have hoff : evaluating e.st w = false := by rcases h with h | h <;> simp [evaluating, h]
  rw [commit_watch, restWatches, PerWatch.get_map, hoff]
  exact ⟨rfl, rfl⟩

/-- A line that a latched channel drops is down (R169, R176). -/
theorem lineUp_dropped {s : State} {w : WatchId} {l : PLine} (hl : (s.watch.get w).latch = true)
    (hd : (s.config.watch.get w).drop = some l) : lineUp s l = false := by
  refine lineUp_of_cause (c := .watchDrop) ?_
  change watchDropped s l = true
  have hall : w ∈ allWatches := by cases w <;> simp [allWatches]
  exact List.any_eq_true.2 ⟨w, hall, by simp [hl, hd]⟩

/-- The record of an action's hold, on the related section (R169). -/
theorem actedEvent_hold {e : Ev} {w : WatchId} {lv : HoldLevel} {n : Nat}
    (hlv : (e.st.config.watch.get w).level = some lv)
    (hn : relatedSection e.st (e.st.config.watch.get w).source = some n) :
    (1 ≤ n → n - 1 < e.st.sections.length →
        ((sectionRec (actedEvent e w).st n).data.holds.filter fun h => h.source = watchHoldSource w) =
          [heldAt e.st (watchHoldSource w) lv none]) ∧
      ∃ eff, .holdChanged n (watchHoldSource w) (some lv) eff ∈ (actedEvent e w).notices := by
  obtain ⟨b, hb⟩ : ∃ b, b = e.changeWatch w WatchState.trip := ⟨_, rfl⟩
  have hheld : b.actionHold w (relatedSection e.st (e.st.config.watch.get w).source) =
      b.writeHold n (watchHoldSource w) lv none := by
    have hlevel : (b.st.config.watch.get w).level = some lv := by rw [hb]; exact hlv
    rw [hn]
    simp only [Ev.actionHold, hlevel]
  have hacted : actedEvent e w = (b.writeHold n (watchHoldSource w) lv none).changeWatch w fun x =>
      { x with latch := x.latch || (e.st.config.watch.get w).drop.isSome } := by rw [actedEvent, ← hb, hheld]
  rw [hacted]
  refine ⟨fun h1 hl => ?_, _, raised_self _ _⟩
  have hsame : b.st.sections = e.st.sections := by rw [hb]; rfl
  obtain ⟨hrec, -, -⟩ := writeHold_rec b (watchHoldSource w) lv none h1 (by rw [hsame]; exact hl)
  have hput := putHold_source (sectionRec b.st n).data.holds (heldAt b.st (watchHoldSource w) lv none)
  have hat : heldAt b.st (watchHoldSource w) lv none = heldAt e.st (watchHoldSource w) lv none := by rw [hb]; rfl
  rw [hat] at hput hrec
  refine Eq.trans ?_ hput
  exact congrArg (fun r : SectionRec => r.data.holds.filter fun h => h.source = watchHoldSource w) hrec

theorem relatedSection_congr {a b : State} (hs : b.session = a.session) (hg : b.grout = a.grout) (hr : b.rig = a.rig)
    (src : WatchSource) : relatedSection b src = relatedSection a src := by
  cases src <;> simp only [relatedSection, hs, hg, hr]

section
variable {g : Trigger} {s : State} {fed : WatchSource → Bool} {b a e : Ev} {w : WatchId} {v : Int}

/-- A channel at the end of the trigger's event, from its state after the trip. -/
theorem Triggering.ends (h : Triggering g s b fed e) {m : WatchId} {x : WatchState} {c : State}
    (hafter : Bystander m c (b.feedWatches fed).st) (hx : c.watch.get m = x) :
    e.st.watch.get m = { x with window := x.window.map (· - secondsGone g s) } := by
  rw [h.after, hafter.channel, hx]

/-- The hold records of a channel at the end of the trigger's event, from those after the trip. -/
theorem Triggering.holdsEnd (h : Triggering g s b fed e) {m : WatchId} {c : State}
    (hafter : Bystander m c (b.feedWatches fed).st) : HoldsOfSame (watchHoldSource m) c (commit e) := by
  have hcommit : HoldsOfSame (watchHoldSource m) e.st (commit e) := .of_same (commit_sections e)
  exact (hafter.holds.trans (h.holdsAfter m)).trans hcommit

/-- The channel, as it stands when it trips. -/
theorem Triggering.found (h : Triggering g s b fed e) (ht : Trips b (b.feedWatches fed) a w v) :
    a.st.watch.get w = s.watch.get w ∧ a.st.config = s.config ∧ stampTime a.st = stampTime s ∧
      a.st.sections.length = s.sections.length := by
  have hconfig := ht.frame .config (by simp)
  have hclock := ht.frame .clock (by simp)
  refine ⟨by rw [ht.before.channel, h.channels], hconfig.trans h.config, ?_, ht.size.trans h.size⟩
  rw [stampTime, stampTime, show a.st.clock = s.clock from hclock.trans h.clock]

/-- An action trip (R169). -/
theorem Triggering.acts (h : Triggering g s b fed e) (ht : Trips b (b.feedWatches fed) a w v)
    (hz : s.sections.length = 64) (hnone : watchSuccessor s w = none) :
    let c := s.config.watch.get w
    let related := relatedSection b.st c.source
    ∃ t, exec (.watchActionTrip w g) s = .next t ∧ (t.watch.get w).tripped = true ∧ (t.watch.get w).armed = false ∧
      (t.watch.get w).window = none ∧ (t.watch.get w).latch = ((s.watch.get w).latch || c.drop.isSome) ∧
      (∀ l, c.drop = some l → t.permits.get l = false) ∧
      (∀ lv n, c.level = some lv → related = some n → 1 ≤ n → n ≤ 64 →
        ∃ h ∈ (sectionRec t n).data.holds, h.source = watchHoldSource w ∧ h.level = lv ∧ h.time = stampTime s) ∧
      (∃ all, .watchTripped w true c.source v (heldSection c related) c.level c.drop ∈ all ∧
        (∀ lv n, c.level = some lv → related = some n → ∃ eff, .holdChanged n (watchHoldSource w) (some lv) eff ∈ all) ∧
        Told (triggerBase g s) all s t) ∧
      PermitsExact t := by
  intro c related
  obtain ⟨hwatch, hconfig, htime, hsize⟩ := h.found ht
  have hrelated : relatedSection a.st c.source = related :=
    relatedSection_congr (ht.frame .session (by simp)) (ht.frame .grout (by simp)) (ht.frame .rig (by simp)) _
  have htrip : a.tripWatch w v = (actedEvent a w).raise
      (.watchTripped w true c.source v (heldSection c related) c.level c.drop) := by
    rw [tripWatch_action v ((watchSuccessor_congr hconfig w).trans hnone), actionTrip_eq, hconfig, hrelated]
  have hafter := ht.after
  have hgrows := ht.rest
  rw [htrip] at hafter hgrows
  have hchannel := h.ends hafter (actedEvent_channel a w)
  rw [hwatch, hconfig] at hchannel
  obtain ⟨-, harmed, htripped, -, hwindow, hlatch⟩ := commit_flags hchannel
  have hnotice := h.grows _ (hgrows _ (raised_self (actedEvent a w) _))
  have hrow : tripIn w true g s = some e := by
    rw [tripIn, h.event]
    exact if_pos (raised_of_mem hnotice (by simp [tripsWatch]))
  refine ⟨commit e, ?_, htripped, harmed, hwindow, hlatch, fun l hl => ?_, fun lv n hlv hn h1 h64 => ?_,
    ⟨e.notices, hnotice, fun lv n hlv hn => ?_, h.told⟩, commit_exact e⟩
  · change occurs (tripIn w true g s) s = _
    rw [hrow]
    rfl
  · rw [commit_permits]
    refine lineUp_dropped (w := w) ?_ ?_
    · rw [hchannel]
      change ((s.watch.get w).latch || c.drop.isSome) = true
      rw [hl]
      simp
    · rw [h.configAfter, ht.config, h.config]
      exact hl
  · have hhold := (actedEvent_hold (e := a) (w := w) (lv := lv) (n := n) (by rw [hconfig]; exact hlv)
      (by rw [hconfig, hrelated]; exact hn)).1 h1 (by omega)
    have hend := h.holdsEnd hafter n
    rw [show (sectionRec ((actedEvent a w).raise _).st n) = sectionRec (actedEvent a w).st n from rfl, hhold] at hend
    have hmem : heldAt a.st (watchHoldSource w) lv none ∈
        ((sectionRec (commit e) n).data.holds.filter fun h => h.source = watchHoldSource w) := by
      rw [hend]
      exact List.mem_cons_self
    exact ⟨_, (List.mem_filter.1 hmem).1, rfl, rfl, htime⟩
  · obtain ⟨eff, heff⟩ := (actedEvent_hold (e := a) (w := w) (lv := lv) (n := n) (by rw [hconfig]; exact hlv)
      (by rw [hconfig, hrelated]; exact hn)).2
    exact ⟨eff, h.grows _ (hgrows _ (grows_raise (actedEvent a w) _ _ heff))⟩

/-- A step trip (R168). -/
theorem Triggering.steps (h : Triggering g s b fed e) (ht : Trips b (b.feedWatches fed) a w v) {q : WatchId}
    (hq : watchSuccessor s w = some q) (hoff : (s.watch.get q).armed = false) :
    ∃ t, exec (.watchStepTrip w g) s = .next t ∧ (t.watch.get w).tripped = true ∧ (t.watch.get w).armed = false ∧
      (t.watch.get w).latch = (s.watch.get w).latch ∧ (t.watch.get q).armed = (s.watch.get q).enabled ∧
      (t.watch.get q).tripped = (s.watch.get q).tripped ∧ (t.watch.get q).latch = (s.watch.get q).latch ∧
      Rested (t.watch.get w) ∧ Rested (t.watch.get q) ∧ (t.watch.get w).window = none ∧
      (let window := (s.config.watch.get q).chainWindow
      (s.watch.get q).enabled = true →
        (t.watch.get q).window = if window = 0 then none else some (window - secondsGone g s)) ∧
      (∀ n m, 1 ≤ n → n ≤ 64 → (m = w ∨ m = q) →
        ((sectionRec t n).data.holds.filter fun h => h.source = watchHoldSource m) =
          (sectionRec s n).data.holds.filter fun h => h.source = watchHoldSource m) ∧
      (∃ all, .watchTripped w false (s.config.watch.get w).source v none none none ∈ all ∧ Told (triggerBase g s) all s t) ∧
      PermitsExact t := by
  obtain ⟨hwatch, hconfig, -, -⟩ := h.found ht
  have hsucc : watchSuccessor b.st w = some q := (watchSuccessor_congr h.config w).trans hq
  obtain ⟨hqbefore, hqafter⟩ := ht.successor q hsucc (by rw [h.channels]; exact hoff)
  have htrip : a.tripWatch w v = (steppedEvent a w q).raise
      (.watchTripped w false (s.config.watch.get w).source v none none none) := by
    rw [tripWatch_step v ((watchSuccessor_congr hconfig w).trans hq), Ev.stepTrip, hconfig, steppedEvent, hconfig]
  have hafter := ht.after
  have hgrows := ht.rest
  rw [htrip] at hafter hgrows hqafter
  obtain ⟨hself, hnext⟩ := steppedEvent_channel a (watchSuccessor_ne hq)
  rw [hwatch] at hself
  rw [hqbefore.channel, h.channels, hconfig] at hnext
  have hw := h.ends hafter hself
  have hqe := h.ends hqafter hnext
  obtain ⟨-, harmed, htripped, -, hwindow, hlatch⟩ := commit_flags hw
  obtain ⟨-, hqarmed, hqtripped, -, hqwindow, hqlatch⟩ := commit_flags hqe
  have hnotice := h.grows _ (hgrows _ (raised_self (steppedEvent a w q) _))
  have hrow : tripIn w false g s = some e := by
    rw [tripIn, h.event]
    exact if_pos (raised_of_mem hnotice (by simp [tripsWatch]))
  have hholds : ∀ n m, (m = w ∨ m = q) →
      ((sectionRec (commit e) n).data.holds.filter fun h => h.source = watchHoldSource m) =
        (sectionRec s n).data.holds.filter fun h => h.source = watchHoldSource m := by
    intro n m hm
    have hheld : HoldsOfSame (watchHoldSource m) s a.st := by
      refine (h.holds m).trans ?_
      rcases hm with rfl | rfl
      · exact ht.before.holds
      · exact hqbefore.holds
    have hend : HoldsOfSame (watchHoldSource m) (steppedEvent a w q).st (commit e) := by
      rcases hm with rfl | rfl
      · exact h.holdsEnd hafter
      · exact h.holdsEnd hqafter
    exact (hheld.trans ((HoldsOfSame.of_same (steppedEvent_sections a w q)).trans hend)) n
  cases hen : (s.watch.get q).enabled with
  | true =>
    have harm : (s.watch.get q).armAs (s.config.watch.get q).chainWindow =
        { s.watch.get q with
          armed := true, count := 0, history := []
          window := if (s.config.watch.get q).chainWindow = 0 then none else some (s.config.watch.get q).chainWindow } :=
      if_pos hen
    rw [harm] at hqarmed hqtripped hqwindow hqlatch hqe
    refine ⟨commit e, ?_, htripped, harmed, hlatch, hqarmed, hqtripped, hqlatch,
      commit_rested_idle (.inl (by rw [hw]; rfl)), commit_rested (by rw [hqe]; exact ⟨rfl, rfl⟩), hwindow, fun _ => ?_,
      fun n m _ _ hm => hholds n m hm, ⟨e.notices, hnotice, h.told⟩, commit_exact e⟩
    · change occurs (tripIn w false g s) s = _
      rw [hrow]
      rfl
    · refine hqwindow.trans ?_
      dsimp only
      split <;> rfl
  | false =>
    have harm : (s.watch.get q).armAs (s.config.watch.get q).chainWindow = s.watch.get q :=
      if_neg (by simp [hen])
    rw [harm] at hqarmed hqtripped hqwindow hqlatch hqe
    refine ⟨commit e, ?_, htripped, harmed, hlatch, hqarmed.trans hoff, hqtripped, hqlatch,
      commit_rested_idle (.inl (by rw [hw]; rfl)), commit_rested_idle (.inr (by rw [hqe]; exact hen)), hwindow,
      fun hon => absurd hon (by simp), fun n m _ _ hm => hholds n m hm, ⟨e.notices, hnotice, h.told⟩, commit_exact e⟩
    change occurs (tripIn w false g s) s = _
    rw [hrow]
    rfl

end

/-- Settles O56: a channel that is due trips where nothing before it in the event touched it, and nothing after it does. -/
theorem channelsTripOnPersistence : Obligations.ChannelsTripOnPersistence := by
  intro g s u fed w v hz hfed c he hf hk hv hh hp hpred
  obtain ⟨b, e, rfl, htriggering⟩ := fedAt_triggering hfed
  have hconfig := htriggering.config
  have hchannels := htriggering.channels
  obtain ⟨a, ht⟩ : ∃ a, Trips b (b.feedWatches fed) a w v := by
    refine feedWatches_trips he (by rw [hconfig]; exact hf) (by rw [hconfig]; exact hk) (by rw [hconfig]; exact hv)
      (by rw [hconfig]; exact hh) (by rw [hconfig]; exact hp) fun q hq => ?_
    rw [hchannels]
    exact hpred q ((watchSuccessor_congr hconfig q).symm.trans hq)
  have hsize : s.sections.length = 64 := hz.inShape.len
  exact ⟨fun hnone => htriggering.acts ht hsize hnone, fun q hq hoff => htriggering.steps ht hq hoff⟩

end Sys2Proof.Machine
end

section
/-! SUPPORT. The open test in a sample set: how it reaches the stressing engine, and how the state at the end of the set
follows from what the engine did (R128, R134). -/

namespace Sys2Proof.Machine

section
variable {x : SampleIn} {s : State} {e : Ev} {y : Session} {r : AnchorRec} {res : TestResult} {p : Pool}
  {items : List Item} {ns : List Notice}

/-! ## To the engine -/

theorem watchedEvent_find {a : AnchorId} (h : ∀ l c, s.grout.get l = some c → c.anchor ≠ a) :
    findAnchor (watchedEvent x s).st a = findAnchor s a := by
  have hfed : (watchedEvent x s).st.anchors = (monitoredEvent x s).st.anchors :=
    feedWatches_frame (monitoredEvent x s) fedBySample .anchors (by simp)
  calc findAnchor (watchedEvent x s).st a
      = findAnchor (monitoredEvent x s).st a := by rw [findAnchor, findAnchor, hfed]
    _ = findAnchor ((beforeLine x s .b).judgeLine .b).st a := rfl
    _ = findAnchor (beforeLine x s .b).st a :=
        judgeLine_find_other fun d hd => h .b d ((beforeLine_grout x s .b).symm.trans hd)
    _ = findAnchor s a := beforeLine_find fun m d _ hd => h m d hd

/-- The open test reaches the engine as it stood. -/
theorem watched_running (hs : s.session = some y) (hf : findAnchor s y.anchor = some r) (hr : r.result = some res)
    (hg : ∀ l c, s.grout.get l = some c → c.anchor ≠ y.anchor) :
    Running (watchedEvent x s).st (watchedEvent x s) y r res s.pool (watchedEvent x s).dirty (watchedEvent x s).notices := by
  have hpool : (watchedEvent x s).st.pool = s.pool := watchedEvent_frame x s .pool (by simp)
  rw [← hpool]
  exact Running.start ((watchedEvent_frame x s .session (by simp)).trans hs) ((watchedEvent_find hg).trans hf) hr

theorem watchedEvent_schedule (x : SampleIn) (s : State) : (watchedEvent x s).st.schedule = s.schedule :=
  watchedEvent_frame x s .schedule (by simp)

theorem watchedEvent_stamp (x : SampleIn) (s : State) : stampTime (watchedEvent x s).st = stampTime s := by
  rw [stampTime, stampTime, show (watchedEvent x s).st.clock = s.clock from watchedEvent_frame x s .clock (by simp)]

/-! ## From the engine to the end of the set -/

theorem sampleEvent_afterSession (x : SampleIn) (s : State) :
    OnlyChanges [.clock, .time, .watch, .sections] (watchedEvent x s).judgeSession.st (sampleEvent x s).st := tick_frame _

theorem sampleEvent_notices (x : SampleIn) (s : State) :
    (sampleEvent x s).notices = (watchedEvent x s).judgeSession.notices := by
  rw [sampleEvent, Ev.mod_notices]

/-- Notices raised in a sample set are told. -/
theorem sampleSet_tellsAll {ns : List Notice} (h : ∀ n ∈ ns, n ∈ (sampleEvent x s).notices) :
    Tells ns s (commit (sampleEvent x s)) := by
  have hports : (sampleEvent x s).st.ports = s.ports := sampleEvent_frame x s .ports (by simp)
  have htold := commit_told (sampleEvent x s) s (sampleEvent_frame x s .permits (by simp))
  refine ⟨(sampleEvent x s).notices, h, ?_⟩
  rwa [hports] at htold

/-- The state at the end of a sample set in which the engine leaves the session open. -/
theorem Running.sampled (h : Running (watchedEvent x s).st e y r res p items ns)
    (he : (watchedEvent x s).judgeSession = e) :
    (commit (sampleEvent x s)).session = some y ∧ (commit (sampleEvent x s)).pool = p ∧
      findAnchor (commit (sampleEvent x s)) y.anchor = some r ∧
      (∀ z, stepInfo (commit (sampleEvent x s)) z = stepInfo e.st z) ∧ ∀ n ∈ ns, n ∈ (sampleEvent x s).notices := by
  have htick := sampleEvent_afterSession x s
  rw [he] at htick
  have hanchors : (commit (sampleEvent x s)).anchors = e.st.anchors :=
    (commit_anchors _).trans (htick .anchors (by simp))
  have hschedule : (commit (sampleEvent x s)).schedule = e.st.schedule :=
    (commit_schedule _).trans (htick .schedule (by simp))
  refine ⟨?_, ?_, ?_, stepInfo_congr hschedule hanchors, fun n hn => ?_⟩
  · exact (commit_session _).trans ((htick .session (by simp)).trans h.session)
  · exact (commit_pool _).trans ((htick .pool (by simp)).trans h.pool)
  · rw [findAnchor, hanchors]
    exact h.record
  · rw [sampleEvent_notices, he, h.notices]
    exact hn

/-- The record as a verdict leaves it (R137, R139, R155). -/
def endedRecord (r : AnchorRec) (res : TestResult) (v : Verdict) : AnchorRec :=
  { r with stage := verdictStage v, reserved := 0, result := some (judgedResult v res) }

/-- The change of stage with which a verdict ends the session. -/
theorem Running.ended (h : Running s e y r res p items ns) (v : Verdict) :
    e.endWith v = ((e.mod closeSession).changeStage r (endedRecord r res v)).raise
      (.sessionEnded y.anchor (.verdict v y.relocks)) := by
  rw [h.endWith_eq v, ← findAnchor_id h.record]
  rfl

/-- The state at the end of a sample set in which the engine ends the session. -/
theorem Running.sampledEnd (h : Running (watchedEvent x s).st e y r res p items ns) {v : Verdict}
    (he : (watchedEvent x s).judgeSession = e.endWith v) :
    (commit (sampleEvent x s)).session = none ∧ (commit (sampleEvent x s)).pool = { p with reserved := [] } ∧
      (commit (sampleEvent x s)).permits.jack = false ∧
      findAnchor (commit (sampleEvent x s)) y.anchor = some (endedRecord r res v) ∧
      (∀ n ∈ ns ++ [.stageChanged y.anchor (some r.stage) (verdictStage v), .sessionEnded y.anchor (.verdict v y.relocks)],
        n ∈ (sampleEvent x s).notices) := by
  have htick := sampleEvent_afterSession x s
  have hid : r.id = y.anchor := findAnchor_id h.record
  obtain ⟨g, hg⟩ : ∃ g, g = (e.mod closeSession).changeStage r (endedRecord r res v) := ⟨_, rfl⟩
  have hframe : OnlyChanges [.anchors, .cure, .sections] (closeSession e.st) g.st := by
    rw [hg]
    exact changeStage_frame (e.mod closeSession) r _
  have hanchors : g.st.anchors = replaceAnchor e.st.anchors (endedRecord r res v) := by
    rw [hg]
    exact changeStage_anchors (e.mod closeSession) r _
  have hjudged : (watchedEvent x s).judgeSession = g.raise (.sessionEnded y.anchor (.verdict v y.relocks)) := by
    rw [he, h.ended v, hg]
  rw [hjudged] at htick
  have hsession : (sampleEvent x s).st.session = none := (htick .session (by simp)).trans (hframe .session (by simp))
  have hfound := (findAnchor_written (t := g.st) (new := endedRecord r res v) h.record rfl hanchors).1
  refine ⟨(commit_session _).trans hsession, ?_, commit_jack_down hsession, ?_, fun n hn => ?_⟩
  · refine (commit_pool _).trans ((htick .pool (by simp)).trans ((hframe .pool (by simp)).trans ?_))
    rw [closeSession, h.pool]
  · rw [hid] at hfound
    rw [findAnchor, commit_anchors, show (sampleEvent x s).st.anchors = g.st.anchors from htick .anchors (by simp)]
    exact hfound
  · have hnotices : g.notices = e.notices ++ stageNotices (closeSession e.st) g.st r (endedRecord r res v) := by
      rw [hg]
      exact changeStage_notices (e.mod closeSession) r (endedRecord r res v) _ (by rw [show (endedRecord r res v).id = y.anchor from hid]; exact h.record) rfl
    rw [sampleEvent_notices, hjudged, Ev.raise_notices, hnotices, h.notices]
    simp only [List.mem_append, List.mem_cons, List.not_mem_nil, or_false] at hn ⊢
    rcases hn with hn | rfl | rfl
    · exact .inl (.inl hn)
    · refine .inl (.inr (List.mem_append_right _ ?_))
      rw [← hid]
      exact List.mem_cons_self
    · exact .inr rfl

end

end Sys2Proof.Machine
end

section
/-! SUPPORT. The operations of the engine on a hold (R128 to R132, R147, R148): one rule for each on a running test. -/

namespace Sys2Proof.Machine

/-! ## Reserved entries put back (R130, R160) -/

theorem mem_insertNat (n m : Nat) (l : List Nat) : m ∈ insertNat n l ↔ m = n ∨ m ∈ l := by
  induction l with
  | nil => simp [insertNat]
  | cons k rest ih =>
    rw [insertNat]
    split
    · simp
    · split
      next h => simp [h]
      next => simp [ih, or_left_comm]

theorem insertNat_rising (n : Nat) {l : List Nat} (h : l.Pairwise (· < ·)) : (insertNat n l).Pairwise (· < ·) := by
  induction l with
  | nil => simp [insertNat]
  | cons k rest ih =>
    obtain ⟨hk, hrest⟩ := List.pairwise_cons.1 h
    rw [insertNat]
    split
    next hnk => exact List.pairwise_cons.2 ⟨fun m hm => by
        rcases List.mem_cons.1 hm with rfl | hm
        · exact hnk
        · exact hnk.trans (hk m hm), h⟩
    next hnk =>
      split
      · exact h
      next hne => exact List.pairwise_cons.2 ⟨fun m hm => by
          rcases (mem_insertNat n m rest).1 hm with rfl | hm
          · omega
          · exact hk m hm, ih hrest⟩

/-- The reserved entries with others put among them. -/
def putBack (back reserved : List Nat) : List Nat := back.foldl (fun acc i => insertNat i acc) reserved

theorem mem_putBack (back : List Nat) : ∀ (reserved : List Nat) (j : Nat),
    j ∈ putBack back reserved ↔ j ∈ reserved ∨ j ∈ back := by
  induction back with
  | nil => simp [putBack]
  | cons i rest ih =>
    intro reserved j
    have hstep := ih (insertNat i reserved) j
    rw [mem_insertNat] at hstep
    refine hstep.trans ?_
    simp only [List.mem_cons]
    tauto

theorem putBack_rising (back : List Nat) : ∀ {reserved : List Nat}, reserved.Pairwise (· < ·) →
    (putBack back reserved).Pairwise (· < ·) := by
  induction back with
  | nil => exact fun h => h
  | cons i rest ih => exact fun h => ih (insertNat_rising i h)

/-- The pool, the result and the record with the readings of a voided attempt returned (R130). -/
def returnedPool (p : Pool) (back : List Nat) : Pool :=
  { reserved := putBack back p.reserved, used := p.used.filter fun e => !back.contains e.index }

def returnedRecord (r : AnchorRec) (res : TestResult) (back : List Nat) : AnchorRec :=
  { r with
    reserved := r.reserved + back.length
    result := some { res with readings := res.readings.take (res.readings.length - back.length) } }

section
variable {s : State} {e : Ev} {y : Session} {r : AnchorRec} {res : TestResult} {p : Pool} {items : List Item}
  {ns : List Notice}

theorem Running.returnReadings (h : Running s e y r res p items ns) (back : List Nat) :
    Running s (e.returnReadings back) { y with reservation := y.reservation + back.length } (returnedRecord r res back)
      { res with readings := res.readings.take (res.readings.length - back.length) } (returnedPool p back)
      (items ++ [.image r.imageSlot]) ns := by
  have hpool : returnedPool e.st.pool back = returnedPool p back := by rw [h.pool]
  have hreturned : Running s
      ((e.mod fun s =>
        { s with pool := { reserved := back.foldl (fun acc i => insertNat i acc) s.pool.reserved
                           used := s.pool.used.filter fun r => !back.contains r.index } }).changeSession fun x =>
        { x with reservation := x.reservation + back.length })
      { y with reservation := y.reservation + back.length } r res (returnedPool p back) items ns := by
    refine ⟨congrArg (Option.map _) h.session, h.record, h.result, hpool, h.items, h.notices,
      h.frame.step (qs := [.session, .pool]) (fun x hx => ?_) (by simp), h.others, h.rest⟩
    cases x <;> simp_all [SamePart, Ev.changeSession]
  rw [Ev.returnReadings, h.openTest]
  exact hreturned.write (new := returnedRecord r res back) rfl rfl

/-! ## Creep (R147, R148) -/

/-- The result with the deciding creep value, on a CRITICAL frame (R148). -/
def creepWritten (critical : Bool) (k : Int) (res : TestResult) : TestResult :=
  if critical then { res with creep := some k } else res

theorem Running.writeCreep (h : Running s e y r res p items ns) (critical : Bool) (k : Int) :
    ∃ items', Running s (e.writeCreep critical k) y { r with result := some (creepWritten critical k res) }
      (creepWritten critical k res) p items' ns := by
  cases critical with
  | true => exact ⟨_, h.changeResult fun t => { t with creep := some k }⟩
  | false =>
    have hrec : { r with result := some (creepWritten false k res) } = r := by
      rw [creepWritten, if_neg (by simp), ← h.result]
    rw [hrec]
    exact ⟨_, h⟩

theorem changeTop_cons {y : Session} {top : StageFrame} {rest : List StageFrame} (h : y.stages = top :: rest)
    (f : StageFrame → StageFrame) : changeTop y f = { y with stages := f top :: rest } := by rw [changeTop, h]

theorem Running.changeTop (h : Running s e y r res p items ns) {top : StageFrame} {rest : List StageFrame}
    (hy : y.stages = top :: rest) (f : StageFrame → StageFrame) :
    Running s (e.changeSession fun x => Machine.changeTop x f) { y with stages := f top :: rest } r res p items ns :=
  h.changeSession (changeTop_cons hy f) rfl

/-- The session as a completed hold leaves it (R132). -/
def completedSession (sch : ScheduleData) (y : Session) (top : StageFrame) (rest : List StageFrame) : Session :=
  steppedOn sch { y with stages := { top with holdDone := true } :: rest }

/-- A hold complete without a deciding value (R132). -/
theorem Running.completeHold (h : Running s e y r res p items ns) {top : StageFrame} {rest : List StageFrame}
    (hy : y.stages = top :: rest) (frame : StageFrame) :
    Running s (e.completeHold frame none) (completedSession s.schedule y top rest) r res p items
      (ns ++ [.holdComplete y.anchor frame.target frame.holdReadings.length frame.ks frame.ks2 frame.rehold,
        .nextStep y.anchor (stepInfo (e.completeHold frame none).st (completedSession s.schedule y top rest))]) := by
  have hcomplete : e.completeHold frame none =
      ((e.changeSession fun y => Machine.changeTop y fun f => { f with holdDone := true }).raise
        (.holdComplete y.anchor frame.target frame.holdReadings.length frame.ks frame.ks2 frame.rehold)).moveOn := by
    simp only [Ev.completeHold, h.session]
  have hmoved := ((h.changeTop hy fun f => { f with holdDone := true }).raise
    (.holdComplete y.anchor frame.target frame.holdReadings.length frame.ks frame.ks2 frame.rehold)).moveOn
  rw [hcomplete]
  rw [List.append_assoc] at hmoved
  exact hmoved

/-- A hold complete by a creep value (R131, R132, R148). -/
theorem Running.completeHoldBy (h : Running s e y r res p items ns) {top : StageFrame} {rest : List StageFrame}
    (hy : y.stages = top :: rest) (frame : StageFrame) (k : Int) :
    ∃ items', Running s (e.completeHold frame (some k)) (completedSession s.schedule y top rest)
      { r with result := some (creepWritten frame.critical k res) } (creepWritten frame.critical k res) p items'
      (ns ++ [.holdComplete y.anchor frame.target frame.holdReadings.length frame.ks frame.ks2 frame.rehold,
        .nextStep y.anchor
          (stepInfo (e.completeHold frame (some k)).st (completedSession s.schedule y top rest))]) := by
  obtain ⟨items', hw⟩ := h.writeCreep frame.critical k
  exact ⟨items', hw.completeHold hy frame⟩

end

/-! ## What a decision leaves alone (R131, R132) -/

theorem completeHold_poolSame (e : Ev) (top : StageFrame) (k : Option Int) : (e.completeHold top k).st.pool = e.st.pool := by
  have hrest : ∀ g : Ev, g.st.pool = e.st.pool → (match g.st.session with
      | none => g
      | some x =>
        ((g.changeSession fun y => changeTop y fun f => { f with holdDone := true }).raise
          (.holdComplete x.anchor top.target top.holdReadings.length top.ks top.ks2 top.rehold)).moveOn).st.pool = e.st.pool := by
    intro g hg
    split
    · exact hg
    · exact (moveOn_frame (Ev.raise _ _) .pool (by simp)).trans hg
  cases k with
  | none => exact hrest e rfl
  | some k => exact hrest _ (writeCreep_frame e _ k .pool (by simp))

theorem endWith_used (e : Ev) (v : Verdict) : (e.endWith v).st.pool.used = e.st.pool.used := by
  unfold Ev.endWith
  split
  · rfl
  next o _ =>
    have hpool : ∀ new, ((e.mod closeSession).changeStage o.rec_ new).st.pool = (closeSession e.st).pool := fun new =>
      changeStage_frame (e.mod closeSession) o.rec_ new .pool (by simp)
    rw [Ev.raise_st, hpool]
    rfl

theorem failCreep_used (e : Ev) (top : StageFrame) (k : Int) : (e.failCreep top k).st.pool.used = e.st.pool.used :=
  (endWith_used _ _).trans (congrArg Pool.used (writeCreep_frame e _ k .pool (by simp)))

theorem decideAtD_used (e : Ev) (top : StageFrame) (h : HoldCtx) :
    (e.decideAtD top h).st.pool.used = e.st.pool.used := by
  unfold Ev.decideAtD
  split
  · rw [completeHold_poolSame]
  · dsimp only
    split
    · rw [completeHold_poolSame]
      rfl
    · split
      · rfl
      · exact failCreep_used _ _ _

theorem decideAt10D_used (e : Ev) (top : StageFrame) (h : HoldCtx) :
    (e.decideAt10D top h).st.pool.used = e.st.pool.used := by
  unfold Ev.decideAt10D
  dsimp only
  split
  · rw [completeHold_poolSame]
    rfl
  · exact failCreep_used _ _ _

/-! ## A reading point reached (R129) -/

/-- The decision at a reading point, after its reading. -/
def decidedEvent (g : Ev) (top : StageFrame) (h : HoldCtx) : Ev :=
  if h.nextPoint = 5 then g.decideAtD top h else if h.nextPoint = 9 then g.decideAt10D top h else g

theorem decidedEvent_used (g : Ev) (top : StageFrame) (h : HoldCtx) :
    (decidedEvent g top h).st.pool.used = g.st.pool.used := by
  unfold decidedEvent
  split
  · exact decideAtD_used g top h
  · split
    · exact decideAt10D_used g top h
    · rfl

theorem decidedEvent_grows (g : Ev) (top : StageFrame) (h : HoldCtx) : g.Grows (decidedEvent g top h) := by
  unfold decidedEvent
  split
  · exact decideAtD_grows g top h
  · split
    · exact decideAt10D_grows g top h
    · exact .refl g

/-- The hold context in a sample set in which the hold runs (R128). -/
def ranHold (h : HoldCtx) : HoldCtx := { h with begun := true, elapsed := h.elapsed + 1, pause := 0 }

/-- The session with a hold reading taken (R129). -/
def readSession (y : Session) (top : StageFrame) (rest : List StageFrame) (h : HoldCtx) (i : Nat) : Session :=
  { y with
    stages := { top with holdReadings := top.holdReadings ++ [i] } :: rest
    phase := .holding { ranHold h with nextPoint := h.nextPoint + 1 }
    reservation := y.reservation - 1 }

section
variable {s : State} {e : Ev} {y : Session} {r : AnchorRec} {res : TestResult} {p : Pool} {items : List Item}
  {ns : List Notice}

/-- The reading of a point, its notice, and then the decision. -/
theorem Running.reachPoint (h : Running s e y r res p items ns) {top : StageFrame} {rest : List StageFrame} {c : HoldCtx}
    {i : Nat} {more : List Nat} (hy : y.stages = top :: rest) (hi : p.reserved = i :: more)
    (hpoint : c.elapsed + 1 = pointPeriods c.duration c.nextPoint) :
    ∃ g items', e.runHold y c = decidedEvent g { top with holdReadings := top.holdReadings ++ [i] } (ranHold c) ∧
      Running s g (readSession y top rest c i) (recordReading r res i) (withReading res i)
        { reserved := more, used := tablePut p.used i (readingEntry r res (Machine.readingNow s .holdPoint)) } items'
        (ns ++ [.holdReading y.anchor top.target c.nextPoint (pointSeconds c.duration c.nextPoint)
          (channelValue s.meas .load) s.meas.extension]) := by
  have hran : Running s (e.changeSession fun x => setHoldCtx x (ranHold c)) { y with phase := .holding (ranHold c) } r res p
      items ns := h.changeSession rfl rfl
  obtain ⟨e1, he1⟩ : ∃ e1, e1 = e.changeSession fun x => setHoldCtx x (ranHold c) := ⟨_, rfl⟩
  rw [← he1] at hran
  have hread := hran.takeReading hi (Machine.readingNow e1.st .holdPoint)
  rw [hran.readingNow] at hread
  have hframe := hread.changeSession (f := fun x => setHoldCtx
      (Machine.changeTop x fun f => { f with holdReadings := f.holdReadings ++ [i] })
      { ranHold c with nextPoint := c.nextPoint + 1 }) (y' := readSession y top rest c i)
    (by rw [changeTop_cons (y := { y with phase := .holding (ranHold c), reservation := y.reservation - 1 }) hy]; rfl) rfl
  obtain ⟨e2, he2⟩ : ∃ e2, e2 = (e1.takeReading (Machine.readingNow s .holdPoint)).changeSession fun x => setHoldCtx
      (Machine.changeTop x fun f => { f with holdReadings := f.holdReadings ++ [i] })
      { ranHold c with nextPoint := c.nextPoint + 1 } := ⟨_, rfl⟩
  rw [← he2] at hframe
  refine ⟨_, _, ?_, hframe.raise _⟩
  have hhead : e.st.pool.reserved.head? = some i := by rw [h.pool, hi]; rfl
  have hrun : e.runHold y c = e1.reachPoint y (ranHold c) i := by
    rw [he1]
    unfold Ev.runHold
    rw [hhead]
    exact if_pos hpoint
  have htop : e2.st.session.bind (·.stages.head?) = some { top with holdReadings := top.holdReadings ++ [i] } := by
    rw [hframe.session]
    rfl
  have hreach : e1.reachPoint y (ranHold c) i = decidedEvent
      (e2.raise (.holdReading y.anchor top.target c.nextPoint (pointSeconds c.duration c.nextPoint)
        (channelValue e2.st.meas .load) e2.st.meas.extension))
      { top with holdReadings := top.holdReadings ++ [i] } (ranHold c) := by
    unfold Ev.reachPoint
    dsimp only
    rw [hran.readingNow]
    rw [show (ranHold c).nextPoint = c.nextPoint from rfl, ← he2, htop]
    rfl
  rw [hrun, hreach, hframe.meas]

end

end Sys2Proof.Machine
end

section
/-! SUPPORT. A hold judged at a sample set (R128 to R132, R147, R148). -/

namespace Sys2Proof.Machine

/-! ## The decisions at D and at 10D (R131, R132) -/

section
variable {s : State} {e : Ev} {y : Session} {r : AnchorRec} {res : TestResult} {p : Pool} {items : List Item}
  {ns : List Notice} {top : StageFrame} {rest : List StageFrame} {c : HoldCtx} {k : Int}

/-- A limit of 0 decides nothing: the hold is complete (R131). -/
theorem Running.decideAtD_free (h : Running s e y r res p items ns) (hy : y.stages = top :: rest) (hl : c.limit = 0) :
    Running s (e.decideAtD top c) (completedSession s.schedule y top rest) r res p items
      (ns ++ [.holdComplete y.anchor top.target top.holdReadings.length top.ks top.ks2 top.rehold,
        .nextStep y.anchor (stepInfo (e.decideAtD top c).st (completedSession s.schedule y top rest))]) := by
  have hdecide : e.decideAtD top c = e.completeHold top none := if_pos hl
  rw [hdecide]
  exact h.completeHold hy top

/-- The event in which a decision has its creep value in the frame. -/
def valued (e : Ev) (f : StageFrame → StageFrame) : Ev := e.changeSession fun x => changeTop x f

theorem decideAtD_eq (hl : c.limit ≠ 0) (hk : creepBetween e.st top 4 0 = k) :
    e.decideAtD top c =
      if creepPasses c.limit k then
        (valued e fun f => { f with ks := some k }).completeHold { top with ks := some k } (some k)
      else if c.extendable ∧ top.creepExtended = false then
        valued (valued e fun f => { f with ks := some k }) fun f => { f with creepExtended := true }
      else (valued e fun f => { f with ks := some k }).failCreep top k := by
  subst hk
  exact if_neg hl

theorem decideAt10D_eq (hk : creepBetween e.st top 8 4 = k) :
    e.decideAt10D top c =
      if creepPasses c.limit k then
        (valued e fun f => { f with ks2 := some k }).completeHold { top with ks2 := some k } (some k)
      else (valued e fun f => { f with ks2 := some k }).failCreep top k := by
  subst hk
  rfl

theorem creepPasses_iff (limit : Nat) (k : Int) : creepPasses limit k = true ↔ k ≤ limit := by simp [creepPasses]

/-- A failed decision ends the session (R148). -/
theorem Running.failCreep (h : Running s e y r res p items ns) (frame : StageFrame) (k : Int) :
    ∃ f items', e.failCreep frame k = f.endWith .failCreep ∧
      Running s f y { r with result := some (creepWritten frame.critical k res) } (creepWritten frame.critical k res) p
        items' ns := by
  obtain ⟨items', hw⟩ := h.writeCreep frame.critical k
  exact ⟨_, items', rfl, hw⟩

end

/-! ## The state at the end of the set -/

section
variable {x : SampleIn} {s : State} {e : Ev} {y : Session} {r : AnchorRec} {res : TestResult} {p : Pool}
  {items : List Item} {ns : List Notice} {top : StageFrame} {rest : List StageFrame}

/-- The engine's part of the sample set, while the session holds. -/
theorem judgeSession_holding {h : HoldCtx} (hs : e.st.session = some y) (hp : y.phase = .holding h)
    (hy : y.stages = top :: rest) : e.judgeSession = e.judgeHold y top h := by
  simp only [Ev.judgeSession, hs, hp, hy]

/-- A sample set that leaves the hold unfinished. -/
theorem Running.keeps (h : Running (watchedEvent x s).st e y r res p items ns) (he : (watchedEvent x s).judgeSession = e) :
    ∃ t, exec (.sampleSet x) s = .next t ∧ t.session = some y ∧ t.pool = p ∧ findAnchor t y.anchor = some r ∧ PermitsExact t ∧
      OnlyChanges (sampleParts ++ endParts) s t := by
  obtain ⟨hsession, hpool, hrecord, -, -⟩ := h.sampled he
  exact ⟨_, exec_sampleSet x s, hsession, hpool, hrecord, commit_exact _,
    (commit_frame _ s _ (sampleEvent_frame x s)).mono (by simp)⟩

/-- A sample set that completes the hold, at a step with a next one. -/
theorem Running.completes {z : Session} {j : Nat} {target n rehold : Nat} {ks ks2 : Option Int}
    (h : Running (watchedEvent x s).st e (completedSession (watchedEvent x s).st.schedule z top rest) r res p items
      (ns ++ [.holdComplete z.anchor target n ks ks2 rehold,
        .nextStep z.anchor (stepInfo e.st (completedSession (watchedEvent x s).st.schedule z top rest))]))
    (he : (watchedEvent x s).judgeSession = e) (hj : (stepAt s.schedule z.step).next = some j) :
    let t := commit (sampleEvent x s)
    let done : Session :=
      { z with stages := { top with holdDone := true } :: rest, step := j, phase := phaseAt (stepAt s.schedule j) }
    t.session = some done ∧ t.pool = p ∧ findAnchor t z.anchor = some r ∧
      Tells [.holdComplete z.anchor target n ks ks2 rehold, .nextStep z.anchor (stepInfo t done)] s t := by
  intro t done
  have hdone : completedSession (watchedEvent x s).st.schedule z top rest = done := by
    rw [watchedEvent_schedule, completedSession, steppedOn_next (y := { z with stages := { top with holdDone := true } :: rest }) hj]
  rw [hdone] at h
  obtain ⟨hsession, hpool, hrecord, hinfo, hall⟩ := h.sampled he
  refine ⟨hsession, hpool, hrecord, sampleSet_tellsAll fun m hm => hall m ?_⟩
  rw [show stepInfo t done = stepInfo e.st done from hinfo done] at hm
  exact List.mem_append_right _ hm

/-- A sample set that ends the session with a fail verdict. -/
theorem Running.sampledFail (h : Running (watchedEvent x s).st e y r res p items ns) {v : Verdict} (hv : v ≠ .pass)
    (he : (watchedEvent x s).judgeSession = e.endWith v) :
    let t := commit (sampleEvent x s)
    t.session = none ∧ t.pool.reserved = [] ∧ t.permits.jack = false ∧
      findAnchor t y.anchor = some
        { r with stage := .failed, reserved := 0, result := some { res with verdict := some v } } ∧
      Tells (ns ++ [.stageChanged y.anchor (some r.stage) .failed, .sessionEnded y.anchor (.verdict v y.relocks)]) s t := by
  intro t
  obtain ⟨hsession, hpool, hjack, hrecord, hall⟩ := h.sampledEnd he
  rw [endedRecord, verdictStage_fail hv, judgedResult_fail hv] at hrecord
  rw [verdictStage_fail hv] at hall
  refine ⟨hsession, by rw [hpool], hjack, hrecord, sampleSet_tellsAll hall⟩

end

/-! ## A reading point (R129) -/

section
variable {x : SampleIn} {s : State} {y : Session} {r : AnchorRec} {res : TestResult} {top : StageFrame}
  {rest : List StageFrame} {h : HoldCtx}

theorem jackHold_runs {e : Ev} (hf : jackFaulted e.st.meas = false) (hp : (!lineUp e.st .jack) = false)
    (ho : inBand (channelValue e.st.meas .load) top.target (bandOf top.target y.captured.holdBand) = true) :
    e.judgeHold y top h = e.runHold y h := by
  simp only [Ev.judgeHold, hf, hp, ho, Bool.not_true, Bool.false_eq_true, if_false]

theorem outOfBand_eq (load target band : Nat) :
    (!inBand load target band) = decide (target + band < load ∨ load + band < target) := by
  rw [inBand, Bool.eq_iff_iff]
  simp only [Bool.not_eq_true', Bool.and_eq_false_iff, decide_eq_false_iff_not, decide_eq_true_eq]
  omega

/-- The entry with the reading just taken, and the others, as the decision reads them (R147). -/
theorem entryValues_taken {g u : State} {i : Nat} {more : List Nat} {used : List (Slot PoolEntry)} {b : ReadingBody}
    (hg : g.pool = { reserved := more, used := tablePut used i (readingEntry r res b) }) (hu : u.pool.used = used) :
    entryValues g i = (b.load, b.ext) ∧ ∀ a, a ≠ i → entryValues g a = entryValues u a := by
  refine ⟨?_, fun a ha => ?_⟩
  · rw [entryValues, hg, tableGet_put, if_pos rfl]
    rfl
  · rw [entryValues, entryValues, hg, hu, tableGet_put, if_neg ha]

end

end Sys2Proof.Machine
end

section
/-! SUPPORT. The clauses on a hold at a sample set, one lemma each (R128 to R132, R147, R148). -/

namespace Sys2Proof.Machine

theorem Tells.mono {ms ns : List Notice} {s t : State} (h : Tells ns s t) (hm : ∀ n ∈ ms, n ∈ ns) : Tells ms s t := by
  obtain ⟨all, hall, htold⟩ := h
  exact ⟨all, fun n hn => hall n (hm n hn), htold⟩

section
variable {x : SampleIn} {s : State} {y : Session} {r : AnchorRec} {res : TestResult} {top : StageFrame}
  {rest : List StageFrame} {h : HoldCtx} {d : List Item} {ns : List Notice}

theorem decidedEvent_ran (g : Ev) (frame : StageFrame) (h : HoldCtx) :
    decidedEvent g frame (ranHold h) =
      if h.nextPoint = 5 then g.decideAtD frame (ranHold h)
      else if h.nextPoint = 9 then g.decideAt10D frame (ranHold h) else g := rfl

/-- The reading of a point as the event holds it when the decision is made. -/
structure PointRead (x : SampleIn) (s : State) (y : Session) (r : AnchorRec) (res : TestResult) (top : StageFrame)
    (rest : List StageFrame) (h : HoldCtx) (i : Nat) (more : List Nat) (g : Ev) (items : List Item) (ns : List Notice) :
    Prop where
  judged : (watchedEvent x s).judgeSession =
    decidedEvent g { top with holdReadings := top.holdReadings ++ [i] } (ranHold h)
  running : Running (watchedEvent x s).st g (readSession y top rest h i) (recordReading r res i) (withReading res i)
    { reserved := more
      used := tablePut s.pool.used i (readingEntry r res (readingNow (watchedEvent x s).st .holdPoint)) } items ns
  told : .holdReading y.anchor top.target h.nextPoint (pointSeconds h.duration h.nextPoint)
    (channelValue (watchedEvent x s).st.meas .load) (watchedEvent x s).st.meas.extension ∈ ns

theorem pointRead {i : Nat} {more : List Nat}
    (hw : Running (watchedEvent x s).st (watchedEvent x s) y r res s.pool d ns) (hp : y.phase = .holding h)
    (hy : y.stages = top :: rest) (hi : s.pool.reserved = i :: more)
    (hrun : (watchedEvent x s).judgeHold y top h = (watchedEvent x s).runHold y h)
    (hpoint : h.elapsed + 1 = pointPeriods h.duration h.nextPoint) :
    ∃ g items ns', PointRead x s y r res top rest h i more g items ns' := by
  obtain ⟨g, items, hg, hrunning⟩ := hw.reachPoint hy hi hpoint
  refine ⟨g, items, _, ?_, hrunning, List.mem_append_right _ List.mem_cons_self⟩
  rw [judgeSession_holding hw.session hp hy, hrun, hg]

variable {i : Nat} {more : List Nat} {g : Ev} {items : List Item}

/-- What stands after a reading point, whatever its decision. -/
theorem PointRead.common (hr : PointRead x s y r res top rest h i more g items ns) :
    exec (.holdPointReading x) s = .next (commit (sampleEvent x s)) ∧
      Tells [.holdReading y.anchor top.target h.nextPoint (pointSeconds h.duration h.nextPoint)
        (channelValue (watchedEvent x s).st.meas .load) (watchedEvent x s).st.meas.extension] s (commit (sampleEvent x s)) ∧
      (commit (sampleEvent x s)).pool.used =
        tablePut s.pool.used i (readingEntry r res (readingNow (watchedEvent x s).st .holdPoint)) := by
  have hnotice : .holdReading y.anchor top.target h.nextPoint (pointSeconds h.duration h.nextPoint)
      (channelValue (watchedEvent x s).st.meas .load) (watchedEvent x s).st.meas.extension ∈ (sampleEvent x s).notices := by
    rw [sampleEvent_notices, hr.judged]
    refine decidedEvent_grows g _ _ _ ?_
    rw [hr.running.notices]
    exact hr.told
  refine ⟨sampleIn_occurs hnotice rfl, sampleSet_tells hnotice, ?_⟩
  have htick := sampleEvent_afterSession x s
  rw [hr.judged] at htick
  have hpool : (commit (sampleEvent x s)).pool = (decidedEvent g _ _).st.pool :=
    (commit_pool _).trans (htick .pool (by simp))
  rw [hpool, decidedEvent_used, hr.running.pool]

/-- A decision that completes the hold (R131, R132). -/
def Completed (x : SampleIn) (s : State) (y : Session) (r : AnchorRec) (more : List Nat) (rest : List StageFrame)
    (frame : StageFrame) (result : TestResult) : Prop :=
  ∀ j, (stepAt s.schedule y.step).next = some j →
    let t := commit (sampleEvent x s)
    let done : Session :=
      { y with stages := { frame with holdDone := true } :: rest, step := j, phase := phaseAt (stepAt s.schedule j)
               reservation := y.reservation - 1 }
    t.session = some done ∧ t.pool.reserved = more ∧
      findAnchor t y.anchor = some { r with reserved := r.reserved - 1, result := some result } ∧
      Tells [.holdComplete y.anchor frame.target frame.holdReadings.length frame.ks frame.ks2 frame.rehold,
        .nextStep y.anchor (stepInfo t done)] s t

/-- A decision that lets the hold go on (R131). -/
def GoesOn (x : SampleIn) (s : State) (y : Session) (r : AnchorRec) (more : List Nat) (rest : List StageFrame)
    (h : HoldCtx) (frame : StageFrame) (result : TestResult) : Prop :=
  let t := commit (sampleEvent x s)
  t.session = some
      { y with stages := frame :: rest, phase := .holding { ranHold h with nextPoint := h.nextPoint + 1 }
               reservation := y.reservation - 1 } ∧
    t.pool.reserved = more ∧
    findAnchor t y.anchor = some { r with reserved := r.reserved - 1, result := some result }

/-- A decision that ends the session (R148). -/
def CreepFailed (x : SampleIn) (s : State) (y : Session) (r : AnchorRec) (result : TestResult) : Prop :=
  let t := commit (sampleEvent x s)
  t.session = none ∧ t.pool.reserved = [] ∧ t.permits.jack = false ∧
    findAnchor t y.anchor = some
      { r with stage := .failed, reserved := 0, result := some { result with verdict := some .failCreep } } ∧
    Tells [.stageChanged y.anchor (some r.stage) .failed, .sessionEnded y.anchor (.verdict .failCreep y.relocks)] s t

/-- No decision stands at the point. -/
theorem PointRead.undecided (hr : PointRead x s y r res top rest h i more g items ns) (h5 : h.nextPoint ≠ 5)
    (h9 : h.nextPoint ≠ 9) :
    GoesOn x s y r more rest h { top with holdReadings := top.holdReadings ++ [i] } (withReading res i) := by
  have hj : (watchedEvent x s).judgeSession = g := by
    rw [hr.judged, decidedEvent_ran, if_neg h5, if_neg h9]
  obtain ⟨hsession, hpool, hrecord, -⟩ := hr.running.sampled hj
  exact ⟨hsession, by rw [hpool], hrecord⟩

/-- The decision at D under a limit of 0. -/
theorem PointRead.free (hr : PointRead x s y r res top rest h i more g items ns) (h5 : h.nextPoint = 5)
    (hl : h.limit = 0) :
    Completed x s y r more rest { top with holdReadings := top.holdReadings ++ [i] } (withReading res i) := by
  intro j hj
  have hjudged : (watchedEvent x s).judgeSession =
      g.decideAtD { top with holdReadings := top.holdReadings ++ [i] } (ranHold h) := by
    rw [hr.judged, decidedEvent_ran, if_pos h5]
  obtain ⟨hsession, hpool, hrecord, htells⟩ :=
    (hr.running.decideAtD_free (c := ranHold h) (y := readSession y top rest h i) rfl hl).completes hjudged hj
  exact ⟨hsession, by rw [hpool], hrecord, htells⟩

/-- A creep value that passes completes the hold. -/
theorem PointRead.passed (hr : PointRead x s y r res top rest h i more g items ns) {f : StageFrame → StageFrame}
    {k : Int} (hf : (f { top with holdReadings := top.holdReadings ++ [i] }).critical = top.critical)
    (hj : (watchedEvent x s).judgeSession =
      (valued g f).completeHold (f { top with holdReadings := top.holdReadings ++ [i] }) (some k)) :
    Completed x s y r more rest (f { top with holdReadings := top.holdReadings ++ [i] })
      (creepWritten top.critical k (withReading res i)) := by
  intro j hnext
  have hvalued := hr.running.changeTop (y := readSession y top rest h i) rfl f
  obtain ⟨items', hcomplete⟩ := hvalued.completeHoldBy rfl (f { top with holdReadings := top.holdReadings ++ [i] }) k
  rw [hf] at hcomplete
  obtain ⟨hsession, hpool, hrecord, htells⟩ := hcomplete.completes hj hnext
  exact ⟨hsession, by rw [hpool], hrecord, htells⟩

/-- A creep value that fails ends the session. -/
theorem PointRead.failed (hr : PointRead x s y r res top rest h i more g items ns) {f : StageFrame → StageFrame} {k : Int}
    (hj : (watchedEvent x s).judgeSession =
      (valued g f).failCreep { top with holdReadings := top.holdReadings ++ [i] } k) :
    CreepFailed x s y r (creepWritten top.critical k (withReading res i)) := by
  have hvalued := hr.running.changeTop (y := readSession y top rest h i) rfl f
  obtain ⟨e, items', he, hfailed⟩ := hvalued.failCreep { top with holdReadings := top.holdReadings ++ [i] } k
  obtain ⟨hsession, hpool, hjack, hrecord, htells⟩ :=
    hfailed.sampledFail (v := .failCreep) (by simp) (hj.trans he)
  exact ⟨hsession, hpool, hjack, hrecord, htells.mono fun n hn => List.mem_append_right _ hn⟩

/-- The creep value between an earlier reading of the frame and the one just taken (R147). -/
theorem PointRead.creep (hr : PointRead x s y r res top rest h i more g items ns) {m n a : Nat}
    (hm : top.holdReadings.length = m) (hn : top.holdReadings[n]? = some a) (ha : a ≠ i) :
    creepBetween g.st { top with holdReadings := top.holdReadings ++ [i] } m n =
      ((watchedEvent x s).st.meas.extension : Int) - (entryValues s a).2 := by
  have hpool : (watchedEvent x s).st.pool = s.pool := watchedEvent_frame x s .pool (by simp)
  obtain ⟨hnew, hold⟩ := entryValues_taken (u := s) hr.running.pool rfl
  have hlt : n < top.holdReadings.length := (List.getElem?_eq_some_iff.1 hn).1
  have hlater : (top.holdReadings ++ [i]).getD m 0 = i := by
    rw [List.getD_eq_getElem?_getD, List.getElem?_append_right (by omega), hm, Nat.sub_self]
    rfl
  have hearlier : (top.holdReadings ++ [i]).getD n 0 = a := by
    rw [List.getD_eq_getElem?_getD, List.getElem?_append_left hlt, hn]
    rfl
  rw [creepBetween, hlater, hearlier, hnew, hold a ha]
  rfl

/-- The decision at D by a creep value (R131). -/
theorem PointRead.atD (hr : PointRead x s y r res top rest h i more g items ns) (h5 : h.nextPoint = 5) (hl : h.limit ≠ 0)
    {a : Nat} (hlen : top.holdReadings.length = 4) (hhead : top.holdReadings.head? = some a) (ha : a ≠ i) :
    let ks : Int := ((watchedEvent x s).st.meas.extension : Int) - (entryValues s a).2
    let read : StageFrame := { top with holdReadings := top.holdReadings ++ [i] }
    (ks ≤ h.limit → Completed x s y r more rest { read with ks := some ks }
      (creepWritten top.critical ks (withReading res i))) ∧
    ((h.limit : Int) < ks → h.extendable = true → top.creepExtended = false →
      GoesOn x s y r more rest h { read with ks := some ks, creepExtended := true } (withReading res i)) ∧
    ((h.limit : Int) < ks → (h.extendable = false ∨ top.creepExtended = true) →
      CreepFailed x s y r (creepWritten top.critical ks (withReading res i))) := by
  intro ks read
  have hcreep : creepBetween g.st read 4 0 = ks := hr.creep hlen (by rw [← List.head?_eq_getElem?]; exact hhead) ha
  have hjudged : (watchedEvent x s).judgeSession = g.decideAtD read (ranHold h) := by
    rw [hr.judged, decidedEvent_ran, if_pos h5]
  rw [decideAtD_eq (c := ranHold h) hl hcreep] at hjudged
  refine ⟨fun hpass => ?_, fun hover hext hnot => ?_, fun hover hno => ?_⟩
  · rw [if_pos ((creepPasses_iff (ranHold h).limit _).2 hpass)] at hjudged
    exact hr.passed (f := fun f => { f with ks := some ks }) rfl hjudged
  · rw [if_neg (mt (creepPasses_iff (ranHold h).limit _).1 (not_le.2 hover)), if_pos ⟨hext, hnot⟩] at hjudged
    have hvalued := (hr.running.changeTop (y := readSession y top rest h i) rfl fun f => { f with ks := some ks }).changeTop rfl
      fun f => { f with creepExtended := true }
    obtain ⟨hsession, hpool, hrecord, -⟩ := hvalued.sampled hjudged
    exact ⟨hsession, by rw [hpool], hrecord⟩
  · have hnone : ¬ ((ranHold h).extendable = true ∧ read.creepExtended = false) := by
      rintro ⟨hext, hnot⟩
      rcases hno with hno | hno
      · exact absurd (hno.symm.trans hext) (by simp)
      · exact absurd (hnot.symm.trans hno) (by simp)
    rw [if_neg (mt (creepPasses_iff (ranHold h).limit _).1 (not_le.2 hover)), if_neg hnone] at hjudged
    exact hr.failed hjudged

/-- The decision at 10D by a creep value (R132). -/
theorem PointRead.at10D (hr : PointRead x s y r res top rest h i more g items ns) (h9 : h.nextPoint = 9) {a : Nat}
    (hlen : top.holdReadings.length = 8) (hfifth : top.holdReadings[4]? = some a) (ha : a ≠ i) :
    let ks2 : Int := ((watchedEvent x s).st.meas.extension : Int) - (entryValues s a).2
    let read : StageFrame := { top with holdReadings := top.holdReadings ++ [i] }
    (ks2 ≤ h.limit → Completed x s y r more rest { read with ks2 := some ks2 }
      (creepWritten top.critical ks2 (withReading res i))) ∧
    ((h.limit : Int) < ks2 → CreepFailed x s y r (creepWritten top.critical ks2 (withReading res i))) := by
  intro ks2 read
  have hcreep : creepBetween g.st read 8 4 = ks2 := hr.creep hlen hfifth ha
  have hjudged : (watchedEvent x s).judgeSession = g.decideAt10D read (ranHold h) := by
    rw [hr.judged, decidedEvent_ran, if_neg (by omega), if_pos h9]
  rw [decideAt10D_eq (c := ranHold h) hcreep] at hjudged
  refine ⟨fun hpass => ?_, fun hover => ?_⟩
  · rw [if_pos ((creepPasses_iff (ranHold h).limit _).2 hpass)] at hjudged
    exact hr.passed (f := fun f => { f with ks2 := some ks2 }) rfl hjudged
  · rw [if_neg (mt (creepPasses_iff (ranHold h).limit _).1 (not_le.2 hover))] at hjudged
    exact hr.failed hjudged

/-! ## A void (R130) -/

/-- The fresh attempt after a void (R130). -/
def voidedSession (y : Session) (top : StageFrame) (rest : List StageFrame) (h : HoldCtx) : Session :=
  { y with
    stages := voidedFrame top (top.rehold + 1) :: rest
    phase := .holding (newAttempt h.duration h.limit h.extendable)
    reservation := y.reservation + top.holdReadings.length }

theorem take_before {before : List ListPlace} {back : List Nat} (hlist : res.readings = before ++ back.map .entry) :
    res.readings.take (res.readings.length - back.length) = before := by
  rw [hlist, List.length_append, List.length_map, Nat.add_sub_cancel, List.take_left]

/-- A voided attempt with an attempt left, and without one. -/
theorem Running.voided (hw : Running (watchedEvent x s).st (watchedEvent x s) y r res s.pool d ns)
    (hy : y.stages = top :: rest) {before : List ListPlace} (hlist : res.readings = before ++ top.holdReadings.map .entry)
    {cause : VoidCause} (hj : (watchedEvent x s).judgeSession = (watchedEvent x s).voidHold y top h cause) :
    let t := commit (sampleEvent x s)
    (exec (.holdVoid x) s = .next t ∧ t.pool.used = s.pool.used.filter fun e => !top.holdReadings.contains e.index) ∧
    (top.rehold < y.captured.reholdMax →
      t.session = some (voidedSession y top rest h) ∧ t.pool.reserved = putBack top.holdReadings s.pool.reserved ∧
      findAnchor t y.anchor = some
        { r with reserved := r.reserved + top.holdReadings.length, result := some { res with readings := before } } ∧
      Tells [.holdVoid y.anchor top.target cause (top.rehold + 1)] s t) ∧
    (y.captured.reholdMax ≤ top.rehold →
      t.session = none ∧ t.pool.reserved = [] ∧ t.permits.jack = false ∧
      findAnchor t y.anchor = some
        { r with stage := .failed, reserved := 0
                 result := some { res with readings := before, verdict := some .failHoldUnstable } } ∧
      Tells [.holdVoid y.anchor top.target cause top.rehold, .stageChanged y.anchor (some r.stage) .failed,
        .sessionEnded y.anchor (.verdict .failHoldUnstable y.relocks)] s t) := by
  intro t
  have hback := hw.returnReadings top.holdReadings
  rw [take_before hlist] at hback
  have hrecord' : returnedRecord r res top.holdReadings =
      { r with reserved := r.reserved + top.holdReadings.length, result := some { res with readings := before } } := by
    rw [returnedRecord, take_before hlist]
  rw [hrecord'] at hback
  obtain ⟨f, hf⟩ : ∃ f, f = (watchedEvent x s).returnReadings top.holdReadings := ⟨_, rfl⟩
  rw [← hf] at hback
  by_cases hleft : top.rehold < y.captured.reholdMax
  · have hagain := (hback.changeSession (y' := voidedSession y top rest h) (f := fun x =>
      setHoldCtx (Machine.changeTop x fun f => voidedFrame f (top.rehold + 1)) (newAttempt h.duration h.limit h.extendable))
      (by rw [changeTop_cons (y := { y with reservation := y.reservation + top.holdReadings.length }) hy]; rfl) rfl).raise
      (.holdVoid y.anchor top.target cause (top.rehold + 1))
    have hvoid := hj
    unfold Ev.voidHold at hvoid
    dsimp only at hvoid
    rw [if_neg (by omega), ← hf] at hvoid
    obtain ⟨hsession, hpool, hrecord, -, hall⟩ := hagain.sampled hvoid
    have hnotice := hall _ (List.mem_append_right _ List.mem_cons_self)
    refine ⟨⟨sampleIn_occurs hnotice rfl, by rw [hpool]; rfl⟩, fun _ => ⟨hsession, by rw [hpool]; rfl, hrecord,
      sampleSet_tells hnotice⟩, fun h => by omega⟩
  · have hended := (hback.changeSession (y' := { y with
        stages := voidedFrame top top.rehold :: rest, reservation := y.reservation + top.holdReadings.length })
      (f := fun x => Machine.changeTop x fun f => voidedFrame f top.rehold)
      (by rw [changeTop_cons (y := { y with reservation := y.reservation + top.holdReadings.length }) hy]) rfl).raise
      (.holdVoid y.anchor top.target cause top.rehold)
    have hvoid := hj
    unfold Ev.voidHold at hvoid
    dsimp only at hvoid
    rw [if_pos (by omega), ← hf] at hvoid
    obtain ⟨-, hpool, -, -, hall⟩ := hended.sampledEnd hvoid
    have hnotice := hall _ (List.mem_append_left _ (List.mem_append_right _ List.mem_cons_self))
    obtain ⟨hsession, hreserved, hjack, hrecord, htells⟩ := hended.sampledFail (v := .failHoldUnstable) (by simp) hvoid
    refine ⟨⟨sampleIn_occurs hnotice rfl, by rw [hpool]; rfl⟩, fun h => absurd h hleft, fun _ =>
      ⟨hsession, hreserved, hjack, hrecord, htells.mono fun n hn => ?_⟩⟩
    rw [List.append_assoc]
    exact List.mem_append_right _ hn

end

/-- Settles O52: the order of R128 decides between waiting, counting, a void and running; a running hold reads at its points
and decides at D and 10D. -/
theorem holdsReadAndVoidAtSampleSets : Obligations.HoldsReadAndVoidAtSampleSets := by
  intro x s y top rest h r res hz hs hphase hstages hf hr hg u load band faulted paused out runs point pauseOver outOver keeps
  have hw := watched_running (x := x) hs hf hr hg
  have hjudge := judgeSession_holding hw.session hphase hstages
  have hband : (!inBand (channelValue (watchedEvent x s).st.meas .load) top.target
      (bandOf top.target y.captured.holdBand)) = out := outOfBand_eq _ _ _
  have hin : out = false → inBand (channelValue (watchedEvent x s).st.meas .load) top.target
      (bandOf top.target y.captured.holdBand) = true := fun ho => by simpa using hband.trans ho
  have hkept : ∀ {f : Session → Session} {y' : Session}, f y = y' → y'.anchor = y.anchor →
      (watchedEvent x s).judgeSession = (watchedEvent x s).changeSession f →
      ∃ t, exec (.sampleSet x) s = .next t ∧ keeps t y' := by
    intro f y' hfy ha hj
    obtain ⟨t, hexec, hsession, hpool, hrecord, hexact, hframe⟩ := (hw.changeSession hfy ha).keeps hj
    exact ⟨t, hexec, hsession, hpool, ha ▸ hrecord, hexact, hframe⟩
  refine ⟨fun i more hi hfree hruns hpoint => ?point, fun before hbegun hlist hover => ?void, fun hruns hnot => ?runs,
    fun hbegun hsound hdown hle => ?pause, fun hbegun hsound hup hout hle => ?off, fun hbegun hstop => ?waits⟩
  case point =>
    intro filled judged read on
    obtain ⟨hsound, hup, hinside⟩ := hruns
    obtain ⟨g, items, ns, hread⟩ := pointRead hw hphase hstages hi (jackHold_runs hsound hup (hin hinside)) hpoint
    obtain ⟨hrow, htold, hused⟩ := hread.common
    have hother : ∀ a, tableGet s.pool.used a ≠ none → a ≠ i := fun a ha hai => ha (hai ▸ hfree)
    refine ⟨commit (sampleEvent x s), hrow, exec_sampleSet x s, commit_exact _,
      (commit_frame _ s _ (sampleEvent_frame x s)).mono (by simp), htold, ?_, fun j hj => ?_, ?_⟩
    · rw [hused, tableGet_put, if_pos rfl, readingEntry, readingNow, watchedEvent_stamp]
    · rw [hused, tableGet_put, if_neg hj]
    · intro goesOn completes fails
      exact ⟨hread.undecided, hread.free, fun a h5 hl hlen hhead ha => hread.atD h5 hl hlen hhead (hother a ha),
        fun a h9 hlen hfifth ha => hread.at10D h9 hlen hfifth (hother a ha)⟩
  case void =>
    intro cause
    have hvoid : (watchedEvent x s).judgeSession = (watchedEvent x s).voidHold y top h cause ∨
        ∃ c, (watchedEvent x s).judgeSession = (watchedEvent x s).voidHold y top c cause ∧
          c.duration = h.duration ∧ c.limit = h.limit ∧ c.extendable = h.extendable := by
      rw [hjudge]
      rcases hover with hfault | ⟨hsound, hdown, hlong⟩ | ⟨hsound, hup, hout, hlong⟩
      · have hcause : cause = .fault := if_pos hfault
        left
        rw [Ev.judgeHold, if_pos hfault, if_pos hbegun, hcause]
      · have hcause : cause = .pause := by simp only [cause, hsound, hdown, if_true, Bool.false_eq_true, if_false]
        right
        refine ⟨{ h with pause := h.pause + 1 }, ?_, rfl, rfl, rfl⟩
        rw [Ev.judgeHold, if_neg (by simpa using hsound), if_pos hdown, if_pos hbegun, Ev.countHold,
          if_pos (by simpa using hlong), hcause]
      · have hcause : cause = .offBand := by simp only [cause, hsound, hup, Bool.false_eq_true, if_false]
        right
        refine ⟨{ h with pause := 0, offBand := h.offBand + 1 }, ?_, rfl, rfl, rfl⟩
        rw [Ev.judgeHold, if_neg (by simpa using hsound), if_neg (Bool.eq_false_iff.1 hup), if_pos (hband.trans hout),
          if_pos hbegun, Ev.countHold, if_pos (by simpa using hlong), hcause]
    obtain ⟨c, hj, hduration, hlimit, hextendable⟩ : ∃ c, (watchedEvent x s).judgeSession =
        (watchedEvent x s).voidHold y top c cause ∧
        c.duration = h.duration ∧ c.limit = h.limit ∧ c.extendable = h.extendable := by
      rcases hvoid with hj | hc
      · exact ⟨h, hj, rfl, rfl, rfl⟩
      · exact hc
    obtain ⟨⟨hrow, hused⟩, hagain, hend⟩ := hw.voided hstages hlist hj
    refine ⟨commit (sampleEvent x s), hrow, exec_sampleSet x s, commit_exact _,
      (commit_frame _ s _ (sampleEvent_frame x s)).mono (by simp), hused, fun hleft => ?_, hend⟩
    obtain ⟨hsession, hreserved, hrecord, htells⟩ := hagain hleft
    refine ⟨?_, fun j => ?_, fun hrising => ?_, hrecord, htells⟩
    · rw [hsession, voidedSession, hduration, hlimit, hextendable]
      rfl
    · rw [hreserved]
      exact mem_putBack _ _ j
    · rw [hreserved]
      exact putBack_rising _ hrising
  case runs =>
    obtain ⟨hsound, hup, hinside⟩ := hruns
    refine hkept (f := fun x => setHoldCtx x (ranHold h)) rfl rfl ?_
    rw [hjudge, jackHold_runs hsound hup (hin hinside)]
    exact if_neg hnot
  case pause =>
    refine hkept (f := fun x => setHoldCtx x { h with pause := h.pause + 1 }) rfl rfl ?_
    rw [hjudge, Ev.judgeHold, if_neg (by simpa using hsound), if_pos hdown, if_pos hbegun, Ev.countHold, if_neg (by simpa using hle)]
  case off =>
    refine hkept (f := fun x => setHoldCtx x { h with pause := 0, offBand := h.offBand + 1 }) rfl rfl ?_
    rw [hjudge, Ev.judgeHold, if_neg (by simpa using hsound), if_neg (Bool.eq_false_iff.1 hup), if_pos (hband.trans hout),
      if_pos hbegun, Ev.countHold, if_neg (by simpa using hle)]
  case waits =>
    have hnone : ¬ h.begun = true := by simp [hbegun]
    have hj : (watchedEvent x s).judgeSession = watchedEvent x s := by
      rw [hjudge, Ev.judgeHold]
      split_ifs with h1 h2 h3
      · rfl
      · rfl
      · rfl
      · rcases hstop with hstop | hstop | hstop
        · exact absurd hstop h1
        · exact absurd hstop h2
        · exact absurd (hband.trans hstop) h3
    obtain ⟨t, hexec, hsession, hpool, hrecord, hexact, hframe⟩ := hw.keeps hj
    exact ⟨t, hexec, hsession, hpool, hrecord, hexact, hframe⟩

end Sys2Proof.Machine
end

section
/-! SUPPORT. Lift-off at a sample set (R134 to R137, R153 to R155). -/

namespace Sys2Proof.Machine

/-! ## The locked-off count of the anchor that passes (R42) -/

/-- A sample set reaches the stressing engine with the section table as it was, but for hold records. -/
theorem watchedEvent_holdsOnly (x : SampleIn) (s : State) : HoldsOnly s (watchedEvent x s).st := by
  have hmonitored : HoldsOnly s (monitoredEvent x s).st := .of_same (monitoredEvent_frame x s .sections (by simp))
  exact hmonitored.trans (evaluateAll_holdsOnly _ _)

theorem lockedCount_holdsOnly {a b : State} (h : HoldsOnly a b) (n tier : Nat) : lockedCount b n tier = lockedCount a n tier := by
  rw [lockedCount, lockedCount, h.records n]

/-- An anchor that becomes LOCKED_OFF is counted in its section. -/
theorem StageMoved.counted {old new : AnchorRec} {a b : State} (h : StageMoved old new a b) (ho : old.stage ≠ .lockedOff)
    (hn : new.stage = .lockedOff) (ht : new.id.tier - 1 < (sectionRec a new.id.sect).data.counts.length) :
    lockedCount b new.id.sect new.id.tier = lockedCount a new.id.sect new.id.tier + 1 := by
  rw [lockedCount, h.section_]
  simp only [movedSection, movedCounts, if_neg ho, if_pos hn]
  rw [List.getD_eq_getElem?_getD, List.getElem?_set_self ht]
  rfl

theorem TablesInShape.counts {s : State} (h : TablesInShape s) (n : Nat) : (sectionRec s n).data.counts.length = 8 := by
  rw [sectionRec, List.getD_eq_getElem?_getD]
  cases hn : s.sections[n - 1]? with
  | none => rfl
  | some r => exact h.eight r (List.mem_of_getElem? hn)

/-! ## The engine at lift-off -/

section
variable {x : SampleIn} {s : State} {e : Ev} {y : Session} {l : LiftCtx} {r : AnchorRec} {res : TestResult} {p : Pool}
  {items : List Item} {ns : List Notice}

theorem judgeSession_liftoff (hs : e.st.session = some y) (hp : y.phase = .liftoff l) : e.judgeSession = e.judgeLift y l := by
  simp only [Ev.judgeSession, hs, hp]

theorem lockLoad_eq {s : State} {a : AnchorId} {r : AnchorRec} {d : Design} (hf : findAnchor s a = some r)
    (hd : r.design = some d) : lockLoad s a = d.ll := by
  simp only [lockLoad, hf, Option.bind_some, hd]

/-- The session relocked (R136). -/
def relockedSession (y : Session) : Session :=
  { y with phase := .approach, step := y.lockStep, relocks := y.relocks + 1, reservation := y.reservation - 1 }

theorem failLift_used (e : Ev) (y : Session) : (e.failLift y).st.pool.used = e.st.pool.used := by
  unfold Ev.failLift
  split
  · rw [announceStep_st]
    rfl
  · exact endWith_used e _

/-- The sample set that takes the LIFT_OFF reading, as the event holds it when the verdict is due: `ok` says whether it is
PASS (R134 to R136). -/
structure LiftRead (x : SampleIn) (s : State) (y : Session) (r : AnchorRec) (ended : TestResult) (i : Nat)
    (more : List Nat) (v : PoolEntry) (ok : Bool) (g : Ev) (items : List Item) (ns : List Notice) : Prop where
  judged : (watchedEvent x s).judgeSession = if ok then g.endWith .pass else g.failLift y
  running : ∃ ph, Running (watchedEvent x s).st g { y with phase := ph, reservation := y.reservation - 1 }
    { r with reserved := r.reserved - 1, result := some ended } ended
    { reserved := more, used := tablePut s.pool.used i v } items ns

theorem LiftRead.used {ended : TestResult} {i : Nat} {more : List Nat} {v : PoolEntry} {ok : Bool} {g : Ev}
    (h : LiftRead x s y r ended i more v ok g items ns) :
    (commit (sampleEvent x s)).pool.used = tablePut s.pool.used i v ∧ ∀ n ∈ ns, n ∈ (sampleEvent x s).notices := by
  obtain ⟨ph, hrun⟩ := h.running
  have htick := sampleEvent_afterSession x s
  have hpool : (commit (sampleEvent x s)).pool = (watchedEvent x s).judgeSession.st.pool :=
    (commit_pool _).trans (htick .pool (by simp))
  refine ⟨?_, fun n hn => ?_⟩
  · rw [hpool, h.judged]
    cases ok with
    | true => exact (endWith_used g .pass).trans (congrArg Pool.used hrun.pool)
    | false => exact (failLift_used g y).trans (congrArg Pool.used hrun.pool)
  · rw [sampleEvent_notices, h.judged]
    rw [← hrun.notices] at hn
    cases ok with
    | true => exact endWith_grows g .pass n hn
    | false => exact failLift_grows g y n hn

/-- A failed lift-off with a relock left (R136). -/
theorem LiftRead.relocks {ended : TestResult} {i : Nat} {more : List Nat} {v : PoolEntry} {g : Ev}
    (h : LiftRead x s y r ended i more v false g items ns) (hleft : y.relocks < y.captured.relockMax) :
    let t := commit (sampleEvent x s)
    t.session = some (relockedSession y) ∧ t.pool.reserved = more ∧
      findAnchor t y.anchor = some { r with reserved := r.reserved - 1, result := some ended } ∧
      Tells [.nextStep y.anchor (stepInfo t (relockedSession y))] s t := by
  intro t
  obtain ⟨ph, hrun⟩ := h.running
  have hrelock := (hrun.changeSession (y' := relockedSession y)
    (f := fun z => { z with relocks := z.relocks + 1, step := z.lockStep, phase := .approach }) rfl rfl).announce
  have hj : (watchedEvent x s).judgeSession =
      (g.changeSession fun z => { z with relocks := z.relocks + 1, step := z.lockStep, phase := .approach }).announceStep := by
    rw [h.judged]
    exact if_pos hleft
  obtain ⟨hsession, hpool, hrecord, hinfo, hall⟩ := hrelock.sampled hj
  refine ⟨hsession, by rw [hpool], hrecord, sampleSet_tellsAll fun n hn => hall n (List.mem_append_right _ ?_)⟩
  rw [show stepInfo t (relockedSession y) = stepInfo (g.changeSession fun z =>
    { z with relocks := z.relocks + 1, step := z.lockStep, phase := .approach }).st (relockedSession y) by
      rw [hinfo, announceStep_st]] at hn
  exact hn

/-- A failed lift-off without a relock left (R136). -/
theorem LiftRead.fails {ended : TestResult} {i : Nat} {more : List Nat} {v : PoolEntry} {g : Ev}
    (h : LiftRead x s y r ended i more v false g items ns) (hnone : y.captured.relockMax ≤ y.relocks) :
    let t := commit (sampleEvent x s)
    t.session = none ∧ t.pool.reserved = [] ∧ t.permits.jack = false ∧
      findAnchor t y.anchor = some
        { r with stage := .failed, reserved := 0, result := some { ended with verdict := some .failLockoff } } ∧
      Tells [.stageChanged y.anchor (some r.stage) .failed, .sessionEnded y.anchor (.verdict .failLockoff y.relocks)] s t := by
  intro t
  obtain ⟨ph, hrun⟩ := h.running
  have hj : (watchedEvent x s).judgeSession = g.endWith .failLockoff := by
    rw [h.judged]
    exact if_neg (not_lt.2 hnone)
  obtain ⟨hsession, hpool, hjack, hrecord, htells⟩ := hrun.sampledFail (v := .failLockoff) (by simp) hj
  exact ⟨hsession, hpool, hjack, hrecord, htells.mono fun n hn => List.mem_append_right _ hn⟩

/-- A lift-off within tolerance (R136, R155). -/
theorem LiftRead.passes {ended : TestResult} {i : Nat} {more : List Nat} {v : PoolEntry} {g : Ev}
    (h : LiftRead x s y r ended i more v true g items ns) (hz : TablesSized s) (hf : findAnchor s y.anchor = some r)
    (hstage : r.stage = .stressing) {load : Nat} (hload : ended.plift = some load) :
    let t := commit (sampleEvent x s)
    t.session = none ∧ t.pool.reserved = [] ∧ t.permits.jack = false ∧
      lockedCount t y.anchor.sect y.anchor.tier = lockedCount s y.anchor.sect y.anchor.tier + 1 ∧
      findAnchor t y.anchor = some
        { r with stage := .lockedOff, reserved := 0
                 result := some
                   { ended with verdict := some .pass, loss := ended.plock.map fun a => (a : Int) - load } } ∧
      Tells [.stageChanged y.anchor (some .stressing) .lockedOff, .sessionEnded y.anchor (.verdict .pass y.relocks)] s t := by
  intro t
  obtain ⟨ph, hrun⟩ := h.running
  have hj : (watchedEvent x s).judgeSession = g.endWith .pass := h.judged
  obtain ⟨hsession, hpool, hjack, hrecord, hall⟩ := hrun.sampledEnd hj
  have hid : r.id = y.anchor := findAnchor_id hf
  have hshape := hz.inShape
  have hrange : IdInRange r.id := anchor_inRange hz hf
  have hwatched := watchedEvent_holdsOnly x s
  have hloss : lockOffLoss ended = ended.plock.map fun a => (a : Int) - load := by
    rw [lockOffLoss, hload]
    cases ended.plock <;> rfl
  have hjudged : judgedResult .pass ended =
      { ended with verdict := some .pass, loss := ended.plock.map fun a => (a : Int) - load } := by
    rw [judgedResult, if_pos rfl, hloss]
  obtain ⟨new, hnew⟩ : ∃ new, new = endedRecord { r with reserved := r.reserved - 1, result := some ended } ended .pass :=
    ⟨_, rfl⟩
  have hnewid : new.id = r.id := by rw [hnew]; rfl
  obtain ⟨⟨hmoved, -, -, -⟩, -, -⟩ :=
    hrun.restage (hwatched.size.trans hshape.len) hrange (closeSession_frame g.st) hnewid
  have hcounted := hmoved.counted (by rw [hstage]; simp) (by rw [hnew]; rfl) (by
    obtain ⟨-, ⟨hlow, hhigh⟩, -⟩ := hrange
    rw [hwatched.records, show (_ : SectionData).counts.length = _ from hshape.counts _, hnewid]
    omega)
  refine ⟨hsession, by rw [hpool], hjack, ?_, ?_, sampleSet_tellsAll fun n hn => hall n (List.mem_append_right _ ?_)⟩
  · have hdata := tick_sections (watchedEvent x s).judgeSession.st y.anchor.sect
    have htick : lockedCount t y.anchor.sect y.anchor.tier =
        lockedCount (watchedEvent x s).judgeSession.st y.anchor.sect y.anchor.tier := by
      rw [lockedCount, lockedCount, ← hdata, sectionRec, commit_sections]
      rfl
    rw [hnewid] at hcounted
    rw [htick, hj, hrun.ended .pass, ← hnew, Ev.raise_st, ← hid]
    exact hcounted.trans (by rw [lockedCount_holdsOnly hwatched])
  · rw [hrecord, endedRecord, hjudged]
    rfl
  · rw [← hstage] at hn
    exact hn

end

end Sys2Proof.Machine
end

section
/-! SUPPORT. The judgement of lift-off, whole (R134 to R136). -/

namespace Sys2Proof.Machine

section
variable {x : SampleIn} {s : State} {y : Session} {l : LiftCtx} {r : AnchorRec} {res : TestResult} {i : Nat}
  {more : List Nat} {d : List Item} {ns : List Notice}

/-- The lift-off context that the sample set leaves (R134). -/
def judgedLift (x : SampleIn) (s : State) (l : LiftCtx) (ll : Nat) : LiftCtx :=
  l.judge (channelValue (watchedEvent x s).st.meas .load) (watchedEvent x s).st.meas.extension ll

/-- The event with the context judged. -/
def judgedEvent (x : SampleIn) (s : State) (l : LiftCtx) (ll : Nat) : Ev :=
  (watchedEvent x s).changeSession fun z => { z with phase := .liftoff (judgedLift x s l ll) }

/-- Lift-off with a sound jack group: captured, overrun, or neither (R134, R135). -/
theorem judgeLift_sound {ll : Nat} (hf : jackFaulted (watchedEvent x s).st.meas = false)
    (hl : lockLoad (watchedEvent x s).st y.anchor = ll) :
    (watchedEvent x s).judgeLift y l =
      if liftCaptured (judgedLift x s l ll) (watchedEvent x s).st.meas.extension y.captured.liftThreshold then
        (judgedEvent x s l ll).captureLift y (channelValue (watchedEvent x s).st.meas .load) ll
      else if overrunLoad ll y.captured.liftTol < channelValue (watchedEvent x s).st.meas .load then
        ((judgedEvent x s l ll).takeReading (readingNow (watchedEvent x s).st .liftOff)).failLift y
      else judgedEvent x s l ll := by
  subst hl
  exact if_neg (by simp [hf])

/-- The entry of the LIFT_OFF reading. -/
def liftEntry (x : SampleIn) (s : State) (r : AnchorRec) (res : TestResult) : PoolEntry :=
  readingEntry r res (readingNow (watchedEvent x s).st .liftOff)

theorem Running.judgedLift {ll : Nat}
    (hw : Running (watchedEvent x s).st (watchedEvent x s) y r res s.pool d ns) :
    Running (watchedEvent x s).st (judgedEvent x s l ll) { y with phase := .liftoff (Machine.judgedLift x s l ll) } r res
      s.pool d ns := hw.changeSession rfl rfl

/-- A captured lift-off writes its load and takes its reading (R134). -/
theorem Running.captured {ll : Nat} (hw : Running (watchedEvent x s).st (watchedEvent x s) y r res s.pool d ns)
    (hi : s.pool.reserved = i :: more) {load : Nat}
    (hj : (watchedEvent x s).judgeSession = (judgedEvent x s l ll).captureLift y load ll) :
    ∃ g items ns', LiftRead x s y r { withReading res i with plift := some load } i more (liftEntry x s r res)
        (liftWithin load ll y.captured.liftTol) g items ns' ∧
      .liftoffCaptured y.anchor load ll y.relocks ∈ ns' := by
  have hjudged := hw.judgedLift (l := l) (ll := ll)
  have hread := ((hjudged.changeResult fun t => { t with plift := some load }).takeReading hi
    (Machine.readingNow (judgedEvent x s l ll).st .liftOff)).raise (.liftoffCaptured y.anchor load ll y.relocks)
  rw [hjudged.readingNow] at hread
  refine ⟨_, _, _, ⟨?_, _, hread⟩, List.mem_append_right _ List.mem_cons_self⟩
  rw [hj, Ev.captureLift, hjudged.readingNow]

/-- An overrun takes its reading and writes no lift-off load (R135). -/
theorem Running.overran {ll : Nat} (hw : Running (watchedEvent x s).st (watchedEvent x s) y r res s.pool d ns)
    (hi : s.pool.reserved = i :: more)
    (hj : (watchedEvent x s).judgeSession =
      ((judgedEvent x s l ll).takeReading (Machine.readingNow (watchedEvent x s).st .liftOff)).failLift y) :
    ∃ g items ns', LiftRead x s y r (withReading res i) i more (liftEntry x s r res) false g items ns' := by
  have hread := (hw.judgedLift (l := l) (ll := ll)).takeReading hi
    (Machine.readingNow (watchedEvent x s).st .liftOff)
  exact ⟨_, _, _, ⟨by rw [hj]; rfl, _, hread⟩⟩

end

/-- Settles O53: the sample set captures lift-off, finds an overrun, or leaves the context judged; both ends take the
LIFT_OFF reading, and the verdict follows the load. -/
theorem liftOffEndsTheTest : Obligations.LiftOffEndsTheTest := by
  intro x s y l r res d i more hz hs hphase hf hr hd hstage hi hg u load ext low ref captured within overrun read ended hsound
  have hw := watched_running (x := x) hs hf hr hg
  have hjudge := judgeSession_liftoff hw.session hphase
  rw [judgeLift_sound hsound (lockLoad_eq hw.record hd)] at hjudge
  have hctx : judgedLift x s l d.ll = { lowSeen := low, ref := ref } := rfl
  have hcaptured : liftCaptured (judgedLift x s l d.ll) (watchedEvent x s).st.meas.extension y.captured.liftThreshold =
      captured := by
    rw [hctx]
    simp only [liftCaptured, captured]
    cases ref <;> rfl
  have hwithin : liftWithin load d.ll y.captured.liftTol = within := rfl
  have hid : r.id = y.anchor := findAnchor_id hf
  have hentry : liftEntry x s r res = { owner := r.id, position := res.readings.length + 1, stamp := res.stamp
                                        body := some { kind := .liftOff, time := stampTime s, load := load, ext := ext
                                                       summary := none } } := by
    rw [liftEntry, readingEntry, readingNow, watchedEvent_stamp]
  rw [hcaptured] at hjudge
  have hframe : OnlyChanges (sampleParts ++ endParts) s (commit (sampleEvent x s)) :=
    (commit_frame _ s _ (sampleEvent_frame x s)).mono (by simp)
  have hentries : (commit (sampleEvent x s)).pool.used = tablePut s.pool.used i (liftEntry x s r res) →
      tableGet (commit (sampleEvent x s)).pool.used i = some
        { owner := r.id, position := res.readings.length + 1, stamp := res.stamp,
          body := some { kind := .liftOff, time := stampTime s, load := load, ext := ext, summary := none } } ∧
      ∀ j, j ≠ i → tableGet (commit (sampleEvent x s)).pool.used j = tableGet s.pool.used j := fun hused => by
    refine ⟨?_, fun j hj => ?_⟩
    · rw [hused, tableGet_put, if_pos rfl, hentry]
    · rw [hused, tableGet_put, if_neg hj]
  have htaken : captured = true → ended = { withReading res i with plift := some load } := fun h => if_pos h
  have hnot : captured = false → ended = withReading res i := fun h => if_neg (by simp [h])
  have hoverrun : overrun = (!captured && decide (d.ll * (1000 + 2 * y.captured.liftTol) / 1000 < load)) := rfl
  clear_value ended overrun captured within
  cases hcap : captured with
  | true =>
    rw [hcap] at hjudge
    obtain ⟨g, items, ns, hread, hnotice⟩ := hw.captured hi (hjudge.trans (if_pos rfl))
    rw [hwithin] at hread
    have hended := htaken hcap
    rw [← hended] at hread
    have hload : ended.plift = some load := by rw [hended]
    have hloss : (ended.plock.map fun a => (a : Int) - load) = res.plock.map fun a => (a : Int) - load := by
      rw [hended]
      rfl
    have hover : overrun = false := by rw [hoverrun, hcap]; rfl
    obtain ⟨hused, hall⟩ := hread.used
    refine ⟨_, exec_sampleSet x s, commit_exact _, hframe, fun h => absurd h (by simp), fun _ => hentries hused,
      fun _ => sampleSet_tells (hall _ hnotice), fun _ hin => ?_, fun hout hleft => ?_, fun hout hnone => ?_⟩
    · rw [hin] at hread
      have hpass := hread.passes hz hf hstage hload
      rw [hloss] at hpass
      exact hpass
    · have hno : within = false := hout.elim (fun h => h.2) fun h => absurd (hover.symm.trans h) (by simp)
      rw [hno] at hread
      exact hread.relocks hleft
    · have hno : within = false := hout.elim (fun h => h.2) fun h => absurd (hover.symm.trans h) (by simp)
      rw [hno] at hread
      have hfail := hread.fails hnone
      rw [hstage] at hfail
      exact hfail
  | false =>
    rw [hcap] at hjudge
    have hended := hnot hcap
    have hover : overrun = decide (d.ll * (1000 + 2 * y.captured.liftTol) / 1000 < load) := by
      rw [hoverrun, hcap]
      rfl
    by_cases hlong : overrunLoad d.ll y.captured.liftTol < load
    · have hjudged := hjudge.trans ((if_neg (by simp)).trans (if_pos hlong))
      obtain ⟨g, items, ns, hread⟩ := hw.overran hi hjudged
      rw [← hended] at hread
      have htrue : overrun = true := hover.trans (decide_eq_true hlong)
      obtain ⟨hused, -⟩ := hread.used
      refine ⟨_, exec_sampleSet x s, commit_exact _, hframe, fun _ h => absurd (htrue.symm.trans h) (by simp),
        fun _ => hentries hused, fun h => absurd h (by simp), fun h => absurd h (by simp), fun _ hleft => hread.relocks hleft,
        fun _ hnone => ?_⟩
      have hfail := hread.fails hnone
      rw [hstage] at hfail
      exact hfail
    · have hjudged := hjudge.trans ((if_neg (by simp)).trans (if_neg hlong))
      have hfalse : overrun = false := hover.trans (decide_eq_false hlong)
      obtain ⟨hsession, hpool, hrecord, -, -⟩ := hw.judgedLift.sampled hjudged
      refine ⟨_, exec_sampleSet x s, commit_exact _, hframe, fun _ _ => ⟨hsession, hpool, hrecord⟩, fun h => ?_,
        fun h => absurd h (by simp), fun h => absurd h (by simp), fun h => ?_, fun h => ?_⟩
      · exact absurd h (by simp [hfalse])
      · exact absurd h (by simp [hfalse])
      · exact absurd h (by simp [hfalse])

end Sys2Proof.Machine
end

section
/-! SUPPORT. The shape of the anchor table and the section table: 64 records of 8 counts, every identity in its ranges.
Each operation keeps it, without any premise on the order of the tables. -/

namespace Sys2Proof.Machine

theorem TablesInShape.of_same {s t : State} (h : TablesInShape s) (ha : t.anchors = s.anchors)
    (hs : t.sections = s.sections) : TablesInShape t :=
  ⟨by rw [hs]; exact h.len, by rw [hs]; exact h.eight, by rw [ha]; exact h.ids⟩

theorem TablesInShape.of_frame {s t : State} {ps : List Part} (h : TablesInShape s) (hf : OnlyChanges ps s t)
    (ha : Part.anchors ∉ ps) (hs : Part.sections ∉ ps) : TablesInShape t :=
  h.of_same (hf .anchors ha) (hf .sections hs)

/-- A record written keeps the identities of the table. -/
@[simp] theorem writeAnchor_inShape {e : Ev} {r : AnchorRec} (h : TablesInShape e.st) :
    TablesInShape (e.writeAnchor r).st := by
  refine ⟨h.len, h.eight, fun q hq => ?_⟩
  have hid : q.id ∈ (replaceAnchor e.st.anchors r).map (·.id) := List.mem_map_of_mem hq
  rw [replace_ids] at hid
  obtain ⟨x, hx, hxq⟩ := List.mem_map.1 hid
  exact hxq ▸ h.ids x hx

theorem changeSection_inShape {e : Ev} {n : Nat} {f : SectionData → SectionData}
    (hf : ∀ d, (f d).counts.length = d.counts.length) (h : TablesInShape e.st) :
    TablesInShape (e.changeSection n f).st :=
  ⟨(changeSection_len e n f).trans h.len, changeSection_eight e n f (fun d hd => (hf d).trans hd) h.eight, h.ids⟩

@[simp] theorem writeHold_inShape {e : Ev} {n : Nat} {src : HoldSource} {lv : HoldLevel} {reason : Option Nat}
    (h : TablesInShape e.st) : TablesInShape (e.writeHold n src lv reason).st :=
  changeSection_inShape (f := fun d => { d with
    holds := putHold d.holds { source := src, level := lv, time := stampTime e.st, reason := reason } }) (fun _ => rfl) h

@[simp] theorem removeHold_inShape {e : Ev} {n : Nat} {src : HoldSource} (h : TablesInShape e.st) :
    TablesInShape (e.removeHold n src).st := by
  unfold Ev.removeHold
  split
  · exact changeSection_inShape (f := fun d => { d with holds := d.holds.filter fun x => x.source ≠ src })
      (fun _ => rfl) h
  · exact h

@[simp] theorem countLocked_inShape {e : Ev} {a : AnchorId} {f : Nat → Nat} (h : TablesInShape e.st) :
    TablesInShape (e.countLocked a f).st :=
  changeSection_inShape (fun _ => List.length_set) h

@[simp] theorem leftSuspect_inShape {e : Ev} {n : Nat} (h : TablesInShape e.st) : TablesInShape (e.leftSuspect n).st := by
  unfold Ev.leftSuspect
  split
  · exact h
  · exact removeHold_inShape h

theorem modCure_inShape {e : Ev} {f : List CureEntry → List CureEntry} (h : TablesInShape e.st) :
    TablesInShape (e.mod fun s => { s with cure := f s.cure }).st :=
  h.of_same rfl rfl

/-- A choice between an event in progress and a further operation on it. -/
theorem ite_inShape {c : Prop} [Decidable c] {e f : Ev} (hf : TablesInShape e.st → TablesInShape f.st)
    (h : TablesInShape e.st) : TablesInShape (if c then f else e).st := by
  split
  · exact hf h
  · exact h

@[simp] theorem changeStage_inShape {e : Ev} {old new : AnchorRec} (h : TablesInShape e.st) :
    TablesInShape (e.changeStage old new).st := by
  unfold Ev.changeStage
  exact ite_inShape leftSuspect_inShape (ite_inShape countLocked_inShape (ite_inShape countLocked_inShape
    (ite_inShape (modCure_inShape (f := joinCure _)) (ite_inShape (modCure_inShape (f := leaveCure _))
      (writeAnchor_inShape h)))))

/-! ## The stressing engine -/

@[simp] theorem changeSession_inShape {e : Ev} {f : Session → Session} (h : TablesInShape e.st) :
    TablesInShape (e.changeSession f).st :=
  h.of_same rfl rfl

@[simp] theorem changeResult_inShape {e : Ev} {f : TestResult → TestResult} (h : TablesInShape e.st) :
    TablesInShape (e.changeResult f).st := by
  unfold Ev.changeResult
  split <;> simp [h]

@[simp] theorem takeReading_inShape {e : Ev} {b : ReadingBody} (h : TablesInShape e.st) :
    TablesInShape (e.takeReading b).st := by
  unfold Ev.takeReading
  split
  · exact writeAnchor_inShape (h.of_same rfl rfl)
  · exact h

@[simp] theorem returnReadings_inShape {e : Ev} {back : List Nat} (h : TablesInShape e.st) :
    TablesInShape (e.returnReadings back).st := by
  unfold Ev.returnReadings
  split
  · exact h
  · exact writeAnchor_inShape (h.of_same rfl rfl)

@[simp] theorem moveOn_inShape {e : Ev} (h : TablesInShape e.st) : TablesInShape e.moveOn.st :=
  h.of_frame (moveOn_frame e) (by simp) (by simp)

@[simp] theorem endWith_inShape {e : Ev} {v : Verdict} (h : TablesInShape e.st) : TablesInShape (e.endWith v).st := by
  unfold Ev.endWith
  split
  · exact h
  · exact changeStage_inShape (h.of_same rfl rfl)

theorem foldl_inShape {α : Type} (l : List α) (f : Ev → α → Ev)
    (hf : ∀ e a, TablesInShape e.st → TablesInShape (f e a).st) {e : Ev} (h : TablesInShape e.st) :
    TablesInShape (l.foldl f e).st := by
  induction l generalizing e with
  | nil => exact h
  | cons a rest ih => exact ih (hf e a h)

@[simp] theorem takeSummaries_inShape {e : Ev} {fs : List StageFrame} {q : Option Int} (h : TablesInShape e.st) :
    TablesInShape (e.takeSummaries fs q).st := by
  unfold Ev.takeSummaries
  split
  · exact h
  · exact foldl_inShape _ _ (fun e g => takeReading_inShape) (takeReading_inShape h)

@[simp] theorem evaluate_inShape {e : Ev} {v : Evaluated} (h : TablesInShape e.st) :
    TablesInShape (e.evaluate v).st := by
  unfold Ev.evaluate
  cases v.lapp <;> cases v.verdict <;> simp [h]

@[simp] theorem unload_inShape {e : Ev} {o : OpenTest} {f : Nat} (h : TablesInShape e.st) :
    TablesInShape (e.unload o f).st := by
  have hpopped : ∀ q, TablesInShape ((e.takeSummaries (poppedFrames f o.sess) q).changeSession fun x =>
      { x with stages := x.stages.dropWhile fun g => f < g.fraction }).st :=
    fun _ => changeSession_inShape (takeSummaries_inShape h)
  unfold Ev.unload
  dsimp only
  split
  · exact evaluate_inShape (hpopped _)
  · exact moveOn_inShape (hpopped _)

@[simp] theorem carryOut_inShape {e : Ev} {o : OpenTest} {i : Nat} (h : TablesInShape e.st) :
    TablesInShape (e.carryOut o i).st := by
  unfold Ev.carryOut
  split <;> simp [h]

@[simp] theorem voidHold_inShape {e : Ev} {x : Session} {top : StageFrame} {c : HoldCtx} {cause : VoidCause}
    (h : TablesInShape e.st) : TablesInShape (e.voidHold x top c cause).st := by
  unfold Ev.voidHold
  dsimp only
  split
  · exact endWith_inShape (changeSession_inShape (returnReadings_inShape h))
  · exact changeSession_inShape (returnReadings_inShape h)

@[simp] theorem writeCreep_inShape {e : Ev} {b : Bool} {k : Int} (h : TablesInShape e.st) :
    TablesInShape (e.writeCreep b k).st := by
  unfold Ev.writeCreep
  split <;> simp [h]

@[simp] theorem completeHold_inShape {e : Ev} {top : StageFrame} {k : Option Int} (h : TablesInShape e.st) :
    TablesInShape (e.completeHold top k).st := by
  unfold Ev.completeHold
  have hcreep : TablesInShape ((match k with | none => e | some k => e.writeCreep top.critical k : Ev)).st := by
    cases k <;> simp [h]
  dsimp only
  split
  · exact hcreep
  · exact moveOn_inShape (changeSession_inShape hcreep)

theorem failCreep_inShape {e : Ev} {top : StageFrame} {k : Int} (h : TablesInShape e.st) :
    TablesInShape (e.failCreep top k).st :=
  endWith_inShape (writeCreep_inShape h)

@[simp] theorem decideAtD_inShape {e : Ev} {top : StageFrame} {c : HoldCtx} (h : TablesInShape e.st) :
    TablesInShape (e.decideAtD top c).st := by
  unfold Ev.decideAtD
  dsimp only
  split_ifs
  · exact completeHold_inShape h
  · exact completeHold_inShape (changeSession_inShape h)
  · exact changeSession_inShape (changeSession_inShape h)
  · exact failCreep_inShape (changeSession_inShape h)

@[simp] theorem decideAt10D_inShape {e : Ev} {top : StageFrame} {c : HoldCtx} (h : TablesInShape e.st) :
    TablesInShape (e.decideAt10D top c).st := by
  unfold Ev.decideAt10D
  dsimp only
  split
  · exact completeHold_inShape (changeSession_inShape h)
  · exact failCreep_inShape (changeSession_inShape h)

@[simp] theorem reachPoint_inShape {e : Ev} {x : Session} {c : HoldCtx} {i : Nat} (h : TablesInShape e.st) :
    TablesInShape (e.reachPoint x c i).st := by
  have hread : ∀ f, TablesInShape ((e.takeReading (readingNow e.st .holdPoint)).changeSession f).st :=
    fun _ => changeSession_inShape (takeReading_inShape h)
  unfold Ev.reachPoint
  dsimp only
  split
  · exact hread _
  · split_ifs
    · exact decideAtD_inShape (hread _)
    · exact decideAt10D_inShape (hread _)
    · exact hread _

@[simp] theorem runHold_inShape {e : Ev} {x : Session} {c : HoldCtx} (h : TablesInShape e.st) :
    TablesInShape (e.runHold x c).st := by
  unfold Ev.runHold
  dsimp only
  split
  · split <;> simp [h]
  · simp [h]

@[simp] theorem judgeHold_inShape {e : Ev} {x : Session} {top : StageFrame} {c : HoldCtx} (h : TablesInShape e.st) :
    TablesInShape (e.judgeHold x top c).st := by
  unfold Ev.judgeHold Ev.countHold
  split_ifs <;> simp [h]

@[simp] theorem failLift_inShape {e : Ev} {x : Session} (h : TablesInShape e.st) : TablesInShape (e.failLift x).st := by
  unfold Ev.failLift
  split <;> simp [h, announceStep_st]

@[simp] theorem judgeLift_inShape {e : Ev} {x : Session} {l : LiftCtx} (h : TablesInShape e.st) :
    TablesInShape (e.judgeLift x l).st := by
  have hlift : TablesInShape (e.changeSession fun y =>
      { y with phase := .liftoff (l.judge (channelValue e.st.meas .load) e.st.meas.extension (lockLoad e.st x.anchor)) }).st :=
    changeSession_inShape h
  unfold Ev.judgeLift Ev.captureLift
  dsimp only
  split_ifs
  · exact h
  · exact endWith_inShape (takeReading_inShape (changeResult_inShape hlift))
  · exact failLift_inShape (takeReading_inShape (changeResult_inShape hlift))
  · exact failLift_inShape (takeReading_inShape hlift)
  · exact hlift

@[simp] theorem judgeSession_inShape {e : Ev} (h : TablesInShape e.st) : TablesInShape e.judgeSession.st := by
  unfold Ev.judgeSession
  split
  · exact h
  · split <;> simp [h]

/-! ## The grout lines and the watch unit -/

@[simp] theorem changeOpenEntry_inShape {e : Ev} {c : LineCtx} {f : PassEntry → PassEntry} (h : TablesInShape e.st) :
    TablesInShape (e.changeOpenEntry c f).st := by
  unfold Ev.changeOpenEntry
  split <;> simp [h]

theorem modLine_inShape {e : Ev} {l : GLine} {c : Option LineCtx} (h : TablesInShape e.st) :
    TablesInShape (e.mod fun s => setLineCtx s l c).st :=
  h.of_same rfl rfl

@[simp] theorem judgeLineLimit_inShape {e : Ev} {l : GLine} {c : LineCtx} {v : Nat} (h : TablesInShape e.st) :
    TablesInShape (e.judgeLineLimit l c v).st := by
  unfold Ev.judgeLineLimit
  dsimp only
  split
  · exact changeOpenEntry_inShape (modLine_inShape h)
  · exact modLine_inShape h

@[simp] theorem judgeLine_inShape {e : Ev} {l : GLine} (h : TablesInShape e.st) : TablesInShape (e.judgeLine l).st := by
  unfold Ev.judgeLine
  split
  · exact h
  · unfold Ev.judgeLineRefusal
    dsimp only
    split
    · exact changeOpenEntry_inShape (modLine_inShape (judgeLineLimit_inShape h))
    · exact modLine_inShape (judgeLineLimit_inShape h)

@[simp] theorem changeWatch_inShape {e : Ev} {w : WatchId} {f : WatchState → WatchState} (h : TablesInShape e.st) :
    TablesInShape (e.changeWatch w f).st :=
  h.of_same rfl rfl

@[simp] theorem actionHold_inShape {e : Ev} {w : WatchId} {n : Option Nat} (h : TablesInShape e.st) :
    TablesInShape (e.actionHold w n).st := by
  unfold Ev.actionHold
  split <;> simp [h]

@[simp] theorem tripWatch_inShape {e : Ev} {w : WatchId} {v : Int} (h : TablesInShape e.st) :
    TablesInShape (e.tripWatch w v).st := by
  unfold Ev.tripWatch
  split
  · exact changeWatch_inShape (changeWatch_inShape h)
  · unfold Ev.actionTrip
    dsimp only [Ev.raise_st]
    exact changeWatch_inShape (actionHold_inShape (changeWatch_inShape h))

@[simp] theorem countWatch_inShape {e : Ev} {w : WatchId} {b : Bool} {v : Int} (h : TablesInShape e.st) :
    TablesInShape (e.countWatch w b v).st := by
  unfold Ev.countWatch
  split_ifs <;> simp [h]

@[simp] theorem feedWatches_inShape {e : Ev} {fed : WatchSource → Bool} (h : TablesInShape e.st) :
    TablesInShape (e.feedWatches fed).st := by
  refine foldl_inShape _ _ (fun e w he => ?_) h
  unfold Ev.evaluateWatch
  dsimp only
  split <;> simp [he]

theorem evaluateRise_inShape {e : Ev} {w : WatchId} (h : TablesInShape e.st) : TablesInShape (e.evaluateRise w).st := by
  unfold Ev.evaluateRise
  dsimp only
  split <;> simp [h]

/-! ## The sample set -/

/-- A change of every section that leaves the counts alone. -/
theorem mapSections_inShape {s t : State} {f : SectionRec → SectionRec}
    (hf : ∀ r, (f r).data.counts.length = r.data.counts.length) (ha : t.anchors = s.anchors)
    (hs : t.sections = s.sections.map f) (h : TablesInShape s) : TablesInShape t := by
  refine ⟨by rw [hs, List.length_map]; exact h.len, fun r hr => ?_, by rw [ha]; exact h.ids⟩
  rw [hs] at hr
  obtain ⟨q, hq, rfl⟩ := List.mem_map.1 hr
  exact (hf q).trans (h.eight q hq)

theorem tick_inShape {s : State} (h : TablesInShape s) : TablesInShape (tickTime (tickClock s)) := by
  have hclock : TablesInShape (tickClock s) := by
    unfold tickClock
    split
    · exact h.of_same rfl rfl
    · exact h
  unfold tickTime
  split
  · exact hclock.of_same rfl rfl
  · exact mapSections_inShape (s := tickClock s) (f := SectionRec.older) (fun _ => rfl) rfl rfl hclock

theorem sampleEvent_inShape (x : SampleIn) {s : State} (h : TablesInShape s) : TablesInShape (sampleEvent x s).st := by
  have hrig : TablesInShape (measuredEvent x s).judgeRig.st :=
    h.of_frame ((measuredEvent_frame x s).trans (judgeRig_frame _)) (by simp) (by simp)
  exact tick_inShape (judgeSession_inShape (feedWatches_inShape (judgeLine_inShape (judgeLine_inShape hrig))))

end Sys2Proof.Machine
end

section
/-! SUPPORT. The fixed sizes (R1, R29, R30, R40, R103, R105): the tables of the part, and what its store and the write in
progress hold of them. -/

namespace Sys2Proof.Machine

/-! ## The sizes, by place -/

/-- The tables of the part have their sizes, and the results are those of the validation. -/
structure PartSized (s : State) : Prop where
  shape : TablesInShape s
  config : ConfigSized s.config
  schedule : ScheduleSized s.schedule
  results : ResultsCurrent s

/-- The blocks and the directory copies of a store have their sizes. -/
structure BlocksSized (st : Store) : Prop where
  config : ∀ c, st.config = some c → ConfigSized c
  schedule : ∀ c, st.schedule = some c → ScheduleSized c
  first : ∀ c, st.dirFirst = some c → DirSound c
  second : ∀ c, st.dirSecond = some c → DirSound c
  sections : ∀ l, st.sections = some l → SectionsSized l

/-- The content of a write in progress has its size. -/
def JobSized : WriteJob → Prop
  | .config c => ConfigSized c
  | .schedule c => ScheduleSized c
  | .directory _ c => DirSound c
  | .sections l => SectionsSized l
  | _ => True

/-- The store and the write in progress have their sizes. -/
structure StoreSized (s : State) : Prop where
  blocks : BlocksSized s.store
  job : ∀ j n, s.recorder.writer = .writing j n → JobSized j

theorem tablesSized_iff (s : State) : TablesSized s ↔ PartSized s ∧ StoreSized s := by
  constructor
  · rintro ⟨hlen, height, hconfig, hsched, hsconfig, hssched, hjconfig, hjsched, hids, hfirst, hsecond, hjdir, hres, hsecs,
      hjsecs⟩
    refine ⟨⟨⟨hlen, height, hids⟩, hconfig, hsched, hres⟩, ⟨hsconfig, hssched, hfirst, hsecond, hsecs⟩, fun j n hj => ?_⟩
    cases j with
    | config c => exact hjconfig c n hj
    | schedule c => exact hjsched c n hj
    | directory b c => exact hjdir b c n hj
    | sections l => exact hjsecs l n hj
    | image | entry | mark => trivial
  · rintro ⟨⟨⟨hlen, height, hids⟩, hconfig, hsched, hres⟩, ⟨hsconfig, hssched, hfirst, hsecond, hsecs⟩, hjob⟩
    exact ⟨hlen, height, hconfig, hsched, hsconfig, hssched, fun c n => hjob (.config c) n,
      fun c n => hjob (.schedule c) n, hids, hfirst, hsecond, fun b c n => hjob (.directory b c) n, hres, hsecs,
      fun l n => hjob (.sections l) n⟩

theorem StoreKept.sized {s t : State} (h : StoreKept s t) (hs : StoreSized s) : StoreSized t :=
  ⟨h.1 ▸ hs.blocks, fun j n hj => (h.2 j n hj).elim fun m hm => hs.job j m hm⟩

/-! ## Requests: the anchor table and the section table -/

theorem defineAnchorReply_inShape (pl : List Byte) {s : State} (h : TablesInShape s) :
    TablesInShape (defineAnchorReply pl s).ev.st := by
  unfold defineAnchorReply
  split
  · exact h
  · split
    · split
      · exact writeAnchor_inShape h
      · exact h
    · split
      · exact h
      · refine ⟨h.len, h.eight, fun r hr => ?_⟩
        obtain rfl | hr := List.mem_cons.1 ((insert_perm _ _).mem_iff.1 hr)
        · exact anchorField_range pl
        · exact h.ids r hr

theorem setAnchorGeometryReply_inShape (pl : List Byte) {s : State} (h : TablesInShape s) :
    TablesInShape (setAnchorGeometryReply pl s).ev.st := by
  unfold setAnchorGeometryReply
  split
  · exact h
  · split
    · exact h
    · split
      · exact h
      · exact writeAnchor_inShape h

theorem deleteAnchorReply_inShape (pl : List Byte) {s : State} (h : TablesInShape s) :
    TablesInShape (deleteAnchorReply pl s).ev.st := by
  unfold deleteAnchorReply
  split
  · exact h
  · split
    · exact ⟨h.len, h.eight, fun r hr => h.ids r (List.mem_of_mem_filter hr)⟩
    · exact h

theorem abandonAnchorReply_inShape (pl : List Byte) {s : State} (h : TablesInShape s) :
    TablesInShape (abandonAnchorReply pl s).ev.st := by
  unfold abandonAnchorReply
  split
  · exact h
  · split_ifs
    · exact h
    · exact h
    · exact changeStage_inShape (h.of_same rfl rfl)

theorem retestAnchorReply_inShape (pl : List Byte) {s : State} (h : TablesInShape s) :
    TablesInShape (retestAnchorReply pl s).ev.st := by
  unfold retestAnchorReply
  split
  · exact h
  · split
    · exact changeStage_inShape (h.of_same rfl rfl)
    · exact h

theorem settleAnchorReply_inShape (pl : List Byte) {s : State} (h : TablesInShape s) :
    TablesInShape (settleAnchorReply pl s).ev.st := by
  unfold settleAnchorReply
  split
  · exact h
  · split
    · exact h
    · split
      · exact h
      · split_ifs
        · exact h
        · exact h
        · exact h
        · exact changeStage_inShape (h.of_frame (settledState_frame s _ _) (by simp) (by simp))

theorem tendonStartReply_inShape (pl : List Byte) {s : State} (h : TablesInShape s) :
    TablesInShape (tendonStartReply pl s).ev.st := by
  obtain ⟨c, hr⟩ | ⟨r, g, now, hr⟩ := tendonStartReply_cases pl s
  · rw [hr]
    exact h
  · rw [hr]
    exact changeStage_inShape (h.of_same rfl rfl)

theorem tendonDoneReply_inShape (pl : List Byte) {s : State} (h : TablesInShape s) :
    TablesInShape (tendonDoneReply pl s).ev.st := by
  unfold tendonDoneReply
  split
  · exact h
  · split
    · exact h
    · exact changeStage_inShape (h.of_same rfl rfl)

theorem tendonWithdrawReply_inShape (pl : List Byte) {s : State} (h : TablesInShape s) :
    TablesInShape (tendonWithdrawReply pl s).ev.st := by
  unfold tendonWithdrawReply
  split
  · exact h
  · split
    · exact h
    · exact changeStage_inShape (h.of_same rfl rfl)

theorem injectStartReply_inShape (pl : List Byte) {s : State} (h : TablesInShape s) :
    TablesInShape (injectStartReply pl s).ev.st := by
  obtain ⟨c, hr⟩ | ⟨r, l, k, now, hr⟩ := injectStartReply_cases pl s
  · rw [hr]
    exact h
  · rw [hr]
    exact changeStage_inShape (h.of_same rfl rfl)

theorem injectEndReply_inShape (pl : List Byte) {s : State} (h : TablesInShape s) :
    TablesInShape (injectEndReply pl s).ev.st := by
  unfold injectEndReply
  split
  · exact h
  · split
    · exact h
    · split
      · exact h
      · exact changeStage_inShape (h.of_same rfl rfl)

theorem interruptReply_inShape (how : SessionEnd) {s : State} (h : TablesInShape s) :
    TablesInShape (interruptReply how s).ev.st := by
  unfold interruptReply
  split
  · exact h
  · rename_i o _
    have hpool : TablesInShape (interruptedPool s o) := by
      unfold interruptedPool
      split <;> exact h.of_same rfl rfl
    exact changeStage_inShape hpool

theorem stressOpenReply_inShape (pl : List Byte) {s : State} (h : TablesInShape s) :
    TablesInShape (stressOpenReply pl s).ev.st := by
  have hopen : ∀ r d path area now w, TablesInShape (stressOpenDone s r d path area now w).ev.st := by
    intro r d path area now w
    unfold stressOpenDone
    dsimp only [doneWith_ev]
    rw [announceStep_st]
    exact changeStage_inShape (h.of_same rfl rfl)
  unfold stressOpenReply
  split
  · exact h
  · split
    · exact h
    · split
      · exact h
      · split
        · exact h
        · split
          · exact h
          · split_ifs
            case neg =>
              unfold stressOpenOn
              split
              · exact h
              · split_ifs
                case neg => exact hopen _ _ _ _ _ _
                all_goals exact h
            all_goals exact h

theorem advanceReply_inShape {s : State} (h : TablesInShape s) : TablesInShape (advanceReply s).ev.st := by
  have hon : ∀ o k, TablesInShape (advanceOn s o k).ev.st := by
    intro o k
    unfold advanceOn
    split_ifs
    case neg => exact carryOut_inShape (takeReading_inShape h)
    all_goals exact h
  unfold advanceReply
  split
  · exact h
  · split
    · exact h
    · exact h
    · exact h
    all_goals
      split
      · exact h
      · exact hon _ _

theorem releaseReply_inShape {s : State} (h : TablesInShape s) : TablesInShape (releaseReply s).ev.st := by
  unfold releaseReply
  split
  · exact h
  · split
    · split
      · exact h
      · unfold releaseDone
        dsimp only [doneWith_ev]
        rw [announceStep_st]
        exact changeSession_inShape (takeReading_inShape (changeResult_inShape h))
    · exact h

theorem setHoldReply_inShape (pl : List Byte) {s : State} (h : TablesInShape s) :
    TablesInShape (setHoldReply pl s).ev.st := by
  unfold setHoldReply
  split
  · split
    · exact h
    · exact writeHold_inShape h
  · exact h

theorem releaseHoldReply_inShape (pl : List Byte) {s : State} (h : TablesInShape s) :
    TablesInShape (releaseHoldReply pl s).ev.st := by
  unfold releaseHoldReply
  split
  · split
    · exact h
    · exact h
    · exact removeHold_inShape h
  · exact h

theorem setSectionReply_inShape (pl : List Byte) {s : State} (h : TablesInShape s) :
    TablesInShape (setSectionReply pl s).ev.st := by
  unfold setSectionReply
  split
  · dsimp only [doneWith_ev]
    exact changeSection_inShape (fun _ => rfl) h
  · exact h

theorem sectionRec_eight {s : State} (h : TablesInShape s) (n : Nat) : (sectionRec s n).data.counts.length = 8 := by
  unfold sectionRec
  rw [List.getD_eq_getElem?_getD]
  cases hget : s.sections[n - 1]? with
  | none => rfl
  | some r => exact h.eight r (List.mem_of_getElem? hget)

theorem setSection_inShape {s : State} {n : Nat} {r : SectionRec} (hr : r.data.counts.length = 8)
    (h : TablesInShape s) : TablesInShape (setSection s n r) := by
  refine ⟨List.length_set.trans h.len, fun q hq => ?_, h.ids⟩
  obtain hq | rfl := List.mem_or_eq_of_mem_set hq
  · exact h.eight q hq
  · exact hr

theorem reportEvent_inShape (n : Nat) (v : Int) {s : State} (h : TablesInShape s) :
    TablesInShape (reportEvent s n v).st := by
  have hreported : TablesInShape (reportedSection s n v) := setSection_inShape (sectionRec_eight h n) h
  refine feedWatches_inShape ?_
  unfold Ev.compareLimit
  dsimp only
  split
  · exact writeHold_inShape hreported
  · exact hreported

theorem reportDeflectionReply_inShape (pl : List Byte) {s : State} (h : TablesInShape s) :
    TablesInShape (reportDeflectionReply pl s).ev.st := by
  unfold reportDeflectionReply
  split
  · exact reportEvent_inShape _ _ h
  · exact h

theorem defaultSections_inShape (ns : List Nat) {e : Ev} (h : TablesInShape e.st) :
    TablesInShape (e.defaultSections ns).st := by
  have hall : ∀ u, TablesInShape u → TablesInShape (ns.foldl (fun acc n => setSection acc n SectionRec.default) u) := by
    induction ns with
    | nil => exact fun u hu => hu
    | cons n rest ih => exact fun u hu => ih _ (setSection_inShape rfl hu)
  unfold Ev.defaultSections
  split
  · exact h
  · exact hall _ h

theorem storeParam_inShape (k : ParamId) (v : Nat) {s : State} (h : TablesInShape s) :
    TablesInShape (storeParam s k v).st := by
  have hstored : TablesInShape ((Ev.of { s with config := { s.config with params := s.config.params.set k v } }).dirtied
      .config).st := h.of_same rfl rfl
  unfold storeParam Ev.paramEffect
  cases k
  case sectionCount => exact defaultSections_inShape _ hstored
  case stalePeriod => exact mapSections_inShape (s := s) (f := fun r => { r with stale := ageStale v r.age }) (fun _ => rfl) rfl rfl h
  all_goals exact hstored

theorem setParameterReply_cases (pl : List Byte) (s : State) : (∃ c, setParameterReply pl s = refuse s c) ∨
    ∃ k v d, setParameterReply pl s = doneWith (storeParam s k (clampParam k v)) d := by
  unfold setParameterReply
  split
  · exact .inl ⟨_, rfl⟩
  · split
    · exact .inl ⟨_, rfl⟩
    · exact .inr ⟨_, _, _, rfl⟩

theorem setParameterReply_inShape (pl : List Byte) {s : State} (h : TablesInShape s) :
    TablesInShape (setParameterReply pl s).ev.st := by
  obtain ⟨c, hr⟩ | ⟨k, v, d, hr⟩ := setParameterReply_cases pl s
  · rw [hr]
    exact h
  · rw [hr]
    exact storeParam_inShape k _ h

theorem reqReply_inShape (k : ReqKind) (p : Port) (pl : List Byte) {s : State} (h : TablesInShape s) :
    TablesInShape (reqReply k p pl s).ev.st := by
  have hf := reqReply_frame k p pl s
  cases k
  case defineAnchor => exact defineAnchorReply_inShape pl h
  case setAnchorGeometry => exact setAnchorGeometryReply_inShape pl h
  case deleteAnchor => exact deleteAnchorReply_inShape pl h
  case abandonAnchor => exact abandonAnchorReply_inShape pl h
  case retestAnchor => exact retestAnchorReply_inShape pl h
  case settleAnchor => exact settleAnchorReply_inShape pl h
  case tendonStart => exact tendonStartReply_inShape pl h
  case tendonDone => exact tendonDoneReply_inShape pl h
  case tendonWithdraw => exact tendonWithdrawReply_inShape pl h
  case injectStart => exact injectStartReply_inShape pl h
  case injectEnd => exact injectEndReply_inShape pl h
  case stressOpen => exact stressOpenReply_inShape pl h
  case advance => exact advanceReply_inShape h
  case release => exact releaseReply_inShape h
  case stressAbort => exact interruptReply_inShape .abort h
  case stopSession => exact interruptReply_inShape .stop h
  case setHold => exact setHoldReply_inShape pl h
  case releaseHold => exact releaseHoldReply_inShape pl h
  case setSection => exact setSectionReply_inShape pl h
  case reportDeflection => exact reportDeflectionReply_inShape pl h
  case setParameter => exact setParameterReply_inShape pl h
  all_goals exact h.of_frame hf (by simp [replyParts, reqTouches]) (by simp [replyParts, reqTouches])

/-! ## Requests: the configuration -/

theorem clampParam_sectionCount (v : Int) : 2 ≤ clampParam .sectionCount v ∧ clampParam .sectionCount v ≤ 64 := by
  simp only [clampParam, clampInt]
  omega

theorem swapThreshold_sized {e : Ev} {w : WatchId} (h : ConfigSized e.st.config) :
    ConfigSized (e.swapThreshold w).st.config := by
  unfold Ev.swapThreshold
  split <;> exact h

theorem disableEvent_sized (w : WatchId) {s : State} (h : ConfigSized s.config) :
    ConfigSized (disableEvent s w).st.config := by
  have hrestart : ∀ (e : Ev) b, (e.restartChain w b).st.config = e.st.config :=
    fun e b => restartChain_frame e w b .config (by simp)
  unfold disableEvent
  rw [hrestart]
  exact swapThreshold_sized (e := ((Ev.of s).resetWatches [w]).changeWatch w _) h

theorem rearmEvent_sized (w : WatchId) {s : State} (h : ConfigSized s.config) :
    ConfigSized (rearmEvent s w).st.config := by
  have hswap : ∀ (ws : List WatchId) (e : Ev), ConfigSized e.st.config →
      ConfigSized (ws.foldl (fun acc v => (acc.swapThreshold v).releaseLatch v) e).st.config := by
    intro ws
    induction ws with
    | nil => exact fun e he => he
    | cons v rest ih => exact fun e he => ih _ (swapThreshold_sized he)
  unfold rearmEvent
  rw [armIfEnabled_frame _ _ .config (by simp), resetWatches_frame _ _ .config (by simp)]
  exact hswap _ _ h

theorem reqReply_configSized (k : ReqKind) (p : Port) (pl : List Byte) {s : State} (h : ConfigSized s.config) :
    ConfigSized (reqReply k p pl s).ev.st.config := by
  have hf := reqReply_frame k p pl s
  have hzone : ∀ b, ConfigSized (setZoneReply b pl s).ev.st.config := by
    intro b
    unfold setZoneReply
    split_ifs
    · exact h
    · exact ⟨List.length_set.trans h.1, h.2⟩
    · exact h
  cases k
  case openZone => exact hzone true
  case closeZone => exact hzone false
  case setParameter =>
    change ConfigSized (setParameterReply pl s).ev.st.config
    obtain ⟨c, hr⟩ | ⟨k, v, d, hr⟩ := setParameterReply_cases pl s
    · rw [hr]
      exact h
    · rw [hr, doneWith_ev, storeParam_config]
      cases k
      case sectionCount => exact ⟨h.1, clampParam_sectionCount v⟩
      all_goals exact h
  case setCalibration =>
    change ConfigSized (setCalibrationReply pl s).ev.st.config
    unfold setCalibrationReply
    split
    · exact h
    · split
      · exact h
      · rw [doneWith_ev, calibrateEvent, faultChange_st, faultChange_st]
        exact h
  case watchConfigure =>
    change ConfigSized (watchConfigureReply pl s).ev.st.config
    unfold watchConfigureReply
    split
    · exact h
    · split
      · exact h
      · split <;> exact h
  case watchThreshold =>
    change ConfigSized (watchThresholdReply pl s).ev.st.config
    unfold watchThresholdReply acceptThreshold
    split
    · exact h
    · split
      · exact h
      · split <;> exact h
  case watchDisable =>
    change ConfigSized (watchDisableReply pl s).ev.st.config
    unfold watchDisableReply
    split
    · exact h
    · split
      · exact disableEvent_sized _ h
      · exact h
  case watchRearm =>
    change ConfigSized (watchRearmReply pl s).ev.st.config
    unfold watchRearmReply
    split
    · exact h
    · exact rearmEvent_sized _ h
  all_goals
    rw [hf .config (by simp [replyParts, reqTouches])]
    exact h

/-! ## Requests: the schedule -/

theorem reqReply_schedule (k : ReqKind) (p : Port) (pl : List Byte) {s : State} (h : ScheduleSized s.schedule)
    (hr : ResultsCurrent s) :
    ScheduleSized (reqReply k p pl s).ev.st.schedule ∧ ResultsCurrent (reqReply k p pl s).ev.st := by
  have hf := reqReply_frame k p pl s
  cases k
  case writeStep =>
    change ScheduleSized (writeStepReply pl s).ev.st.schedule ∧ ResultsCurrent (writeStepReply pl s).ev.st
    unfold writeStepReply
    split
    · exact ⟨h, hr⟩
    · split
      · exact ⟨h, hr⟩
      · split
        · exact ⟨h, hr⟩
        · exact ⟨List.length_set.trans h, rfl⟩
  case setScheduleHead =>
    change ScheduleSized (setScheduleHeadReply pl s).ev.st.schedule ∧ ResultsCurrent (setScheduleHeadReply pl s).ev.st
    unfold setScheduleHeadReply
    split
    · split
      · exact ⟨h, hr⟩
      · exact ⟨h, rfl⟩
    · exact ⟨h, hr⟩
  all_goals
    rw [ResultsCurrent, hf .schedule (by simp [replyParts, reqTouches]),
      hf .results (by simp [replyParts, reqTouches])]
    exact ⟨h, hr⟩

theorem reqReply_sized (k : ReqKind) (p : Port) (pl : List Byte) {s : State} (h : PartSized s) :
    PartSized (reqReply k p pl s).ev.st :=
  ⟨reqReply_inShape k p pl h.shape, reqReply_configSized k p pl h.config,
    (reqReply_schedule k p pl h.schedule h.results).1, (reqReply_schedule k p pl h.schedule h.results).2⟩

end Sys2Proof.Machine
end

section
/-! SUPPORT. What one step can do to the record store and to the tables, each said once: a property of the store has four
cases to be kept in, a property of the tables one for every request and every event that reaches a table. -/

namespace Sys2Proof.Machine

/-! ## The record store (R180 to R184) -/

/-- What a step that is no reset does to the store and the write in progress: nothing, the oldest item's write begun, a
write completed, or the reset-cause record alone written. -/
inductive StoreMove (s t : State) : Prop
  | kept (h : StoreKept s t)
  | begun (i : Item) (ht : t = beginWrite s i)
  | completed {j noted} (hj : s.recorder.writer = .writing j noted) (hstore : t.store = storeJob s.store j)
      (hwriter : ∀ j' n, t.recorder.writer ≠ .writing j' n)
  | causeAlone (c : Option StoredCause) (hstore : t.store = { s.store with cause := c }) (hwrite : WriteKept s t)

theorem WriteKept.of_same {s t : State} (h : t.recorder.writer = s.recorder.writer) : WriteKept s t :=
  fun _ n hj => ⟨n, by rw [← h]; exact hj⟩

theorem writerAfter_notWriting (owed warning : Bool) (j : WriteJob) (n : Bool) : writerAfter owed warning ≠ .writing j n := by
  unfold writerAfter
  split_ifs <;> simp

theorem restartReply_kept (s : State) : StoreKept s (restartReply s).ev.st := by
  unfold restartReply
  split_ifs
  · exact .refl s
  · exact ⟨rfl, .of_same rfl⟩
  · exact ⟨rfl, .of_same rfl⟩

theorem reqReply_kept (k : ReqKind) (p : Port) (pl : List Byte) (s : State) : StoreKept s (reqReply k p pl s).ev.st := by
  have hf := reqReply_frame k p pl s
  cases k
  case restart => exact restartReply_kept s
  all_goals exact .of_frame hf (by simp [replyParts, reqTouches]) (by simp [replyParts, reqTouches])

theorem request_kept (k : ReqKind) (p : Port) (pl : List Byte) (s : State) :
    StoreKept s (commit (putAnswer k.code p (decide_ k p pl (reqReply k p pl) (takeFrame s p)))) := by
  have htaken : StoreKept s (takeFrame s p) := .of_frame (takeFrame_frame s p) (by simp) (by simp)
  refine .trans ?_ (commit_kept _)
  refine .trans ?_ (putAnswer_kept _ _ _)
  exact decide_induct (Q := StoreKept s) (htaken.trans (reqReply_kept k p pl _)) fun f =>
    htaken.trans (.of_frame (setFlags_frame _ _ f) (by simp) (by simp))

theorem causeWrittenEvent_store {s : State} {e : Ev} (h : causeWrittenEvent s = some e) : e = Ev.of (writeCause s) := by
  unfold causeWrittenEvent at h
  split_ifs at h
  exact (Option.some.inj h).symm

theorem ownEvent_store {s : State} {e : Ev} (h : OwnEvent s e) : StoreMove s (commit e) := by
  have hkept : StoreKept s e.st → StoreMove s (commit e) := fun hk => .kept (hk.trans (commit_kept e))
  cases h with
  | unknown he => exact hkept (.of_frame (unknownEvent_frame he) (by simp) (by simp))
  | sample x => exact hkept (sampleEvent_kept x s)
  | flow he => exact hkept (.of_frame (flowRateEvent_frame s e he) (by simp) (by simp))
  | rise he => exact hkept (.of_frame (riseEvent_frame s e he) (by simp) (by simp))
  | lapse he => exact hkept (.of_frame (chainLapseEvent_frame s e he) (by simp) (by simp))
  | refresh he => exact hkept (.of_frame (refreshEvent_frame _ s e he) (by simp) (by simp))
  | clockMark he => exact hkept (.of_frame (clockMarkEvent_frame s e he) (by simp) (by simp))
  | cure he => exact hkept (.of_frame (cureExpiryEvent_frame s e he) (by simp) (by simp))
  | warning hw => exact hkept ⟨rfl, raiseWarning_job s hw⟩
  | busOff he => exact hkept (.of_frame (busOffEvent_frame he) (by simp) (by simp))
  | rejoin he => exact hkept (.of_frame (rejoinEvent_frame he) (by simp) (by simp))
  | causeWritten he =>
    rw [causeWrittenEvent_store he]
    obtain ⟨hstore, hwrite⟩ := commit_kept (Ev.of (writeCause s))
    exact .causeAlone _ hstore fun j n hj => hwrite j n hj

theorem effect_store {s t : State} (h : Effect s t) : StoreMove s t := by
  cases h with
  | nothing => exact .kept (.refl s)
  | @request k p pl => exact .kept (request_kept k p pl s)
  | event he => exact ownEvent_store he
  | received | sent | second | winch | pulse | valve | stale => exact .kept ⟨rfl, .of_same rfl⟩
  | writeBegun i => exact .begun i rfl
  | writeDone hj => exact .completed hj rfl fun _ _ => writerAfter_notWriting _ _ _ _
  | marked => exact .causeAlone _ rfl fun j n hj => absurd hj (writerAfter_notWriting false s.supply.warning j n)

/-! ## The sizes in the store -/

theorem storeJob_sized {st : Store} {j : WriteJob} (h : BlocksSized st) (hj : JobSized j) :
    BlocksSized (storeJob st j) := by
  obtain ⟨hconfig, hsched, hfirst, hsecond, hsecs⟩ := h
  unfold storeJob
  split
  · exact ⟨hconfig, hsched, hfirst, hsecond, hsecs⟩
  · exact ⟨hconfig, hsched, hfirst, hsecond, hsecs⟩
  · exact ⟨hconfig, hsched, fun c hc => Option.some.inj hc ▸ hj, hsecond, hsecs⟩
  · exact ⟨hconfig, hsched, hfirst, fun c hc => Option.some.inj hc ▸ hj, hsecs⟩
  · exact ⟨hconfig, hsched, hfirst, hsecond, fun c hc => Option.some.inj hc ▸ hj⟩
  · exact ⟨fun c hc => Option.some.inj hc ▸ hj, hsched, hfirst, hsecond, hsecs⟩
  · exact ⟨hconfig, fun c hc => Option.some.inj hc ▸ hj, hfirst, hsecond, hsecs⟩
  · exact ⟨hconfig, hsched, hfirst, hsecond, hsecs⟩
  · exact ⟨hconfig, hsched, hfirst, hsecond, hsecs⟩
  · exact ⟨hconfig, hsched, hfirst, hsecond, hsecs⟩

/-- The content of a directory table is the content put in, or of before. -/
theorem mem_tablePut_val {α : Type} {t : List (Slot α)} {i : Nat} {v : α} {x : Slot α} (h : x ∈ tablePut t i v) :
    x.val = v ∨ x ∈ t := by
  induction t with
  | nil =>
    simp only [tablePut, List.mem_singleton] at h
    exact .inl (h ▸ rfl)
  | cons y rest ih =>
    simp only [tablePut] at h
    split_ifs at h <;> simp only [List.mem_cons] at h ⊢
    · obtain rfl | h := h
      · exact .inr (.inl rfl)
      · exact (ih h).imp_right .inr
    · obtain rfl | h := h
      · exact .inl rfl
      · exact .inr (.inr h)
    · obtain rfl | h := h
      · exact .inl rfl
      · exact .inr h

theorem directorySlots_sound {s : State} (h : ∀ r ∈ s.anchors, IdInRange r.id) (n : Nat) :
    DirSound { seq := n, slots := directorySlots s } := by
  have hall : ∀ (l : List AnchorRec) (acc : List (Slot AnchorId)), (∀ r ∈ l, IdInRange r.id) →
      (∀ x ∈ acc, IdInRange x.val) → ∀ x ∈ l.foldl (fun acc r => tablePut acc r.imageSlot r.id) acc, IdInRange x.val := by
    intro l
    induction l with
    | nil => exact fun acc _ hacc => hacc
    | cons r rest ih =>
      intro acc hl hacc
      refine ih _ (fun q hq => hl q (.tail _ hq)) fun x hx => ?_
      obtain hx | hx := mem_tablePut_val hx
      · exact hx ▸ hl r (.head _)
      · exact hacc x hx
  exact hall s.anchors [] h fun _ hx => nomatch hx

theorem jobOf_sized {s : State} (h : PartSized s) (i : Item) : JobSized (jobOf s i) := by
  cases i with
  | entry | image | mark => trivial
  | directory =>
    change JobSized (directoryJob s.store (directorySlots s))
    unfold directoryJob
    split
    · split <;> exact directorySlots_sound h.shape.ids _
    all_goals exact directorySlots_sound h.shape.ids _
  | sections =>
    refine ⟨(List.length_map _).trans h.shape.len, fun d hd => ?_⟩
    obtain ⟨r, hr, rfl⟩ := List.mem_map.1 hd
    exact h.shape.eight r hr
  | config => exact h.config
  | schedule => exact h.schedule

theorem StoreMove.sized {s t : State} (h : StoreMove s t) (hp : PartSized s) (hs : StoreSized s) : StoreSized t := by
  cases h with
  | kept h => exact h.sized hs
  | begun i ht =>
    subst ht
    refine ⟨hs.blocks, fun j n hj => ?_⟩
    cases hj
    exact jobOf_sized hp i
  | completed hj hstore hwriter =>
    exact ⟨hstore ▸ storeJob_sized hs.blocks (hs.job _ _ hj), fun j n hw => absurd hw (hwriter j n)⟩
  | causeAlone c hstore hwrite =>
    obtain ⟨hconfig, hsched, hfirst, hsecond, hsecs⟩ := hs.blocks
    refine ⟨?_, fun j n hj => (hwrite j n hj).elim fun m hm => hs.job j m hm⟩
    rw [hstore]
    exact ⟨hconfig, hsched, hfirst, hsecond, hsecs⟩

/-! ## The tables -/

/-- What every table property leaves unread. -/
def quietParts : List Part :=
  [.ports, .clock, .meas, .time, .supply, .store, .recorder, .watch, .permits, .freeIdx, .pending]

/-- The induction of a property of the tables over one step that is no reset. -/
structure TableRule (P : State → Prop) : Prop where
  quiet : ∀ {s t}, OnlyChanges quietParts s t → P s → P t
  request : ∀ (k : ReqKind) (p : Port) (pl : List Byte) {s}, P s → P (reqReply k p pl s).ev.st
  sample : ∀ (x : SampleIn) {s}, P s → P (sampleEvent x s).st
  flow : ∀ {s e}, flowRateEvent s = some e → P s → P e.st
  rise : ∀ {s e}, riseEvent s = some e → P s → P e.st
  refresh : ∀ {l s e}, refreshEvent l s = some e → P s → P e.st
  cure : ∀ {s e}, cureExpiryEvent s = some e → P s → P e.st
  stale : ∀ (n : Nat) {s}, P s → P (setSection s n { sectionRec s n with stale := true })

theorem commit_quiet (e : Ev) : OnlyChanges quietParts e.st (commit e) :=
  (commit_frame e e.st [] (.refl _ _)).mono (by simp [quietParts])

theorem quiet_of_same {s t : State} (hanchors : t.anchors = s.anchors) (hcure : t.cure = s.cure)
    (hsections : t.sections = s.sections) (hconfig : t.config = s.config) (hschedule : t.schedule = s.schedule)
    (hresults : t.results = s.results) (hrig : t.rig = s.rig) (hgrout : t.grout = s.grout)
    (hsession : t.session = s.session) (hpool : t.pool = s.pool) : OnlyChanges quietParts s t := by
  intro x hx
  cases x <;> simp_all [SamePart, quietParts]

theorem ownEvent_tables {P : State → Prop} (hP : TableRule P) {s : State} {e : Ev} (h : OwnEvent s e) (hs : P s) :
    P e.st := by
  have hquiet : ∀ {ps}, OnlyChanges ps s e.st → ps ⊆ quietParts → P e.st := fun hf hsub => hP.quiet (hf.mono hsub) hs
  cases h with
  | unknown he => exact hquiet (unknownEvent_frame he) (by simp [quietParts])
  | sample x => exact hP.sample x hs
  | flow he => exact hP.flow he hs
  | rise he => exact hP.rise he hs
  | lapse he => exact hquiet (chainLapseEvent_frame s e he) (by simp [quietParts])
  | refresh he => exact hP.refresh he hs
  | clockMark he => exact hquiet (clockMarkEvent_frame s e he) (by simp [quietParts])
  | cure he => exact hP.cure he hs
  | warning => exact hquiet (raiseWarning_frame s) (by simp [quietParts])
  | busOff he => exact hquiet (busOffEvent_frame he) (by simp [quietParts])
  | rejoin he => exact hquiet (rejoinEvent_frame he) (by simp [quietParts])
  | causeWritten he => exact hquiet (causeWrittenEvent_frame he) (by simp [quietParts])

theorem effect_tables {P : State → Prop} (hP : TableRule P) {s t : State} (h : Effect s t) (hs : P s) : P t := by
  cases h with
  | nothing => exact hs
  | @request k p pl =>
    have htaken : P (takeFrame s p) := hP.quiet ((takeFrame_frame s p).mono (by simp [quietParts])) hs
    have hdecided : P (decide_ k p pl (reqReply k p pl) (takeFrame s p)).ev.st :=
      decide_induct (Q := P) (hP.request k p pl htaken) fun f =>
        hP.quiet ((setFlags_frame _ _ f).mono (by simp [quietParts])) htaken
    exact hP.quiet (commit_quiet _)
      (hP.quiet (s := (decide_ k p pl (reqReply k p pl) (takeFrame s p)).ev.st)
        (quiet_of_same rfl rfl rfl rfl rfl rfl rfl rfl rfl rfl) hdecided)
  | event he => exact hP.quiet (commit_quiet _) (ownEvent_tables hP he hs)
  | stale n => exact hP.stale n hs
  | received | sent | second | winch | pulse | valve | writeBegun | writeDone | marked =>
    exact hP.quiet (s := s) (quiet_of_same rfl rfl rfl rfl rfl rfl rfl rfl rfl rfl) hs

end Sys2Proof.Machine
end

section
/-! SUPPORT. The rules of the tables (R1, R2, R23, R29, R34, R42, R103, R158): their sizes, their agreement and the reading
pool, each kept by every request and every event that reaches a table. -/

namespace Sys2Proof.Machine

/-! ## A section changed in its age and flags alone -/

theorem setSection_data (s : State) (n : Nat) (b : Bool) :
    (setSection s n { sectionRec s n with stale := b }).sections.map (·.data) = s.sections.map (·.data) := by
  change (s.sections.set (n - 1) _).map (·.data) = _
  rw [List.map_set]
  by_cases hn : n - 1 < s.sections.length
  · refine List.ext_getElem (by simp) fun i h1 h2 => ?_
    rw [List.getElem_set]
    split
    · rename_i hi
      subst hi
      simp only [sectionRec, List.getElem_map, List.getD_eq_getElem?_getD, List.getElem?_eq_getElem hn, Option.getD_some]
    · rfl
  · exact List.set_eq_of_length_le (by rw [List.length_map]; omega)

/-- The data of every section the same, the agreement of the tables is the same. -/
theorem TablesInOrder.of_data {s t : State} (hanchors : t.anchors = s.anchors) (hcure : t.cure = s.cure)
    (hdata : t.sections.map (·.data) = s.sections.map (·.data)) (h : TablesInOrder s) : TablesInOrder t := by
  obtain ⟨⟨hlen, height, hids⟩, hordered, hsound, hcounts, hholds⟩ := h
  have hmem : ∀ r ∈ t.sections, ∃ q ∈ s.sections, q.data = r.data := fun r hr =>
    List.mem_map.1 (hdata ▸ List.mem_map_of_mem hr)
  have hrec : ∀ n, (sectionRec t n).data = (sectionRec s n).data := by
    intro n
    have hget : ∀ l : List SectionRec,
        (l.getD (n - 1) SectionRec.default).data = (l.map (·.data)).getD (n - 1) SectionRec.default.data := by
      intro l
      rw [List.getD_eq_getElem?_getD, List.getD_eq_getElem?_getD, List.getElem?_map]
      cases l[n - 1]? <;> rfl
    rw [sectionRec, sectionRec, hget, hget, hdata]
  refine ⟨⟨?_, fun r hr => ?_, by rw [hanchors]; exact hids⟩, by rw [hanchors]; exact hordered, ?_, ?_, fun r hr => ?_⟩
  · rw [← hlen, ← List.length_map (f := SectionRec.data), hdata, List.length_map]
  · obtain ⟨q, hq, hqr⟩ := hmem r hr
    exact hqr ▸ height q hq
  · rw [CureSound, hcure, hanchors]
    exact hsound
  · intro n tier h1 h2 h3 h4
    rw [lockedCount, hrec, hanchors]
    exact hcounts n tier h1 h2 h3 h4
  · obtain ⟨q, hq, hqr⟩ := hmem r hr
    exact hqr ▸ hholds q hq

/-! ## The seconds -/

theorem flowRateEvent_eq {s : State} {e : Ev} (h : flowRateEvent s = some e) :
    e = (Ev.of (flowSecond s)).feedWatches fedByFlow := by
  unfold flowRateEvent at h
  split_ifs at h
  exact (Option.some.inj h).symm

theorem riseEvent_eq {s : State} {e : Ev} (h : riseEvent s = some e) :
    e = (risingWatches s).foldl (fun acc w => acc.evaluateRise w)
      (Ev.of { s with time := { s.time with riseDue := s.time.riseDue - 1 } }) := by
  unfold riseEvent at h
  split_ifs at h
  exact (Option.some.inj h).symm

theorem refreshEvent_eq {l : GLine} {s : State} {e : Ev} (h : refreshEvent l s = some e) :
    e = Ev.of (useRefresh s l) ∨ ∃ c f, e = (Ev.of (useRefresh s l)).changeOpenEntry c f := by
  unfold refreshEvent at h
  split at h
  · cases h
  · split_ifs at h
    · exact .inr ⟨_, _, (Option.some.inj h).symm⟩
    · exact .inl (Option.some.inj h).symm

theorem cureExpiryEvent_eq {s : State} {e : Ev} (h : cureExpiryEvent s = some e) :
    ∃ r, e = (Ev.of s).changeStage r { r with stage := .stressable, cureDue := none } := by
  unfold cureExpiryEvent at h
  split at h
  · split_ifs at h
    obtain ⟨r, -, hr⟩ := Option.map_eq_some_iff.1 h
    exact ⟨r, hr.symm⟩
  · cases h

/-! ## The sizes -/

theorem PartSized.of_shape {s t : State} {ps : List Part} (hf : OnlyChanges ps s t) (hconfig : Part.config ∉ ps)
    (hschedule : Part.schedule ∉ ps) (hresults : Part.results ∉ ps) (ht : TablesInShape t) (h : PartSized s) :
    PartSized t :=
  ⟨ht, by rw [hf .config hconfig]; exact h.config, by rw [hf .schedule hschedule]; exact h.schedule,
    by rw [ResultsCurrent, hf .results hresults, hf .schedule hschedule]; exact h.results⟩

theorem sizedRule : TableRule PartSized where
  quiet hf h := h.of_shape hf (by simp [quietParts]) (by simp [quietParts]) (by simp [quietParts])
    (h.shape.of_frame hf (by simp [quietParts]) (by simp [quietParts]))
  request k p pl _ h := reqReply_sized k p pl h
  sample x s h := h.of_shape (sampleEvent_frame x s) (by simp) (by simp) (by simp) (sampleEvent_inShape x h.shape)
  flow {s e} he h := by
    refine h.of_shape (flowRateEvent_frame s e he) (by simp) (by simp) (by simp) ?_
    rw [flowRateEvent_eq he]
    exact feedWatches_inShape (h.shape.of_same rfl rfl)
  rise {s e} he h := by
    refine h.of_shape (riseEvent_frame s e he) (by simp) (by simp) (by simp) ?_
    rw [riseEvent_eq he]
    exact foldl_inShape _ _ (fun _ _ => evaluateRise_inShape) (h.shape.of_same rfl rfl)
  refresh {l s e} he h := by
    have hused : TablesInShape (useRefresh s l) := h.shape.of_same rfl rfl
    refine h.of_shape (refreshEvent_frame l s e he) (by simp) (by simp) (by simp) ?_
    obtain rfl | ⟨c, f, rfl⟩ := refreshEvent_eq he
    · exact hused
    · exact changeOpenEntry_inShape hused
  cure {s e} he h := by
    refine h.of_shape (cureExpiryEvent_frame s e he) (by simp) (by simp) (by simp) ?_
    obtain ⟨r, rfl⟩ := cureExpiryEvent_eq he
    exact changeStage_inShape h.shape
  stale n _ h := ⟨setSection_inShape (sectionRec_eight h.shape n) h.shape, h.config, h.schedule, h.results⟩

/-! ## The agreement -/

theorem reqReply_inOrder (k : ReqKind) (p : Port) (pl : List Byte) {s : State} (h : TablesInOrder s) :
    TablesInOrder (reqReply k p pl s).ev.st := by
  have hf := reqReply_frame k p pl s
  cases k
  case defineAnchor => exact defineAnchorReply_inOrder pl s h
  case setAnchorGeometry => exact setAnchorGeometryReply_inOrder pl s h
  case deleteAnchor => exact deleteAnchorReply_inOrder pl s h
  case abandonAnchor => exact abandonAnchorReply_inOrder pl s h
  case retestAnchor => exact retestAnchorReply_inOrder pl s h
  case settleAnchor => exact settleAnchorReply_inOrder pl s h
  case tendonStart => exact tendonStartReply_inOrder pl s h
  case tendonDone => exact tendonDoneReply_inOrder pl s h
  case tendonWithdraw => exact tendonWithdrawReply_inOrder pl s h
  case injectStart => exact injectStartReply_inOrder pl s h
  case injectEnd => exact injectEndReply_inOrder pl s h
  case stressOpen => exact stressOpenReply_inOrder pl s h
  case advance => exact advanceReply_inOrder s h
  case release => exact releaseReply_inOrder s h
  case stressAbort => exact interruptReply_inOrder .abort s h
  case stopSession => exact interruptReply_inOrder .stop s h
  case setHold => exact setHoldReply_inOrder pl s h
  case releaseHold => exact releaseHoldReply_inOrder pl s h
  case setSection => exact setSectionReply_inOrder pl s h
  case reportDeflection => exact reportDeflectionReply_inOrder pl s h
  case setParameter => exact setParameterReply_inOrder pl s h
  all_goals
    exact h.of_frame hf (by simp [replyParts, reqTouches]) (by simp [replyParts, reqTouches])
      (by simp [replyParts, reqTouches])

theorem changeOpenEntry_keeps {P : State → Prop} {s : State} {l : GLine} {e : Ev} (he : refreshEvent l s = some e)
    (hused : P (useRefresh s l))
    (hentry : ∀ c f, P ((Ev.of (useRefresh s l)).changeOpenEntry c f).st) : P e.st := by
  obtain rfl | ⟨c, f, rfl⟩ := refreshEvent_eq he
  · exact hused
  · exact hentry c f

theorem inOrderRule : TableRule TablesInOrder where
  quiet hf h := h.of_frame hf (by simp [quietParts]) (by simp [quietParts]) (by simp [quietParts])
  request k p pl _ h := reqReply_inOrder k p pl h
  sample x s h := sampleEvent_inOrder x s h
  flow {s e} he h := (flowRate_keeps s e he h).1
  rise {s e} he h := (rise_keeps s e he h).1
  refresh {l s e} he h :=
    have hused : TablesInOrder (useRefresh s l) := .of_same (s := s) rfl rfl rfl h
    changeOpenEntry_keeps he hused fun c f => changeOpenEntry_inOrder _ c f hused
  cure {s e} he h := cureExpiry_inOrder s e he h
  stale n s h := .of_data (s := s) rfl rfl (setSection_data s n true) h

/-! ## The reading pool -/

theorem reqReply_pool (k : ReqKind) (p : Port) (pl : List Byte) {s : State} (h : PoolSound s) :
    PoolSound (reqReply k p pl s).ev.st := by
  have hf := reqReply_frame k p pl s
  cases k
  case defineAnchor => exact defineAnchorReply_pool pl s h
  case setAnchorGeometry => exact setAnchorGeometryReply_pool pl s h
  case deleteAnchor => exact deleteAnchorReply_pool pl s h
  case abandonAnchor => exact abandonAnchorReply_pool pl s h
  case retestAnchor => exact retestAnchorReply_pool pl s h
  case settleAnchor => exact settleAnchorReply_pool pl s h
  case tendonStart => exact tendonStartReply_pool pl s h
  case tendonDone => exact tendonDoneReply_pool pl s h
  case tendonWithdraw => exact tendonWithdrawReply_pool pl s h
  case injectStart => exact injectStartReply_pool pl s h
  case injectEnd => exact injectEndReply_pool pl s h
  case stressOpen => exact stressOpenReply_pool pl s h
  case advance => exact advanceReply_pool s h
  case release => exact releaseReply_pool s h
  case stressAbort => exact interruptReply_pool .abort s h
  case stopSession => exact interruptReply_pool .stop s h
  all_goals
    exact h.of_frame hf (by simp [replyParts, reqTouches]) (by simp [replyParts, reqTouches])
      (by simp [replyParts, reqTouches])

/-- The tables agree and the reading pool is sound: the cure list has to name the anchor that a cure expiry moves. -/
def PoolInOrder (s : State) : Prop := TablesInOrder s ∧ PoolSound s

theorem poolRule : TableRule PoolInOrder where
  quiet hf h := ⟨inOrderRule.quiet hf h.1, h.2.of_frame hf (by simp [quietParts]) (by simp [quietParts])
    (by simp [quietParts])⟩
  request k p pl _ h := ⟨reqReply_inOrder k p pl h.1, reqReply_pool k p pl h.2⟩
  sample x s h := ⟨inOrderRule.sample x h.1, sampleEvent_pool x s h.2⟩
  flow {s e} he h := ⟨inOrderRule.flow he h.1, h.2.of_frame (flowRateEvent_frame s e he) (by simp) (by simp) (by simp)⟩
  rise {s e} he h := ⟨inOrderRule.rise he h.1, h.2.of_frame (riseEvent_frame s e he) (by simp) (by simp) (by simp)⟩
  refresh {l s e} he h :=
    have hused : PoolSound (useRefresh s l) := .of_same (s := s) rfl rfl rfl h.2
    ⟨inOrderRule.refresh he h.1, changeOpenEntry_keeps he hused fun c f => changeOpenEntry_pool _ c f hused⟩
  cure {s e} he h := ⟨inOrderRule.cure he h.1, cureExpiry_pool s e he h.1 h.2⟩
  stale n s h := ⟨inOrderRule.stale n h.1, .of_same (s := s) rfl rfl rfl h.2⟩

/-- The entries of the pool are counted whole: RESERVED and USED are distinct entries of 0..8191 (R158). -/
theorem PoolSound.counts {s : State} (h : PoolSound s) :
    s.pool.freeCount + s.pool.reservedCount + s.pool.usedCount = Config.poolSize := by
  have hnodup : (s.pool.reserved ++ s.pool.used.map (·.index)).Nodup :=
    List.nodup_append.2 ⟨h.rsv.imp ne_of_lt, h.usd.imp ne_of_lt, fun i hi j hj hij => (h.rsvIn i hi).2 (hij ▸ hj)⟩
  have hrange : (s.pool.reserved ++ s.pool.used.map (·.index)) ⊆ List.range 8192 := by
    intro i hi
    rw [List.mem_range]
    obtain hi | hi := List.mem_append.1 hi
    · exact (h.rsvIn i hi).1
    · obtain ⟨e, he, rfl⟩ := List.mem_map.1 hi
      exact h.usdIn e he
  have hlen := (hnodup.subperm hrange).length_le
  simp only [List.length_append, List.length_map, List.length_range] at hlen
  simp only [Pool.freeCount, Pool.reservedCount, Pool.usedCount, Config.poolSize]
  omega

end Sys2Proof.Machine
end

section
/-! SUPPORT. The open session on its path, what a reset leaves of sizes and store, and the tables through every step. -/

namespace Sys2Proof.Machine

/-! ## The open session (R122) -/

/-- What the place of the open session rests on: the validation of the heads and the pool, which knows its record. -/
structure SessionRule (s : State) : Prop where
  sized : PartSized s
  pool : PoolInOrder s
  path : SessionOnPath s

theorem reqReply_path (k : ReqKind) (p : Port) (pl : List Byte) {s : State} (h : SessionRule s) :
    SessionOnPath (reqReply k p pl s).ev.st := by
  obtain ⟨⟨-, -, -, hv⟩, ⟨-, hp⟩, hs⟩ := h
  have hf := reqReply_frame k p pl s
  cases k
  case defineAnchor => exact defineAnchorReply_path pl s hp hs
  case deleteAnchor => exact deleteAnchorReply_path pl s hp hs
  case setAnchorGeometry => exact (setAnchorGeometryReply_rel pl s).ok hs
  case abandonAnchor => exact (abandonAnchorReply_rel pl s).ok hs
  case retestAnchor => exact (retestAnchorReply_rel pl s).ok hs
  case settleAnchor => exact (settleAnchorReply_rel pl s).ok hs
  case tendonStart => exact (tendonStartReply_rel pl s).ok hs
  case tendonDone => exact (tendonDoneReply_rel pl s).ok hs
  case tendonWithdraw => exact (tendonWithdrawReply_rel pl s).ok hs
  case injectStart => exact (injectStartReply_rel pl s).ok hs
  case injectEnd => exact (injectEndReply_rel pl s).ok hs
  case stressOpen => exact stressOpenReply_path pl s hv hs
  case advance => exact advanceReply_path s hv hp hs
  case release => exact releaseReply_path s hv hs
  case stressAbort => exact interruptReply_path .abort s hs
  case stopSession => exact interruptReply_path .stop s hs
  case writeStep => exact writeStepReply_path pl s hv hs
  case setScheduleHead => exact setScheduleHeadReply_path pl s hv hs
  all_goals
    exact (WalkKept.of_frame hf (by simp [replyParts, reqTouches]) (by simp [replyParts, reqTouches])
      (by simp [replyParts, reqTouches]) (by simp [replyParts, reqTouches])).ok hs

theorem sessionRule : TableRule SessionRule where
  quiet hf h := ⟨sizedRule.quiet hf h.sized, poolRule.quiet hf h.pool,
    (WalkKept.of_frame hf (by simp [quietParts]) (by simp [quietParts]) (by simp [quietParts])
      (by simp [quietParts])).ok h.path⟩
  request k p pl _ h := ⟨sizedRule.request k p pl h.sized, poolRule.request k p pl h.pool, reqReply_path k p pl h⟩
  sample x s h := ⟨sizedRule.sample x h.sized, poolRule.sample x h.pool,
    sampleEvent_path x s h.pool.2 h.sized.results h.path⟩
  flow {s e} he h := ⟨sizedRule.flow he h.sized, poolRule.flow he h.pool,
    (WalkKept.of_frame (flowRateEvent_frame s e he) (by simp) (by simp) (by simp) (by simp)).ok h.path⟩
  rise {s e} he h := ⟨sizedRule.rise he h.sized, poolRule.rise he h.pool,
    (WalkKept.of_frame (riseEvent_frame s e he) (by simp) (by simp) (by simp) (by simp)).ok h.path⟩
  refresh {l s e} he h :=
    have hused : SessionOnPath (useRefresh s l) := same_path (s := s) rfl rfl rfl rfl h.path
    ⟨sizedRule.refresh he h.sized, poolRule.refresh he h.pool,
      changeOpenEntry_keeps he hused fun c f => (changeOpenEntry_rel _ c f).ok hused⟩
  cure {s e} he h := ⟨sizedRule.cure he h.sized, poolRule.cure he h.pool, (cureExpiry_rel s e he).ok h.path⟩
  stale n s h := ⟨sizedRule.stale n h.sized, poolRule.stale n h.pool, same_path (s := s) rfl rfl rfl rfl h.path⟩

/-! ## The store through a write (R183) -/

theorem directoryJob_slots (st : Store) (l : List (Slot AnchorId)) :
    ∃ b n, directoryJob st l = .directory b { seq := n, slots := l } := by
  unfold directoryJob
  split
  · split <;> exact ⟨_, _, rfl⟩
  all_goals exact ⟨_, _, rfl⟩

theorem jobOf_directory {s : State} {i : Item} {b : Bool} {c : DirCopy} (h : jobOf s i = .directory b c) :
    ∃ n, c = { seq := n, slots := directorySlots s } := by
  obtain ⟨b', n, hjob⟩ := directoryJob_slots s.store (directorySlots s)
  cases i with
  | directory =>
    cases hjob.symm.trans h
    exact ⟨n, rfl⟩
  | entry | image | sections | config | schedule | mark => cases h

theorem jobOf_sections {s : State} {i : Item} {l : List SectionData} (h : jobOf s i = .sections l) :
    l = s.sections.map (·.data) := by
  obtain ⟨b', n, hjob⟩ := directoryJob_slots s.store (directorySlots s)
  cases i with
  | directory => cases hjob.symm.trans h
  | sections => exact (WriteJob.sections.inj h).symm
  | entry | image | config | schedule | mark => cases h

theorem jobOf_image {s : State} {i : Item} {n : Nat} {r : AnchorRec} (h : jobOf s i = .image n (some r)) :
    r ∈ s.anchors := by
  obtain ⟨b', k, hjob⟩ := directoryJob_slots s.store (directorySlots s)
  cases i with
  | directory => cases hjob.symm.trans h
  | image m => exact List.mem_of_find?_eq_some (WriteJob.image.inj h).2
  | entry | sections | config | schedule | mark => cases h

theorem StoreMove.agrees {s t : State} (h : StoreMove s t) (hp : TablesInOrder s) (hs : StoreAgrees s) :
    StoreAgrees t := by
  cases h with
  | kept h => exact h.good hs
  | begun i ht =>
    subst ht
    refine ⟨hs.first, hs.second, fun b c n hj => ?_, hs.secs, fun l n hj d hd => ?_⟩
    · obtain ⟨m, rfl⟩ := jobOf_directory (Writer.writing.inj hj).1
      exact directorySlots_distinct s hp.2.ordered hp.1.ids m
    · rw [jobOf_sections (Writer.writing.inj hj).1] at hd
      obtain ⟨r, hr, rfl⟩ := List.mem_map.1 hd
      exact hp.2.holds r hr
  | @completed j noted hj hstore hwriter =>
    obtain ⟨hfirst, hsecond, hdir, hsecs, hsec⟩ := hs
    refine ⟨fun c hc => ?_, fun c hc => ?_, fun b c n hw => absurd hw (hwriter _ n), fun l hl => ?_,
      fun l n hw => absurd hw (hwriter _ n)⟩
    · rw [hstore] at hc
      unfold storeJob at hc
      split at hc
      case h_3 => exact Option.some.inj hc ▸ hdir _ _ _ hj
      all_goals exact hfirst c hc
    · rw [hstore] at hc
      unfold storeJob at hc
      split at hc
      case h_4 => exact Option.some.inj hc ▸ hdir _ _ _ hj
      all_goals exact hsecond c hc
    · rw [hstore] at hl
      unfold storeJob at hl
      split at hl
      case h_5 => exact Option.some.inj hl ▸ hsec _ _ hj
      all_goals exact hsecs l hl
  | causeAlone c hstore hwrite =>
    refine ⟨fun c hc => hs.first c ?_, fun c hc => hs.second c ?_, fun b c n hj => ?_, fun l hl => hs.secs l ?_,
      fun l n hj => ?_⟩
    · rw [hstore] at hc
      exact hc
    · rw [hstore] at hc
      exact hc
    · obtain ⟨m, hm⟩ := hwrite _ _ hj
      exact hs.dirJob b c m hm
    · rw [hstore] at hl
      exact hl
    · obtain ⟨m, hm⟩ := hwrite _ _ hj
      exact hs.secJob l m hm

theorem StoreMove.images {s t : State} (h : StoreMove s t) (hp : PoolSound s) (hs : ImagesSound s) : ImagesSound t := by
  cases h with
  | kept h => exact h.img hs
  | begun i ht =>
    subst ht
    refine ⟨hs.imgs, fun n r m hj => ?_⟩
    exact hp.lists r (jobOf_image (Writer.writing.inj hj).1)
  | @completed j noted hj hstore hwriter =>
    refine ⟨fun x hx => ?_, fun n r m hw => absurd hw (hwriter _ m)⟩
    rw [hstore] at hx
    unfold storeJob at hx
    split at hx
    case h_1 =>
      obtain hx | hx := mem_tablePut_val hx
      · exact hx ▸ hs.job _ _ _ hj
      · exact hs.imgs x hx
    all_goals exact hs.imgs x hx
  | causeAlone c hstore hwrite =>
    refine ⟨fun x hx => hs.imgs x ?_, fun n r m hj => ?_⟩
    · rw [hstore] at hx
      exact hx
    · obtain ⟨k, hk⟩ := hwrite _ _ hj
      exact hs.job n r k hk

/-! ## A reset (R185, R187) -/

theorem tearJob_sized {st : Store} {j : WriteJob} (h : BlocksSized st) : BlocksSized (tearJob st j) := by
  obtain ⟨hconfig, hsched, hfirst, hsecond, hsecs⟩ := h
  unfold tearJob
  split
  · exact ⟨hconfig, hsched, hfirst, hsecond, hsecs⟩
  · exact ⟨hconfig, hsched, fun _ hc => (nomatch hc), hsecond, hsecs⟩
  · exact ⟨hconfig, hsched, hfirst, fun _ hc => (nomatch hc), hsecs⟩
  · exact ⟨hconfig, hsched, hfirst, hsecond, fun _ hc => (nomatch hc)⟩
  · exact ⟨fun _ hc => (nomatch hc), hsched, hfirst, hsecond, hsecs⟩
  · exact ⟨hconfig, fun _ hc => (nomatch hc), hfirst, hsecond, hsecs⟩
  · exact ⟨hconfig, hsched, hfirst, hsecond, hsecs⟩
  · exact ⟨hconfig, hsched, hfirst, hsecond, hsecs⟩

theorem tornStore_sized {s : State} (h : BlocksSized s.store) : BlocksSized (tornStore s) := by
  obtain ⟨hconfig, hsched, hfirst, hsecond, hsecs⟩ := h
  unfold tornStore
  split
  · exact tearJob_sized ⟨hconfig, hsched, hfirst, hsecond, hsecs⟩
  · exact ⟨hconfig, hsched, hfirst, hsecond, hsecs⟩
  all_goals split_ifs <;> exact ⟨hconfig, hsched, hfirst, hsecond, hsecs⟩

theorem formatStore_sized (st : Store) : BlocksSized (formatStore st) where
  config c hc := by
    cases hc
    exact ⟨rfl, by decide, by decide⟩
  schedule c hc := by
    cases hc
    exact List.length_replicate
  first c hc := by
    cases hc
    exact fun _ hx => nomatch hx
  second c hc := by
    cases hc
    exact fun _ hx => nomatch hx
  sections l hl := by
    cases hl
    refine ⟨List.length_replicate, fun d hd => ?_⟩
    rw [List.eq_of_mem_replicate hd]
    rfl

end Sys2Proof.Machine
end

section
/-! SUPPORT. The sizes through a reset, and the tables through every step. -/

namespace Sys2Proof.Machine

/-! ## What a reset finds, in its sizes (R187, R188) -/

theorem mem_recoveredAnchors {st : Store} {m : Nat} {dir : List (Slot AnchorId)} {r : AnchorRec} :
    r ∈ recoveredAnchors st m dir ↔ ∃ d ∈ dir, r = slotRecord st m d := by
  have hall : ∀ (dir : List (Slot AnchorId)) (acc : List AnchorRec),
      r ∈ dir.foldl (fun acc d => insertAnchor (slotRecord st m d) acc) acc ↔
        r ∈ acc ∨ ∃ d ∈ dir, r = slotRecord st m d := by
    intro dir
    induction dir with
    | nil => simp
    | cons d rest ih =>
      intro acc
      rw [List.foldl_cons, ih, (insert_perm _ _).mem_iff, List.mem_cons]
      simp only [List.mem_cons, exists_eq_or_imp]
      tauto
  exact (hall dir []).trans (by simp)

theorem recoveredAnchors_range {st : Store} (h : BlocksSized st) (m : Nat) :
    ∀ r ∈ recoveredAnchors st m (directoryInUse st), IdInRange r.id := by
  have hdir : ∀ d ∈ directoryInUse st, IdInRange d.val := by
    unfold directoryInUse
    split
    · split
      · exact h.first _ ‹_›
      · exact h.second _ ‹_›
    · exact h.first _ ‹_›
    · exact h.second _ ‹_›
    · exact fun _ hd => nomatch hd
  intro r hr
  obtain ⟨d, hd, rfl⟩ := mem_recoveredAnchors.1 hr
  rw [slotRecord_id]
  exact hdir d hd

theorem highestSection_le {l : List AnchorRec} {n : Nat} (h : ∀ r ∈ l, r.id.sect ≤ n) : highestSection l ≤ n := by
  have hall : ∀ (l : List AnchorRec) (a : Nat), a ≤ n → (∀ r ∈ l, r.id.sect ≤ n) →
      l.foldl (fun acc r => max acc r.id.sect) a ≤ n := by
    intro l
    induction l with
    | nil => exact fun a ha _ => ha
    | cons q rest ih =>
      exact fun a ha hl => ih _ (Nat.max_le.2 ⟨ha, hl q (.head _)⟩) fun r hr => hl r (.tail _ hr)
  exact hall l 0 (Nat.zero_le n) h

theorem recoveredSections_sized (st : Store) (l : List AnchorRec) (m c : Nat) :
    SectionsSized (recoveredSections st l m c) := by
  refine ⟨by simp [recoveredSections, sectionNumbers], fun d hd => ?_⟩
  obtain ⟨n, -, rfl⟩ := List.mem_map.1 hd
  unfold recoveredData
  split_ifs <;> rfl

theorem configInUse_sized {st : Store} (h : BlocksSized st) : ConfigSized (st.config.getD ConfigData.default) := by
  cases hc : st.config with
  | none => exact ⟨rfl, by decide, by decide⟩
  | some c => exact h.config c hc

theorem scheduleInUse_sized {st : Store} (h : BlocksSized st) :
    ScheduleSized (st.schedule.getD ScheduleData.blank) := by
  cases hc : st.schedule with
  | none => exact List.length_replicate
  | some c => exact h.schedule c hc

theorem joinItems_notWriting (u : State) (items : List Item) (hu : u.recorder.writer = .idle) (j : WriteJob) (n : Bool) :
    (joinItems u items).recorder.writer ≠ .writing j n := by
  intro hw
  have hsame := (joinItems_dirties u items).2.2.2.1
  rw [hu, hw] at hsame
  simp [SameWrite] at hsame

theorem scan_sized (s : State) {st : Store} (b : Bool) (k : ResetKind) (items : List Item) (h : BlocksSized st) :
    PartSized (joinItems (afterScan s (scanOf st b) k) items) ∧
      StoreSized (joinItems (afterScan s (scanOf st b) k) items) := by
  have hrange : ∀ r ∈ (scanOf st b).anchors, IdInRange r.id := recoveredAnchors_range h _
  obtain ⟨hzones, hmin, hmax⟩ := configInUse_sized h
  have hhigh : highestSection (scanOf st b).anchors ≤ 64 := highestSection_le fun r hr => (hrange r hr).1.2
  obtain ⟨hlen, height⟩ := recoveredSections_sized st (scanOf st b).anchors (scanOf st b).mark (scanOf st b).count
  refine ⟨⟨⟨?_, fun r hr => ?_, fun r hr => ?_⟩, ⟨hzones, hmin.trans (Nat.le_max_left _ _), Nat.max_le.2 ⟨hmax, hhigh⟩⟩,
    scheduleInUse_sized h, rfl⟩, h, fun j n hw => absurd hw (joinItems_notWriting _ items rfl j n)⟩
  · exact (List.length_map _).trans hlen
  · obtain ⟨d, hd, rfl⟩ := List.mem_map.1 hr
    exact height d hd
  · obtain ⟨q, hq, rfl⟩ := List.mem_map.1 hr
    exact hrange q hq

theorem reset_sized (k : ResetKind) {s : State} (h : StoreSized s) :
    PartSized (resetAs k s) ∧ StoreSized (resetAs k s) := by
  unfold resetAs scanStore
  split
  · exact scan_sized s true k _ (formatStore_sized _)
  · exact scan_sized s false k _ (tornStore_sized h.blocks)

/-! ## Every step -/

/-- The tables with their store, each stage of the development taking in the one before. -/
structure Sized (s : State) : Prop where
  part : PartSized s
  store : StoreSized s

structure Agreed (s : State) : Prop extends Sized s where
  order : TablesInOrder s
  kept : StoreAgrees s

structure Pooled (s : State) : Prop extends Agreed s where
  pool : PoolSound s
  images : ImagesSound s

structure Walking (s : State) : Prop extends Pooled s where
  path : SessionOnPath s

theorem Sized.effect {s t : State} (hs : Sized s) (h : Effect s t) : Sized t :=
  ⟨effect_tables sizedRule h hs.part, (effect_store h).sized hs.part hs.store⟩

theorem Agreed.effect {s t : State} (hs : Agreed s) (h : Effect s t) : Agreed t :=
  ⟨hs.toSized.effect h, effect_tables inOrderRule h hs.order, (effect_store h).agrees hs.order hs.kept⟩

theorem Pooled.effect {s t : State} (hs : Pooled s) (h : Effect s t) : Pooled t :=
  ⟨hs.toAgreed.effect h, (effect_tables poolRule h ⟨hs.order, hs.pool⟩).2, (effect_store h).images hs.pool hs.images⟩

theorem Walking.effect {s t : State} (hs : Walking s) (h : Effect s t) : Walking t :=
  ⟨hs.toPooled.effect h, (effect_tables sessionRule h ⟨hs.part, ⟨hs.order, hs.pool⟩, hs.path⟩).path⟩

theorem Sized.reset {s : State} (hs : Sized s) (k : ResetKind) : Sized (resetAs k s) :=
  have ⟨hpart, hstore⟩ := reset_sized k hs.store
  ⟨hpart, hstore⟩

theorem Agreed.reset {s : State} (hs : Agreed s) (k : ResetKind) : Agreed (resetAs k s) :=
  have ⟨horder, hkept⟩ := reset_agrees k s hs.kept
  ⟨hs.toSized.reset k, horder, hkept⟩

theorem Pooled.reset {s : State} (hs : Pooled s) (k : ResetKind) : Pooled (resetAs k s) :=
  have ⟨hpool, himages⟩ := reset_pool k s hs.images hs.kept
  ⟨hs.toAgreed.reset k, hpool, himages⟩

theorem Walking.reset {s : State} (hs : Walking s) (k : ResetKind) : Walking (resetAs k s) :=
  ⟨hs.toPooled.reset k, SessionOnPath.none rfl⟩

theorem Sized.pending {s : State} (hs : Sized s) (q : List Instr) : Sized { s with pending := q } :=
  ⟨sizedRule.quiet (s := s) (quiet_of_same rfl rfl rfl rfl rfl rfl rfl rfl rfl rfl) hs.part,
    StoreKept.sized (s := s) ⟨rfl, .of_same rfl⟩ hs.store⟩

theorem Agreed.pending {s : State} (hs : Agreed s) (q : List Instr) : Agreed { s with pending := q } :=
  ⟨hs.toSized.pending q, .of_same (s := s) rfl rfl rfl hs.order,
    StoreKept.good (s := s) ⟨rfl, .of_same rfl⟩ hs.kept⟩

theorem Pooled.pending {s : State} (hs : Pooled s) (q : List Instr) : Pooled { s with pending := q } :=
  ⟨hs.toAgreed.pending q, .of_same (s := s) rfl rfl rfl hs.pool,
    StoreKept.img (s := s) ⟨rfl, .of_same rfl⟩ hs.images⟩

theorem Walking.pending {s : State} (hs : Walking s) (q : List Instr) : Walking { s with pending := q } :=
  ⟨hs.toPooled.pending q, same_path (s := s) rfl rfl rfl rfl hs.path⟩

/-- Settles O17: the sizes, the agreement, the pool and the session's place are each kept by every effect and every
reset. -/
theorem tablesKeepTheirSizes : Obligations.TablesKeepTheirSizes := by
  have sized : ∀ s t, Sized s → step s = .next t → Sized t := fun s t hs =>
    step_keeps (fun s q h => h.pending q) (fun s t h he => h.effect he) (fun k s h => h.reset k) hs
  have agreed : ∀ s t, Agreed s → step s = .next t → Agreed t := fun s t hs =>
    step_keeps (fun s q h => h.pending q) (fun s t h he => h.effect he) (fun k s h => h.reset k) hs
  have pooled : ∀ s t, Pooled s → step s = .next t → Pooled t := fun s t hs =>
    step_keeps (fun s q h => h.pending q) (fun s t h he => h.effect he) (fun k s h => h.reset k) hs
  have walking : ∀ s t, Walking s → step s = .next t → Walking t := fun s t hs =>
    step_keeps (fun s q h => h.pending q) (fun s t h he => h.effect he) (fun k s h => h.reset k) hs
  have hsized : ∀ s, TablesSized s → Sized s := fun s h =>
    have ⟨hpart, hstore⟩ := (tablesSized_iff s).1 h
    ⟨hpart, hstore⟩
  have hagreed : ∀ s, TablesSized s → TablesAgree s → StoreAgrees s → Agreed s := fun s h ha hk =>
    ⟨hsized s h, ⟨(hsized s h).part.shape, ha⟩, hk⟩
  refine ⟨fun s t h hstep => ?_, fun s t h ha hk hstep => ?_, fun s t h ha hk hp hi hstep => ?_,
    fun s t h ha hk hp hi hw hstep => ?_⟩
  · have ht := sized s t (hsized s h) hstep
    exact (tablesSized_iff t).2 ⟨ht.part, ht.store⟩
  · have ht := agreed s t (hagreed s h ha hk) hstep
    exact ⟨ht.order.2, ht.kept⟩
  · have ht := pooled s t ⟨hagreed s h ha hk, hp, hi⟩ hstep
    exact ⟨ht.pool, ht.images, ht.pool.counts⟩
  · have ht := walking s t ⟨⟨hagreed s h ha hk, hp, hi⟩, hw⟩ hstep
    exact ⟨ht.path, fun x hx => (ht.path x hx).sound ht.part.results⟩

end Sys2Proof.Machine
end

section
/-! SUPPORT. The reading pool after a reset (R161, R189): what the reading lists claim, which claim keeps an index, what the
rebuilt entries are, and which places are lost. -/

namespace Sys2Proof.Machine

/-! ## The claims -/

theorem mem_claimsFrom {a : AnchorId} {stamp : TestStamp} {c : Claim} {n : Nat} {l : List ListPlace} :
    c ∈ claimsFrom a stamp n l ↔
      c.owner = a ∧ c.stamp = stamp ∧ n ≤ c.position ∧ l[c.position - n]? = some (.entry c.index) := by
  induction l generalizing n with
  | nil => simp [claimsFrom]
  | cons p rest ih =>
    have hplace : (n ≤ c.position ∧ (p :: rest)[c.position - n]? = some (.entry c.index)) ↔
        (c.position = n ∧ p = .entry c.index) ∨
          (n + 1 ≤ c.position ∧ rest[c.position - (n + 1)]? = some (.entry c.index)) := by
      obtain hlt | heq | hgt := Nat.lt_trichotomy c.position n
      · exact ⟨fun h => by omega, fun h => by omega⟩
      · simp [heq]
      · rw [show c.position - n = c.position - (n + 1) + 1 by omega, List.getElem?_cons_succ]
        constructor
        · exact fun h => .inr ⟨hgt, h.2⟩
        · exact fun h => ⟨by omega, h.elim (fun g => by omega) (·.2)⟩
    cases p with
    | lost =>
      rw [claimsFrom, ih, hplace]
      simp
    | entry i =>
      rw [claimsFrom, List.mem_cons, ih, hplace]
      obtain ⟨owner, stamp', position, index⟩ := c
      simp only [Claim.mk.injEq, ListPlace.entry.injEq]
      constructor
      · rintro (⟨rfl, rfl, rfl, rfl⟩ | ⟨ho, hs, h⟩)
        · exact ⟨rfl, rfl, .inl ⟨rfl, rfl⟩⟩
        · exact ⟨ho, hs, .inr h⟩
      · rintro ⟨ho, hs, ⟨hp, hi⟩ | h⟩
        · exact .inl ⟨ho, hs, hp, hi.symm⟩
        · exact .inr ⟨ho, hs, h⟩

theorem mem_recordClaims {c : Claim} {r : AnchorRec} :
    c ∈ recordClaims r ↔ ∃ res, r.result = some res ∧ c.owner = r.id ∧ c.stamp = res.stamp ∧ 1 ≤ c.position ∧
      res.readings[c.position - 1]? = some (.entry c.index) := by
  unfold recordClaims
  cases r.result with
  | none => simp
  | some res => simp [mem_claimsFrom]

/-- The order of the claims: that of the identities, and in one reading list that of the places. -/
def ClaimBefore (x y : Claim) : Prop := x.owner.before y.owner = true ∨ (x.owner = y.owner ∧ x.position < y.position)

theorem ClaimBefore.not_owner {x y : Claim} (h : ClaimBefore x y) : y.owner.before x.owner = false := by
  rw [Bool.eq_false_iff]
  intro hyx
  obtain h | ⟨h, -⟩ := h
  · exact absurd (before_trans h hyx) (by simp [before_irrefl])
  · rw [h] at hyx
    exact absurd hyx (by simp [before_irrefl])

theorem ClaimBefore.place_ne {x y : Claim} (h : ClaimBefore x y) : (x.owner, x.position) ≠ (y.owner, y.position) := by
  intro heq
  obtain ⟨ho, hp⟩ := Prod.mk.inj heq
  obtain h | ⟨-, h⟩ := h
  · rw [ho] at h
    exact absurd h (by simp [before_irrefl])
  · omega

theorem claimsFrom_inOrder (a : AnchorId) (stamp : TestStamp) (n : Nat) (l : List ListPlace) :
    (claimsFrom a stamp n l).Pairwise ClaimBefore := by
  induction l generalizing n with
  | nil => exact .nil
  | cons p rest ih =>
    cases p with
    | lost => exact ih (n + 1)
    | entry i =>
      refine .cons (fun c hc => ?_) (ih (n + 1))
      obtain ⟨ho, -, hn, -⟩ := mem_claimsFrom.1 hc
      exact .inr ⟨ho.symm, hn⟩

theorem claims_inOrder {l : List AnchorRec} (h : AnchorsOrdered l) : (l.flatMap recordClaims).Pairwise ClaimBefore := by
  rw [List.pairwise_flatMap]
  refine ⟨fun r _ => ?_, h.imp fun hab x hx y hy => ?_⟩
  · unfold recordClaims
    split
    · exact claimsFrom_inOrder _ _ _ _
    · exact .nil
  · obtain ⟨_, -, hx, -⟩ := mem_recordClaims.1 hx
    obtain ⟨_, -, hy, -⟩ := mem_recordClaims.1 hy
    exact .inl (by rw [hx, hy]; exact hab)

/-- A place of a reading list makes one claim. -/
theorem claim_unique {claims : List Claim} (h : claims.Pairwise ClaimBefore) {x y : Claim} (hx : x ∈ claims)
    (hy : y ∈ claims) (ho : x.owner = y.owner) (hp : x.position = y.position) : x = y := by
  have hnodup : (claims.map fun c => (c.owner, c.position)).Nodup := List.pairwise_map.2 (h.imp ClaimBefore.place_ne)
  exact List.inj_on_of_nodup_map hnodup hx hy (by rw [ho, hp])

/-! ## The claim that keeps an index (R161, R189) -/

theorem claimAgrees_iff {st : Store} {c : Claim} :
    claimAgrees st c = true ↔
      ∃ v, tableGet st.entries c.index = some v ∧ v.owner = c.owner ∧ v.position = c.position ∧ v.stamp = c.stamp := by
  unfold claimAgrees
  cases tableGet st.entries c.index with
  | none => simp
  | some v => simp [and_assoc]

theorem claimAgrees_unique {st : Store} {x y : Claim} (hx : claimAgrees st x = true) (hy : claimAgrees st y = true)
    (hi : x.index = y.index) : x = y := by
  obtain ⟨v, hv, hvo, hvp, hvs⟩ := claimAgrees_iff.1 hx
  obtain ⟨w, hw, hwo, hwp, hws⟩ := claimAgrees_iff.1 hy
  cases hv.symm.trans (hi ▸ hw)
  obtain ⟨_, _, _, _⟩ := x
  obtain ⟨_, _, _, _⟩ := y
  simp_all

theorem keepsIndex_spec {st : Store} {claims : List Claim} {i : Nat} {c : Claim} (h : keepsIndex st claims i = some c) :
    c ∈ claims ∧ c.index = i := by
  unfold keepsIndex at h
  split at h
  · cases h
    have hmem := List.mem_filter.1 (List.mem_of_find?_eq_some ‹_›)
    exact ⟨hmem.1, of_decide_eq_true hmem.2⟩
  · exact ⟨List.mem_of_find?_eq_some h, by simpa using List.find?_some h⟩

theorem keepsIndex_agreeing {st : Store} {claims : List Claim} {c : Claim} (hc : c ∈ claims)
    (ha : claimAgrees st c = true) : keepsIndex st claims c.index = some c := by
  unfold keepsIndex
  split
  · rename_i k hk
    have hindex : k.index = c.index := by simpa using (List.mem_filter.1 (List.mem_of_find?_eq_some hk)).2
    rw [claimAgrees_unique (List.find?_some hk) ha hindex]
  · rename_i hnone
    exact absurd ha (List.find?_eq_none.1 hnone c (List.mem_filter.2 ⟨hc, by simp⟩))

theorem keepsIndex_exists {st : Store} {claims : List Claim} {c : Claim} (hc : c ∈ claims) :
    ∃ k, keepsIndex st claims c.index = some k := by
  unfold keepsIndex
  split
  · exact ⟨_, rfl⟩
  · rw [← Option.isSome_iff_exists, List.find?_isSome]
    exact ⟨c, hc, by simp⟩

/-- Where no stored entry agrees, the claim of the lowest identity keeps the index. -/
theorem keepsIndex_lowest {st : Store} {claims : List Claim} (hord : claims.Pairwise ClaimBefore) {i : Nat} {c x : Claim}
    (h : keepsIndex st claims i = some c) (hno : claimAgrees st c = false) (hx : x ∈ claims) (hi : x.index = i) :
    x.owner.before c.owner = false := by
  unfold keepsIndex at h
  split at h
  · cases h
    exact absurd (List.find?_some ‹_›) (by rw [hno]; exact Bool.false_ne_true)
  · obtain ⟨-, before, after, rfl, hbefore⟩ := List.find?_eq_some_iff_append.1 h
    obtain hx | hx := List.mem_append.1 hx
    · exact absurd hi (by simpa using hbefore x hx)
    · obtain rfl | hx := List.mem_cons.1 hx
      · exact before_irrefl _
      · exact (List.rel_of_pairwise_cons (List.pairwise_append.1 hord).2.1 hx).not_owner

/-! ## Tables of distinct indices -/

theorem tableGet_iff {α : Type} {t : List (Slot α)} (h : (t.map (·.index)).Nodup) {i : Nat} {v : α} :
    tableGet t i = some v ↔ { index := i, val := v } ∈ t := by
  induction t with
  | nil => simp [tableGet]
  | cons x rest ih =>
    rw [List.map_cons, List.nodup_cons] at h
    rw [tableGet, List.mem_cons]
    obtain ⟨j, w⟩ := x
    by_cases hj : j = i
    · subst hj
      rw [if_pos rfl, Option.some.injEq]
      constructor
      · rintro rfl
        exact .inl rfl
      · rintro (heq | hmem)
        · cases heq
          rfl
        · exact absurd (List.mem_map_of_mem (f := (·.index)) hmem) h.1
    · rw [if_neg hj, ih h.2]
      exact ⟨.inr, fun hm => hm.resolve_left fun heq => hj (by cases heq; rfl)⟩

theorem tablePut_perm {α : Type} {t : List (Slot α)} {i : Nat} (v : α) (h : i ∉ t.map (·.index)) :
    (tablePut t i v).Perm ({ index := i, val := v } :: t) := by
  induction t with
  | nil => exact .refl _
  | cons x rest ih =>
    rw [List.map_cons, List.mem_cons, not_or] at h
    rw [tablePut]
    split_ifs with hlt heq
    · exact ((ih h.2).cons x).trans (.swap _ _ _)
    · exact absurd heq.symm h.1
    · exact .refl _

/-! ## The rebuilt entries (R161, R189) -/

/-- The USED entry that a kept claim makes. -/
def usedSlot (st : Store) (c : Claim) : Slot PoolEntry := { index := c.index, val := keptEntry st c }

theorem rebuiltUsed_perm (st : Store) {kept : List Claim} (h : (kept.map (·.index)).Nodup) :
    (rebuiltUsed st kept).Perm (kept.map (usedSlot st)) := by
  have hall : ∀ (kept : List Claim) (acc : List (Slot PoolEntry)), (kept.map (·.index)).Nodup →
      (∀ c ∈ kept, c.index ∉ acc.map (·.index)) →
      (kept.foldl (fun acc c => tablePut acc c.index (keptEntry st c)) acc).Perm (kept.map (usedSlot st) ++ acc) := by
    intro kept
    induction kept with
    | nil => exact fun acc _ _ => .refl _
    | cons c rest ih =>
      intro acc hnodup hnew
      rw [List.map_cons, List.nodup_cons] at hnodup
      have hput := tablePut_perm (keptEntry st c) (hnew c (.head _))
      refine (ih _ hnodup.2 fun x hx hmem => ?_).trans ?_
      · obtain heq | hmem := List.mem_cons.1 ((hput.map (·.index)).mem_iff.1 hmem)
        · have hsame : x.index = c.index := heq
          exact hnodup.1 (by rw [← hsame]; exact List.mem_map_of_mem hx)
        · exact hnew x (.tail _ hx) hmem
      · exact (hput.append_left _).trans List.perm_middle
  have hempty := hall kept [] h fun _ _ => List.not_mem_nil
  rwa [List.append_nil] at hempty

theorem rebuiltUsed_get (st : Store) {kept : List Claim} (h : (kept.map (·.index)).Nodup) {i : Nat} {e : PoolEntry} :
    tableGet (rebuiltUsed st kept) i = some e ↔ ∃ c ∈ kept, c.index = i ∧ keptEntry st c = e := by
  have hperm := rebuiltUsed_perm st h
  have hnodup : ((rebuiltUsed st kept).map (·.index)).Nodup := by
    rw [(hperm.map (·.index)).nodup_iff, List.map_map]
    exact h
  rw [tableGet_iff hnodup, hperm.mem_iff, List.mem_map]
  simp [usedSlot]

/-! ## The lost places (R189) -/

theorem losePlaces_get (lost : List Claim) (a : AnchorId) (n : Nat) (l : List ListPlace) (k : Nat) :
    (losePlaces lost a n l)[k]? =
      l[k]?.map fun p => if lost.any fun c => c.owner = a && c.position = n + k then .lost else p := by
  induction l generalizing n k with
  | nil => simp [losePlaces]
  | cons p rest ih =>
    cases k with
    | zero => simp [losePlaces]
    | succ k =>
      rw [losePlaces, List.getElem?_cons_succ, ih, List.getElem?_cons_succ, show n + 1 + k = n + (k + 1) by omega]

theorem losePlaces_length (lost : List Claim) (a : AnchorId) (n : Nat) (l : List ListPlace) :
    (losePlaces lost a n l).length = l.length := by
  induction l generalizing n with
  | nil => rfl
  | cons p rest ih => simp [losePlaces, ih]

/-- A place differs after the recovery exactly where its claim kept nothing. -/
theorem losePlaces_changed (lost : List Claim) (a : AnchorId) (stamp : TestStamp) (kept : Claim → Bool) (n : Nat)
    (l : List ListPlace)
    (h : ∀ c ∈ claimsFrom a stamp n l, (lost.any fun x => x.owner = a && x.position = c.position) = !kept c) :
    ((l.zip (losePlaces lost a n l)).filter fun x => x.1 ≠ x.2).length =
      ((claimsFrom a stamp n l).filter fun c => !kept c).length := by
  induction l generalizing n with
  | nil => rfl
  | cons p rest ih =>
    cases p with
    | lost =>
      rw [claimsFrom, ← ih (n + 1) h, losePlaces, List.zip_cons_cons, List.filter_cons_of_neg (by simp)]
    | entry i =>
      have hrest := ih (n + 1) fun c hc => h c (.tail _ hc)
      have hhead := h _ (.head _)
      simp only at hhead
      rw [claimsFrom, losePlaces, List.zip_cons_cons, hhead]
      cases hkept : kept { owner := a, stamp := stamp, position := n, index := i } with
      | true =>
        rw [List.filter_cons_of_neg (by simp), List.filter_cons_of_neg (by simp [hkept]), hrest]
      | false =>
        rw [List.filter_cons_of_pos (by simp), List.filter_cons_of_pos (by simp [hkept]), List.length_cons,
          List.length_cons, hrest]

end Sys2Proof.Machine
end

section
/-! SUPPORT. What the start-up scan of a store finds (R27, R188, R189): the record of every slot that the directory names,
and the places and entries that its reading list keeps. -/

namespace Sys2Proof.Machine

/-! ## The records -/

theorem agreeingImage_slot {st : Store} {d : Slot AnchorId} {q : AnchorRec} (h : agreeingImage st d = some q) :
    q.imageSlot = d.index := by
  unfold agreeingImage at h
  split at h
  · cases h
  · split_ifs at h
    cases h
    rfl

theorem slotRecord_slot (st : Store) (m : Nat) (d : Slot AnchorId) : (slotRecord st m d).imageSlot = d.index := by
  have hrecovered : ∀ r, (recoveredRecord m r).imageSlot = r.imageSlot := by
    intro r
    unfold recoveredRecord
    split <;> rfl
  unfold slotRecord
  split
  · rw [hrecovered]
    exact agreeingImage_slot ‹_›
  · rfl

theorem slotRecord_agreeing {st : Store} {m : Nat} {d : Slot AnchorId} {q : AnchorRec} (h : agreeingImage st d = some q) :
    slotRecord st m d = recoveredRecord m q := by
  rw [slotRecord, h]

theorem slotRecord_unread {st : Store} {m : Nat} {d : Slot AnchorId} (h : agreeingImage st d = none) :
    slotRecord st m d = suspectRecord d.index d.val := by
  rw [slotRecord, h]

/-- A recovery keeps a result but for the verdict of a test that was cut off. -/
theorem recoveredRecord_result (m : Nat) (q : AnchorRec) :
    (recoveredRecord m q).result =
      q.result.map fun x => { x with verdict := if q.stage = .stressing then none else x.verdict } := by
  have hsame : q.result.map (fun x => { x with verdict := x.verdict }) = q.result := by cases q.result <;> rfl
  obtain ⟨_, _, _, _, stage, _, _, _, result, _, _, _⟩ := q
  cases stage
  case stressing => rfl
  all_goals exact hsame.symm

theorem recoveredRecord_readings (m : Nat) (q : AnchorRec) : readingsOf (recoveredRecord m q) = readingsOf q := by
  rw [readingsOf, recoveredRecord_result, readingsOf]
  cases q.result <;> rfl

theorem loseReadings_readings (lost : List Claim) (r : AnchorRec) :
    readingsOf (loseReadings lost r) = losePlaces lost r.id 1 (readingsOf r) := by
  unfold readingsOf loseReadings
  cases r.result <;> rfl

theorem recoveredAnchors_perm (st : Store) (m : Nat) (dir : List (Slot AnchorId)) :
    (recoveredAnchors st m dir).Perm (dir.map (slotRecord st m)) := by
  have hall : ∀ (dir : List (Slot AnchorId)) (acc : List AnchorRec),
      (dir.foldl (fun acc d => insertAnchor (slotRecord st m d) acc) acc).Perm (dir.map (slotRecord st m) ++ acc) := by
    intro dir
    induction dir with
    | nil => exact fun acc => .refl _
    | cons d rest ih =>
      exact fun acc => ((ih _).trans ((insert_perm _ _).append_left _)).trans List.perm_middle
  have hempty := hall dir []
  rwa [List.append_nil] at hempty

theorem recoveredAnchors_ordered (st : Store) (m : Nat) {dir : List (Slot AnchorId)} (h : (dir.map (·.val)).Nodup) :
    AnchorsOrdered (recoveredAnchors st m dir) := by
  have hall : ∀ (dir : List (Slot AnchorId)) (acc : List AnchorRec), (dir.map (·.val)).Nodup → AnchorsOrdered acc →
      (∀ r ∈ acc, ∀ d ∈ dir, r.id ≠ d.val) →
      AnchorsOrdered (dir.foldl (fun acc d => insertAnchor (slotRecord st m d) acc) acc) := by
    intro dir
    induction dir with
    | nil => exact fun acc _ hacc _ => hacc
    | cons d rest ih =>
      intro acc hnodup hacc hnew
      rw [List.map_cons, List.nodup_cons] at hnodup
      refine ih _ hnodup.2 (insert_ordered _ _ hacc fun q hq => ?_) fun r hr x hx => ?_
      · rw [slotRecord_id]
        exact hnew q hq d (.head _)
      · obtain rfl | hr := List.mem_cons.1 ((insert_perm _ _).mem_iff.1 hr)
        · rw [slotRecord_id]
          exact fun heq => hnodup.1 (heq ▸ List.mem_map_of_mem hx)
        · exact hnew r hr x (.tail _ hx)
  exact hall dir [] h .nil fun _ hr => nomatch hr

/-! ## The scan -/

/-- The record that a slot has after the recovery. -/
def Scan.record (c : Scan) (d : Slot AnchorId) : AnchorRec := loseReadings c.lost (slotRecord c.store c.mark d)

/-- The USED entries after the recovery. -/
def Scan.used (c : Scan) : List (Slot PoolEntry) := rebuiltUsed c.store c.kept

section
variable {st : Store} {b : Bool} (hval : ((directoryInUse st).map (·.val)).Nodup)

theorem scan_mem_records {r : AnchorRec} :
    r ∈ (scanOf st b).records ↔ ∃ d ∈ directoryInUse st, r = (scanOf st b).record d := by
  rw [Scan.records, List.mem_map]
  constructor
  · rintro ⟨q, hq, rfl⟩
    obtain ⟨d, hd, rfl⟩ := mem_recoveredAnchors.1 hq
    exact ⟨d, hd, rfl⟩
  · rintro ⟨d, hd, rfl⟩
    exact ⟨_, mem_recoveredAnchors.2 ⟨d, hd, rfl⟩, rfl⟩

theorem scan_record_id (c : Scan) (d : Slot AnchorId) : (c.record d).id = d.val := slotRecord_id _ _ d

include hval in
theorem scan_find {d : Slot AnchorId} (hd : d ∈ directoryInUse st) :
    (scanOf st b).records.find? (fun r => r.id = d.val) = some ((scanOf st b).record d) := by
  have hids : ((scanOf st b).records.map (·.id)).Nodup := by
    rw [Scan.records, List.map_map]
    exact ordered_nodup (recoveredAnchors_ordered st _ hval)
  rw [← scan_record_id (scanOf st b) d]
  exact find_of_mem hids (scan_mem_records.2 ⟨d, hd, rfl⟩)

theorem scan_record_unread {c : Scan} {d : Slot AnchorId} (h : agreeingImage c.store d = none) :
    c.record d = suspectRecord d.index d.val := by
  rw [Scan.record, slotRecord_unread h]
  rfl

theorem scan_record_readings {c : Scan} {d : Slot AnchorId} {q : AnchorRec} (h : agreeingImage c.store d = some q) :
    readingsOf (c.record d) = losePlaces c.lost d.val 1 (readingsOf q) := by
  rw [Scan.record, loseReadings_readings, slotRecord_id, slotRecord_agreeing h, recoveredRecord_readings]

theorem scan_record_result {c : Scan} {d : Slot AnchorId} {q : AnchorRec} (h : agreeingImage c.store d = some q) :
    (c.record d).result = q.result.map fun x =>
      { x with verdict := if q.stage = .stressing then none else x.verdict, readings := readingsOf (c.record d) } := by
  have hres : (c.record d).result = (recoveredRecord c.mark q).result.map fun x =>
      { x with readings := losePlaces c.lost d.val 1 x.readings } := by
    rw [Scan.record, loseReadings, slotRecord_id, slotRecord_agreeing h]
  rw [hres, recoveredRecord_result, scan_record_readings h, readingsOf]
  cases q.result <;> rfl

/-! ## The claims of the scan -/

theorem scan_mem_claims {x : Claim} :
    x ∈ (scanOf st b).claims ↔ ∃ d ∈ directoryInUse st, ∃ q res, agreeingImage st d = some q ∧ q.result = some res ∧
      x.owner = d.val ∧ x.stamp = res.stamp ∧ 1 ≤ x.position ∧
      res.readings[x.position - 1]? = some (.entry x.index) := by
  change x ∈ (recoveredAnchors st _ _).flatMap recordClaims ↔ _
  rw [List.mem_flatMap]
  constructor
  · rintro ⟨r, hr, hx⟩
    obtain ⟨d, hd, rfl⟩ := mem_recoveredAnchors.1 hr
    obtain ⟨res, hres, ho, hs, hp, hi⟩ := mem_recordClaims.1 hx
    rw [slotRecord_id] at ho
    cases hq : agreeingImage st d with
    | none =>
      rw [slotRecord_unread hq] at hres
      cases hres
    | some q =>
      rw [slotRecord_agreeing hq, recoveredRecord_result] at hres
      obtain ⟨res', hres', rfl⟩ := Option.map_eq_some_iff.1 hres
      exact ⟨d, hd, q, res', hq, hres', ho, hs, hp, hi⟩
  · rintro ⟨d, hd, q, res, hq, hres, ho, hs, hp, hi⟩
    refine ⟨_, mem_recoveredAnchors.2 ⟨d, hd, rfl⟩, mem_recordClaims.2 ?_⟩
    rw [slotRecord_id, slotRecord_agreeing hq, recoveredRecord_result, hres]
    exact ⟨_, rfl, ho, hs, hp, hi⟩

include hval in
theorem scan_claims_inOrder : (scanOf st b).claims.Pairwise ClaimBefore :=
  claims_inOrder (recoveredAnchors_ordered st _ hval)

theorem scan_mem_kept {x : Claim} :
    x ∈ (scanOf st b).kept ↔
      x ∈ (scanOf st b).claims ∧ keepsIndex st (scanOf st b).claims x.index = some x := by
  change x ∈ (scanOf st b).claims.filter (isKept st (scanOf st b).claims) ↔ _
  rw [List.mem_filter, isKept, decide_eq_true_iff]

theorem scan_mem_lost {x : Claim} :
    x ∈ (scanOf st b).lost ↔ x ∈ (scanOf st b).claims ∧ x ∉ (scanOf st b).kept := by
  change x ∈ (scanOf st b).claims.filter (fun c => !(scanOf st b).kept.contains c) ↔ _
  simp [List.mem_filter]

include hval in
theorem scan_kept_nodup : ((scanOf st b).kept.map (·.index)).Nodup := by
  have hclaims : (scanOf st b).claims.Nodup :=
    (scan_claims_inOrder hval).imp fun h heq => h.place_ne (by rw [heq])
  refine List.Nodup.map_on (fun x hx y hy hxy => ?_) (hclaims.filter _)
  have hkx := (scan_mem_kept.1 hx).2
  rw [hxy, (scan_mem_kept.1 hy).2] at hkx
  exact (Option.some.inj hkx).symm

include hval in
theorem scan_used_get {i : Nat} {e : PoolEntry} :
    tableGet (scanOf st b).used i = some e ↔
      ∃ x ∈ (scanOf st b).kept, x.index = i ∧ keptEntry st x = e :=
  rebuiltUsed_get st (scan_kept_nodup hval)

/-- The claim of a place of a slot's reading list. -/
theorem scan_claim_of_place {d : Slot AnchorId} {q : AnchorRec} {n i : Nat} (hd : d ∈ directoryInUse st)
    (hq : agreeingImage st d = some q) (hp : (readingsOf q)[n]? = some (.entry i)) :
    ∃ x ∈ (scanOf st b).claims, x.owner = d.val ∧ x.position = n + 1 ∧ x.index = i := by
  unfold readingsOf at hp
  cases hres : q.result with
  | none => simp [hres] at hp
  | some res =>
    rw [hres] at hp
    exact ⟨{ owner := d.val, stamp := res.stamp, position := n + 1, index := i },
      scan_mem_claims.2 ⟨d, hd, q, res, hq, hres, rfl, rfl, by simp, by simpa using hp⟩, rfl, rfl, rfl⟩

include hval in
/-- A claim's place is lost exactly where the claim kept nothing. -/
theorem scan_lost_any {x : Claim} (hx : x ∈ (scanOf st b).claims) :
    ((scanOf st b).lost.any fun y => y.owner = x.owner && y.position = x.position) =
      !(scanOf st b).kept.contains x := by
  rw [Bool.eq_iff_iff, List.any_eq_true]
  simp only [Bool.and_eq_true, decide_eq_true_iff, Bool.not_eq_true', List.contains_eq_mem, decide_eq_false_iff_not]
  constructor
  · rintro ⟨y, hy, ho, hp⟩
    obtain ⟨hyc, hyk⟩ := scan_mem_lost.1 hy
    exact claim_unique (scan_claims_inOrder hval) hyc hx ho hp ▸ hyk
  · exact fun hk => ⟨x, scan_mem_lost.2 ⟨hx, hk⟩, rfl, rfl⟩

/-! ## The places and entries kept -/

include hval in
theorem scan_place_kept {d : Slot AnchorId} {q : AnchorRec} (hd : d ∈ directoryInUse st)
    (hq : agreeingImage st d = some q) (n i : Nat) :
    (readingsOf ((scanOf st b).record d))[n]? = some (.entry i) ↔
      (readingsOf q)[n]? = some (.entry i) ∧
        ∃ e, tableGet (scanOf st b).used i = some e ∧ e.owner = d.val ∧ e.position = n + 1 := by
  rw [scan_record_readings (c := scanOf st b) hq, losePlaces_get]
  have hkept : ∀ hp : (readingsOf q)[n]? = some (.entry i),
      ((scanOf st b).lost.any fun c => c.owner = d.val && c.position = 1 + n) = false ↔
        ∃ e, tableGet (scanOf st b).used i = some e ∧ e.owner = d.val ∧ e.position = n + 1 := by
    intro hp
    obtain ⟨x, hx, ho, hpos, hi⟩ := scan_claim_of_place (b := b) hd hq hp
    have hany := scan_lost_any hval hx
    rw [ho, hpos] at hany
    rw [Nat.add_comm 1 n, hany, Bool.not_eq_false', List.contains_eq_mem, decide_eq_true_iff]
    constructor
    · exact fun hk => ⟨_, (scan_used_get hval).2 ⟨x, hk, hi, rfl⟩, ho, hpos⟩
    · rintro ⟨e, he, heo, hep⟩
      obtain ⟨y, hy, -, rfl⟩ := (scan_used_get hval).1 he
      have hxy : y = x := claim_unique (scan_claims_inOrder hval) (scan_mem_kept.1 hy).1 hx (Eq.trans heo ho.symm)
        (Eq.trans hep hpos.symm)
      exact hxy ▸ hy
  constructor
  · intro h
    obtain ⟨p, hp, hpi⟩ := Option.map_eq_some_iff.1 h
    split_ifs at hpi with hlost
    subst hpi
    exact ⟨hp, (hkept hp).1 (by simpa using hlost)⟩
  · rintro ⟨hp, he⟩
    rw [hp, Option.map_some, if_neg (by rw [(hkept hp).2 he]; exact Bool.false_ne_true)]

include hval in
/-- Every USED entry names the place it stands at, and has the stored content exactly where that agrees. -/
theorem scan_used_spec {i : Nat} {e : PoolEntry} (h : tableGet (scanOf st b).used i = some e) :
    (∃ d ∈ directoryInUse st, ∃ res, e.owner = d.val ∧ ((scanOf st b).record d).result = some res ∧ e.stamp = res.stamp ∧
      1 ≤ e.position ∧ res.readings[e.position - 1]? = some (.entry i)) ∧
    (∀ v, tableGet st.entries i = some v → v.owner = e.owner → v.position = e.position → v.stamp = e.stamp →
      e.body = v.body) ∧
    ((∀ v, tableGet st.entries i = some v → v.owner ≠ e.owner ∨ v.position ≠ e.position ∨ v.stamp ≠ e.stamp) →
      e.body = none) := by
  obtain ⟨x, hx, rfl, rfl⟩ := (scan_used_get hval).1 h
  obtain ⟨d, hd, q, res, hq, hres, ho, hs, hp, hi⟩ := scan_mem_claims.1 (scan_mem_kept.1 hx).1
  refine ⟨⟨d, hd, ?_⟩, fun v hv hvo hvp hvs => ?_, fun hno => ?_⟩
  · have hresult := scan_record_result (c := scanOf st b) hq
    rw [hres] at hresult
    refine ⟨_, ho, hresult, hs, hp, (scan_place_kept hval hd hq _ _).2 ⟨?_, _, h, ho, ?_⟩⟩
    · rw [readingsOf, hres]
      exact hi
    · exact (Nat.sub_add_cancel hp).symm
  · have hagrees : claimAgrees st x = true := claimAgrees_iff.2 ⟨v, hv, hvo, hvp, hvs⟩
    rw [keptEntry, if_pos hagrees, hv]
    rfl
  · have hagrees : ¬ claimAgrees st x = true := by
      intro ha
      obtain ⟨v, hv, hvo, hvp, hvs⟩ := claimAgrees_iff.1 ha
      exact (hno v hv).elim (· hvo) fun h => h.elim (· hvp) (· hvs)
    rw [keptEntry, if_neg hagrees]

/-- A kept claim agrees with no stored entry exactly where the entry it makes does not. -/
theorem keptEntry_disagrees {x : Claim} :
    claimAgrees st x = false ↔ ∀ v, tableGet st.entries x.index = some v →
      v.owner ≠ (keptEntry st x).owner ∨ v.position ≠ (keptEntry st x).position ∨ v.stamp ≠ (keptEntry st x).stamp := by
  rw [← Bool.not_eq_true, claimAgrees_iff]
  push Not
  refine forall₂_congr fun v _ => ?_
  change (v.owner = x.owner → v.position = x.position → v.stamp ≠ x.stamp) ↔
    v.owner ≠ x.owner ∨ v.position ≠ x.position ∨ v.stamp ≠ x.stamp
  tauto

include hval in
theorem scan_used_lowest {i : Nat} {e : PoolEntry} {d : Slot AnchorId} {q : AnchorRec}
    (h : tableGet (scanOf st b).used i = some e)
    (hno : ∀ v, tableGet st.entries i = some v → v.owner ≠ e.owner ∨ v.position ≠ e.position ∨ v.stamp ≠ e.stamp)
    (hd : d ∈ directoryInUse st) (hq : agreeingImage st d = some q) (hi : .entry i ∈ readingsOf q) :
    d.val.before e.owner = false := by
  obtain ⟨x, hx, rfl, rfl⟩ := (scan_used_get hval).1 h
  obtain ⟨n, hn⟩ := List.mem_iff_getElem?.1 hi
  obtain ⟨y, hy, ho, -, hyi⟩ := scan_claim_of_place (b := b) hd hq hn
  rw [← ho]
  exact keepsIndex_lowest (scan_claims_inOrder hval) (scan_mem_kept.1 hx).2 (keptEntry_disagrees.2 hno) hy hyi

include hval in
theorem scan_used_agreeing {i : Nat} {v : PoolEntry} {d : Slot AnchorId} {q : AnchorRec} {res : TestResult}
    (hv : tableGet st.entries i = some v) (hd : d ∈ directoryInUse st) (ho : d.val = v.owner)
    (hq : agreeingImage st d = some q) (hres : q.result = some res) (hs : res.stamp = v.stamp) (hp : 1 ≤ v.position)
    (hi : res.readings[v.position - 1]? = some (.entry i)) : tableGet (scanOf st b).used i = some v := by
  obtain ⟨x, hx⟩ : ∃ x : Claim, x = { owner := v.owner, stamp := v.stamp, position := v.position, index := i } :=
    ⟨_, rfl⟩
  have hclaim : x ∈ (scanOf st b).claims := by
    subst hx
    exact scan_mem_claims.2 ⟨d, hd, q, res, hq, hres, ho.symm, hs.symm, hp, hi⟩
  have hagrees : claimAgrees st x = true := by
    subst hx
    exact claimAgrees_iff.2 ⟨v, hv, rfl, rfl, rfl⟩
  refine (scan_used_get hval).2 ⟨x, scan_mem_kept.2 ⟨hclaim, keepsIndex_agreeing hclaim hagrees⟩, ?_, ?_⟩
  · rw [hx]
  · rw [keptEntry, if_pos hagrees, hx, hv]
    rfl

end

end Sys2Proof.Machine
end

section
/-! SUPPORT. What the start-up scan counts as torn and what it puts on the write list (R190, R191). -/

namespace Sys2Proof.Machine

/-! ## The torn items (R191) -/

theorem length_filter_id (l : List Bool) : (l.filter id).length = (l.map fun b => if b then 1 else 0).sum := by
  induction l with
  | nil => rfl
  | cons b rest ih => cases b <;> simp [ih, Nat.add_comm]

theorem tornBlocks_eq (st : Store) :
    tornBlocks st = ([st.config.isNone, st.schedule.isNone, st.sections.isNone, st.mark.isNone, st.dirFirst.isNone,
      st.dirSecond.isNone, st.cause.isNone].filter id).length := by
  rw [length_filter_id]
  simp only [tornBlocks, tornOne, List.map_cons, List.map_nil, List.sum_cons, List.sum_nil]
  omega

section
variable {st : Store} {b : Bool} (hval : ((directoryInUse st).map (·.val)).Nodup)
  (hindex : ((directoryInUse st).map (·.index)).Nodup)

include hval in
theorem scan_failed_length :
    (failedEntries st (scanOf st b).kept).length =
      ((scanOf st b).used.filter fun e => (tableGet st.entries e.index).isNone).length := by
  have hperm : (scanOf st b).used.Perm ((scanOf st b).kept.map (usedSlot st)) := rebuiltUsed_perm st (scan_kept_nodup hval)
  rw [(hperm.filter _).length_eq, List.filter_map, List.length_map, failedEntries, List.length_map]
  rfl

include hval in
/-- The places of a slot's reading list that the recovery changed are its lost claims. -/
theorem scan_changed_length {d : Slot AnchorId} {q : AnchorRec} (hd : d ∈ directoryInUse st)
    (hq : agreeingImage st d = some q) :
    (((readingsOf q).zip (readingsOf ((scanOf st b).record d))).filter fun x => x.1 ≠ x.2).length =
      ((recordClaims (slotRecord st (scanOf st b).mark d)).filter fun x => !(scanOf st b).kept.contains x).length := by
  rw [scan_record_readings (c := scanOf st b) hq, slotRecord_agreeing hq, recordClaims, recoveredRecord_result,
    recoveredRecord_id, agreeing_id hq, readingsOf]
  cases hres : q.result with
  | none => rfl
  | some res =>
    refine losePlaces_changed _ d.val res.stamp (fun x => (scanOf st b).kept.contains x) 1 res.readings fun x hx => ?_
    obtain ⟨ho, hs, hp, hi⟩ := mem_claimsFrom.1 hx
    rw [← ho]
    exact scan_lost_any hval (scan_mem_claims.2 ⟨d, hd, q, res, hq, hres, ho, hs, hp, hi⟩)

include hval in
/-- The lost places are those that the recovery changed in the reading lists. -/
theorem scan_lost_length {f : Slot AnchorId → Nat}
    (hread : ∀ d ∈ directoryInUse st, ∀ q, agreeingImage st d = some q →
      f d = (((readingsOf q).zip (readingsOf ((scanOf st b).record d))).filter fun x => x.1 ≠ x.2).length)
    (hunread : ∀ d ∈ directoryInUse st, agreeingImage st d = none → f d = 0) :
    (scanOf st b).lost.length = ((directoryInUse st).map f).sum := by
  have hlost : (scanOf st b).lost =
      (scanOf st b).anchors.flatMap fun r => (recordClaims r).filter fun x => !(scanOf st b).kept.contains x :=
    List.filter_flatMap
  have hperm : (scanOf st b).anchors.Perm ((directoryInUse st).map (slotRecord st (scanOf st b).mark)) :=
    recoveredAnchors_perm st _ _
  rw [hlost, List.length_flatMap, (hperm.map _).sum_eq, List.map_map]
  refine congrArg List.sum (List.map_congr_left fun d hd => ?_)
  cases hq : agreeingImage st d with
  | none =>
    rw [hunread d hd hq, Function.comp_apply, slotRecord_unread hq]
    rfl
  | some q =>
    rw [hread d hd q hq, scan_changed_length hval hd hq]
    rfl

/-! ## The write list (R190) -/

theorem joinItems_afterScan (s : State) (c : Scan) (k : ResetKind) (items : List Item) (i : Item) :
    i ∈ (joinItems (afterScan s c k) items).recorder.list ↔ i ∈ items := by
  obtain ⟨hawaits, -, honly, hwrite, -⟩ := joinItems_dirties (afterScan s c k) items
  refine ⟨fun hi => (honly i hi).resolve_left (fun h => nomatch h), fun hi => ?_⟩
  obtain hlist | ⟨j, hj, -⟩ := hawaits i hi
  · exact hlist
  · exact absurd hj (joinItems_notWriting _ items rfl j _)

theorem mem_itemIf {c : Bool} {i j : Item} : i ∈ itemIf c j ↔ c = true ∧ i = j := by
  cases c <;> simp [itemIf]

theorem mem_scan_items {c : Scan} {i : Item} :
    i ∈ c.items ↔ (∃ n ∈ tornEntries c.store c.kept, i = .entry n) ∨ (∃ n ∈ c.changedSlots, i = .image n) ∨
      (c.store.sections ≠ some c.sections ∧ i = .sections) ∨ (c.store.config ≠ some c.config ∧ i = .config) ∨
      (c.store.schedule = none ∧ i = .schedule) ∨ (c.store.mark = none ∧ i = .mark) := by
  simp only [Scan.items, List.mem_append, List.mem_map, List.mem_eraseDups, mem_itemIf, decide_eq_true_iff,
    Option.isNone_iff_eq_none, or_assoc, eq_comm (b := i)]

include hindex in
/-- An index of the directory names one slot. -/
theorem slot_of_index {p : Slot AnchorId → Bool} {d : Slot AnchorId} (hd : d ∈ directoryInUse st) :
    d.index ∈ ((directoryInUse st).filter p).map (·.index) ↔ p d = true := by
  rw [List.mem_map]
  constructor
  · rintro ⟨x, hx, hxd⟩
    obtain ⟨hmem, hp⟩ := List.mem_filter.1 hx
    exact List.inj_on_of_nodup_map hindex hmem hd hxd ▸ hp
  · exact fun hp => ⟨d, List.mem_filter.2 ⟨hd, hp⟩, rfl⟩

include hval in
/-- A slot has a lost claim exactly where the recovery changed its reading list. -/
theorem scan_lost_owner {d : Slot AnchorId} (hd : d ∈ directoryInUse st) :
    ((scanOf st b).lost.any fun x => x.owner = d.val) = true ↔
      ∃ q, agreeingImage st d = some q ∧ readingsOf ((scanOf st b).record d) ≠ readingsOf q := by
  constructor
  · intro h
    obtain ⟨x, hx, ho⟩ := List.any_eq_true.1 h
    have ho : x.owner = d.val := of_decide_eq_true ho
    obtain ⟨hclaim, hkept⟩ := scan_mem_lost.1 hx
    obtain ⟨d', hd', q, res, hq, hres, ho', hs, hp, hi⟩ := scan_mem_claims.1 hclaim
    obtain rfl : d' = d := List.inj_on_of_nodup_map hval hd' hd (ho'.symm.trans ho)
    refine ⟨q, hq, fun hsame => ?_⟩
    have hplace : (readingsOf q)[x.position - 1]? = some (.entry x.index) := by
      rw [readingsOf, hres]
      exact hi
    obtain ⟨-, e, he, heo, hep⟩ := (scan_place_kept hval hd hq (x.position - 1) x.index).1 (hsame ▸ hplace)
    obtain ⟨y, hy, -, rfl⟩ := (scan_used_get hval).1 he
    have hyx : y = x := claim_unique (scan_claims_inOrder hval) (scan_mem_kept.1 hy).1 hclaim (Eq.trans heo ho.symm)
      (Eq.trans hep (Nat.sub_add_cancel hp))
    exact hkept (hyx ▸ hy)
  · rintro ⟨q, hq, hne⟩
    by_contra hany
    refine hne (List.ext_getElem? fun n => ?_)
    have hnone : ((scanOf st b).lost.any fun c => c.owner = d.val && c.position = 1 + n) = false := by
      rw [List.any_eq_false]
      intro x hx hxd
      simp only [Bool.and_eq_true, decide_eq_true_iff] at hxd
      exact hany (List.any_eq_true.2 ⟨x, hx, by simpa using hxd.1⟩)
    rw [scan_record_readings (c := scanOf st b) hq, losePlaces_get, hnone]
    cases (readingsOf q)[n]? <;> rfl

include hval hindex in
theorem scan_changed_slot {d : Slot AnchorId} (hd : d ∈ directoryInUse st) :
    d.index ∈ (scanOf st b).changedSlots ↔
      agreeingImage st d = none ∨ ∃ q, agreeingImage st d = some q ∧
        (q.stage.isActive = true ∨ readingsOf ((scanOf st b).record d) ≠ readingsOf q) := by
  have hunread : d.index ∈ (unreadSlots st (directoryInUse st)).map (·.index) ↔ agreeingImage st d = none :=
    (slot_of_index hindex hd).trans Option.isNone_iff_eq_none
  have hactive : d.index ∈ (activeSlots st (directoryInUse st)).map (·.index) ↔
      ∃ q, agreeingImage st d = some q ∧ q.stage.isActive = true := by
    refine (slot_of_index hindex hd).trans ?_
    cases hq : agreeingImage st d <;> simp
  have hlost : d.index ∈
      ((scanOf st b).anchors.filter fun r => (scanOf st b).lost.any fun x => x.owner = r.id).map (·.imageSlot) ↔
        ((scanOf st b).lost.any fun x => x.owner = d.val) = true := by
    rw [List.mem_map]
    constructor
    · rintro ⟨r, hr, hrd⟩
      obtain ⟨hmem, hany⟩ := List.mem_filter.1 hr
      obtain ⟨x, hx, rfl⟩ := mem_recoveredAnchors.1 hmem
      obtain rfl : x = d := List.inj_on_of_nodup_map hindex hx hd ((slotRecord_slot _ _ x).symm.trans hrd)
      rwa [slotRecord_id] at hany
    · intro hany
      refine ⟨_, List.mem_filter.2 ⟨mem_recoveredAnchors.2 ⟨d, hd, rfl⟩, ?_⟩, slotRecord_slot _ _ d⟩
      rwa [slotRecord_id]
  rw [Scan.changedSlots, List.mem_append, List.mem_append]
  refine (or_congr (or_congr hunread hactive) (hlost.trans (scan_lost_owner hval hd))).trans ?_
  rw [or_assoc, ← exists_or]
  simp only [← and_or_left]

include hval in
theorem scan_torn_entry {i : Nat} :
    i ∈ tornEntries st (scanOf st b).kept ↔
      ∃ e, tableGet (scanOf st b).used i = some e ∧ ∀ v, tableGet st.entries i = some v →
        v.owner ≠ e.owner ∨ v.position ≠ e.position ∨ v.stamp ≠ e.stamp := by
  rw [tornEntries, List.mem_map]
  constructor
  · rintro ⟨x, hx, rfl⟩
    obtain ⟨hkept, hno⟩ := List.mem_filter.1 hx
    exact ⟨_, (scan_used_get hval).2 ⟨x, hkept, rfl, rfl⟩, keptEntry_disagrees.1 (by simpa using hno)⟩
  · rintro ⟨e, he, hno⟩
    obtain ⟨x, hx, rfl, rfl⟩ := (scan_used_get hval).1 he
    exact ⟨x, List.mem_filter.2 ⟨hx, by rw [keptEntry_disagrees.2 hno]; rfl⟩, rfl⟩

end

end Sys2Proof.Machine
end

section
/-! SUPPORT. The part after a reset (R27, R38, R48, R67, R185 to R191): what the start-up scan of a store makes of each of
its parts. -/

namespace Sys2Proof.Machine

/-! ## A reset as the scan of the store it finds -/

/-- The part after a reset of a kind whose scan reads a store. -/
def recoveredAs (s : State) (k : ResetKind) (st : Store) (b : Bool) : State :=
  joinItems (afterScan s (scanOf st b) k) (scanOf st b).items

/-- The store that is read: a blank one is formatted first (R187). -/
def storeRead (st : Store) : Store := if st.isBlank then formatStore st else st

theorem resetAs_eq (k : ResetKind) (s : State) :
    resetAs k s = recoveredAs s k (storeRead (tornStore s)) (tornStore s).isBlank := by
  unfold resetAs recoveredAs scanStore storeRead
  cases (tornStore s).isBlank <;> rfl

theorem storeRead_cause (st : Store) : (storeRead st).cause = st.cause := by
  unfold storeRead
  split <;> rfl

theorem storeRead_read {st : Store} (h : st.isBlank = false) : storeRead st = st := by
  rw [storeRead, h]
  rfl

/-- What a reset tears: the item of the write in progress, or the reset-cause record (R180, R184, R185). -/
theorem tornStore_spec (s : State) :
    (∀ j n, s.recorder.writer = .writing j n → tornStore s = tearJob s.store j) ∧
    (s.recorder.writer = .marking → tornStore s = { s.store with cause := none }) ∧
    (s.recorder.writer = .idle ∨ s.recorder.writer = .held →
      (tornStore s = s.store ∨ (s.recorder.causeDue = true ∧ tornStore s = { s.store with cause := none })) ∧
      (s.recorder.causeOpen = false → s.supply.warning = true → tornStore s = s.store) ∧
      (s.recorder.causeDue = true → s.recorder.causeOpen = true → tornStore s = { s.store with cause := none })) := by
  refine ⟨fun j n hw => by rw [tornStore, hw], fun hw => by rw [tornStore, hw], fun hw => ?_⟩
  have htorn : tornStore s =
      if causeWriting s ∧ (s.recorder.causeOpen || Config.freeBool s.freeIdx) = true then { s.store with cause := none }
      else s.store := by
    obtain hw | hw := hw <;> rw [tornStore, hw]
  refine ⟨?_, fun hopen hwarning => ?_, fun hdue hopen => ?_⟩
  · rw [htorn]
    split_ifs with hwriting
    · exact .inr ⟨(Bool.and_eq_true_iff.1 hwriting.1).1, rfl⟩
    · exact .inl rfl
  · rw [htorn, if_neg (by simp [causeWriting, hopen, hwarning])]
  · rw [htorn, if_pos (by simp [causeWriting, hdue, hopen])]

section
variable (s : State) (k : ResetKind) (st : Store) (b : Bool)

theorem recovered_recorder :
    (recoveredAs s k st b).recorder.writer = .idle ∧ (recoveredAs s k st b).recorder.warned = false ∧
      (recoveredAs s k st b).recorder.markOwed = false ∧ (recoveredAs s k st b).recorder.draining = false ∧
      (recoveredAs s k st b).recorder.causeDue = true ∧ (recoveredAs s k st b).recorder.causeOpen = false ∧
      (recoveredAs s k st b).recorder.cause = (scanOf st b).cause k := by
  obtain ⟨-, -, -, hwrite, hwarned, howed, hcause, hdue, hopen, hdraining⟩ :=
    joinItems_dirties (afterScan s (scanOf st b) k) (scanOf st b).items
  refine ⟨?_, hwarned, howed, hdraining, hdue, hopen, hcause⟩
  cases hw : (recoveredAs s k st b).recorder.writer with
  | idle => rfl
  | writing j n => exact absurd hw (joinItems_notWriting _ _ rfl j n)
  | marking | held =>
    rw [show (joinItems (afterScan s (scanOf st b) k) (scanOf st b).items).recorder.writer = _ from hw] at hwrite
    cases hwrite

theorem recovered_list (i : Item) : i ∈ (recoveredAs s k st b).recorder.list ↔ i ∈ (scanOf st b).items :=
  joinItems_afterScan s _ k _ i

theorem recovered_sections :
    (recoveredAs s k st b).sections.length = 64 ∧
      ∀ r ∈ (recoveredAs s k st b).sections, r.age = none ∧ r.stale = true := by
  refine ⟨(List.length_map _).trans (recoveredSections_sized st _ _ _).1, fun r hr => ?_⟩
  obtain ⟨d, -, rfl⟩ := List.mem_map.1 hr
  exact ⟨rfl, rfl⟩

/-! ## The anchors and the cure list -/

theorem slotRecord_idle (m : Nat) (d : Slot AnchorId) :
    (slotRecord st m d).stage.isActive = false ∧ (slotRecord st m d).reserved = 0 := by
  have hrecovered : ∀ q : AnchorRec, (recoveredRecord m q).stage.isActive = false ∧ (recoveredRecord m q).reserved = 0 := by
    rintro ⟨_, _, _, _, stage, _, _, _, _, _, _, _⟩
    cases stage <;> exact ⟨rfl, rfl⟩
  unfold slotRecord
  split
  · exact hrecovered _
  · exact ⟨rfl, rfl⟩

theorem recovered_idle :
    ∀ r ∈ (recoveredAs s k st b).anchors, r.stage.isActive = false ∧ r.reserved = 0 := by
  intro r hr
  obtain ⟨d, -, rfl⟩ := scan_mem_records.1 hr
  exact slotRecord_idle st _ d

theorem mem_rebuiltCure {l : List AnchorRec} {e : CureEntry} :
    e ∈ rebuiltCure l ↔ ∃ r ∈ l, r.stage = .curing ∧ e = { due := r.cureDue.getD 0, id := r.id } := by
  have hall : ∀ (l : List AnchorRec) (acc : List CureEntry),
      e ∈ l.foldl (fun acc r => if r.stage = .curing then joinCure { due := r.cureDue.getD 0, id := r.id } acc else acc)
          acc ↔
        e ∈ acc ∨ ∃ r ∈ l, r.stage = .curing ∧ e = { due := r.cureDue.getD 0, id := r.id } := by
    intro l
    induction l with
    | nil => simp
    | cons r rest ih =>
      intro acc
      rw [List.foldl_cons, ih]
      simp only [List.mem_cons, exists_eq_or_imp]
      split_ifs with hcuring
      · rw [joinCure, (insertByKey_perm _ _ _).mem_iff, List.mem_cons]
        tauto
      · tauto
  exact (hall l []).trans (by simp)

theorem recovered_cure :
    (∀ e ∈ (recoveredAs s k st b).cure,
      ∃ r ∈ (recoveredAs s k st b).anchors, r.id = e.id ∧ r.stage = .curing ∧ r.cureDue.getD 0 = e.due) ∧
    ∀ r ∈ (recoveredAs s k st b).anchors, r.stage = .curing → ∃ e ∈ (recoveredAs s k st b).cure, e.id = r.id := by
  constructor
  · intro e he
    obtain ⟨r, hr, hcuring, rfl⟩ := mem_rebuiltCure.1 he
    exact ⟨r, hr, rfl, hcuring, rfl⟩
  · exact fun r hr hcuring => ⟨_, mem_rebuiltCure.2 ⟨r, hr, hcuring, rfl⟩, rfl⟩

/-! ## The section count (R40) -/

theorem highestSection_attained (l : List AnchorRec) : highestSection l = 0 ∨ ∃ r ∈ l, r.id.sect = highestSection l := by
  have hall : ∀ (l : List AnchorRec) (a : Nat), l.foldl (fun acc r => max acc r.id.sect) a = a ∨
      ∃ r ∈ l, r.id.sect = l.foldl (fun acc r => max acc r.id.sect) a := by
    intro l
    induction l with
    | nil => exact fun a => .inl rfl
    | cons q rest ih =>
      intro a
      rw [List.foldl_cons]
      obtain h | ⟨r, hr, h⟩ := ih (max a q.id.sect)
      · rw [h]
        obtain hle | hle := Nat.le_total a q.id.sect
        · exact .inr ⟨q, .head _, (Nat.max_eq_right hle).symm⟩
        · exact .inl (Nat.max_eq_left hle)
      · exact .inr ⟨r, .tail _ hr, h⟩
  exact hall l 0

theorem recovered_count :
    (st.config.getD ConfigData.default).params.sectionCount ≤ (recoveredAs s k st b).config.params.sectionCount ∧
      (∀ r ∈ (recoveredAs s k st b).anchors, r.id.sect ≤ (recoveredAs s k st b).config.params.sectionCount) ∧
      ((recoveredAs s k st b).config.params.sectionCount = (st.config.getD ConfigData.default).params.sectionCount ∨
        ∃ r ∈ (recoveredAs s k st b).anchors, r.id.sect = (recoveredAs s k st b).config.params.sectionCount) := by
  have hcount : (recoveredAs s k st b).config.params.sectionCount =
      max (st.config.getD ConfigData.default).params.sectionCount (highestSection (scanOf st b).anchors) := rfl
  rw [hcount]
  refine ⟨Nat.le_max_left _ _, fun r hr => ?_, ?_⟩
  · obtain ⟨q, hq, rfl⟩ := List.mem_map.1 hr
    exact (highest_le _ q hq).trans (Nat.le_max_right _ _)
  · obtain hle | hle := Nat.le_total (highestSection (scanOf st b).anchors)
      (st.config.getD ConfigData.default).params.sectionCount
    · exact .inl (Nat.max_eq_left hle)
    · rw [Nat.max_eq_right hle]
      obtain hzero | ⟨q, hq, hsect⟩ := highestSection_attained (scanOf st b).anchors
      · exact .inl (by omega)
      · exact .inr ⟨_, List.mem_map_of_mem hq, hsect⟩

/-! ## The sections (R38, R42, R48) -/

theorem recovered_section {n : Nat} (h1 : 1 ≤ n) (h64 : n ≤ 64) :
    (sectionRec (recoveredAs s k st b) n).data =
      recoveredData st (scanOf st b).anchors (scanOf st b).mark (scanOf st b).count n := by
  have hget : (recoveredAs s k st b).sections[n - 1]? =
      some { data := recoveredData st (scanOf st b).anchors (scanOf st b).mark (scanOf st b).count n,
             age := none, stale := true } := by
    change ((recoveredSections st (scanOf st b).anchors (scanOf st b).mark (scanOf st b).count).map fun d =>
      ({ data := d, age := none, stale := true } : SectionRec))[n - 1]? = _
    rw [List.getElem?_map, recoveredSections, List.getElem?_map, sectionNumbers, List.getElem?_map,
      List.getElem?_range (by omega)]
    simp only [Option.map_some, Nat.sub_add_cancel h1]
  rw [sectionRec, List.getD_eq_getElem?_getD, hget]
  rfl

theorem agreeStore_other (l : List AnchorRec) (m n : Nat) (h : List Hold) :
    ((agreeStore l m n h).filter fun x => x.source ≠ .store) = h.filter fun x => x.source ≠ .store := by
  unfold agreeStore
  split_ifs
  · rfl
  · exact putHold_other _ _ fun x hx => by simp [hx]
  · rw [List.filter_filter]
    simp

theorem agreeStore_store (l : List AnchorRec) (m n : Nat) (h : List Hold) :
    ((agreeStore l m n h).filter fun x => x.source = .store) =
      if l.any fun r => r.id.sect = n && r.stage = .suspect then
        if h.any fun x => x.source = .store then h.filter fun x => x.source = .store
        else [{ source := .store, level := .stopNew, time := m, reason := none }]
      else [] := by
  unfold agreeStore
  split_ifs
  · rfl
  · exact putHold_source h { source := .store, level := .stopNew, time := m, reason := none }
  · rw [List.filter_filter, List.filter_eq_nil_iff]
    simp

/-- A property of records that reads identity and stage alone counts the same before and after the lost places. -/
theorem records_filter (p : AnchorRec → Bool) (hp : ∀ lost r, p (loseReadings lost r) = p r) (c : Scan) :
    (c.records.filter p).length = (c.anchors.filter p).length := by
  rw [Scan.records, List.filter_map, List.length_map]
  exact congrArg List.length (List.filter_congr fun r _ => hp _ r)

theorem records_any (p : AnchorRec → Bool) (hp : ∀ lost r, p (loseReadings lost r) = p r) (c : Scan) :
    c.records.any p = c.anchors.any p := by
  rw [Scan.records, List.any_map]
  exact congrArg (c.anchors.any ·) (funext fun r => hp _ r)

/-! ## The record of a slot -/

/-- The stage after a reset: an active one moves to its interrupted stage (R27). -/
def interruptedStage : Stage → Stage
  | .tendonRunning => .tendonRejected
  | .grouting => .groutInterrupted
  | .stressing => .stressInterrupted
  | other => other

theorem closeAtMark_eq (m : Nat) (l : List PassEntry) :
    closeAtMark m l = l.map fun e => if e.stop = none then { e with stop := some m } else e := by
  refine List.map_congr_left fun e _ => ?_
  cases e.stop <;> rfl

theorem recoveredRecord_eq (m : Nat) (q : AnchorRec) :
    recoveredRecord m q = { q with
      reserved := 0
      stage := interruptedStage q.stage
      tendon := if q.stage = .tendonRunning then none else q.tendon
      passes := if q.stage = .grouting then
          q.passes.map fun e => if e.stop = none then { e with stop := some m } else e
        else q.passes
      result := q.result.map fun x => { x with verdict := if q.stage = .stressing then none else x.verdict } } := by
  have hsame : q.result.map (fun x => { x with verdict := x.verdict }) = q.result := by cases q.result <;> rfl
  rw [← closeAtMark_eq]
  obtain ⟨_, _, _, _, stage, _, _, _, result, _, _, _⟩ := q
  simp only at hsame
  cases stage <;> simp [recoveredRecord, interruptedStage]

theorem scan_record_eq {d : Slot AnchorId} {q : AnchorRec} (h : agreeingImage st d = some q) :
    (scanOf st b).record d = { q with
      reserved := 0
      stage := interruptedStage q.stage
      tendon := if q.stage = .tendonRunning then none else q.tendon
      passes := if q.stage = .grouting then
          q.passes.map fun e => if e.stop = none then { e with stop := some (scanOf st b).mark } else e
        else q.passes
      result := q.result.map fun x =>
        { x with verdict := if q.stage = .stressing then none else x.verdict,
                 readings := readingsOf ((scanOf st b).record d) } } := by
  rw [← scan_record_result (c := scanOf st b) h]
  have hrecord : (scanOf st b).record d =
      { recoveredRecord (scanOf st b).mark q with result := ((scanOf st b).record d).result } := by
    rw [Scan.record, slotRecord_agreeing (show agreeingImage (scanOf st b).store d = some q from h)]
    rfl
  rw [recoveredRecord_eq] at hrecord
  exact hrecord

end

end Sys2Proof.Machine
end

section
/-! OBLIGATION. A reset and the writing of its cause (O60): the clauses on the part after a reset, and the theorem. -/

namespace Sys2Proof.Machine

/-! ## The reset-cause record (R191) -/

theorem interrupted_eq (st : Store) (b : Bool) (k : ResetKind) (p : Slot AnchorId → Bool)
    (hread : ∀ d q, agreeingImage st d = some q → p d = q.stage.isActive)
    (hunread : ∀ d, agreeingImage st d = none → p d = false) :
    ((scanOf st b).cause k).interrupted = ((directoryInUse st).filter p).length := by
  refine congrArg List.length (List.filter_congr (l := directoryInUse st) fun d _ => ?_)
  change (match agreeingImage st d with | some r => r.stage.isActive | none => false) = p d
  cases hq : agreeingImage st d with
  | none => exact (hunread d hq).symm
  | some q => exact (hread d q hq).symm

theorem torn_eq {st : Store} (k : ResetKind) (hval : ((directoryInUse st).map (·.val)).Nodup) {f : Slot AnchorId → Nat}
    (hread : ∀ d ∈ directoryInUse st, ∀ q, agreeingImage st d = some q →
      f d = (((readingsOf q).zip (readingsOf ((scanOf st false).record d))).filter fun x => x.1 ≠ x.2).length)
    (hunread : ∀ d ∈ directoryInUse st, agreeingImage st d = none → f d = 0) :
    ((scanOf st false).cause k).torn =
      ([st.config.isNone, st.schedule.isNone, st.sections.isNone, st.mark.isNone, st.dirFirst.isNone,
        st.dirSecond.isNone, st.cause.isNone].filter id).length +
      ((directoryInUse st).filter fun d => (agreeingImage st d).isNone).length +
      ((scanOf st false).used.filter fun e => (tableGet st.entries e.index).isNone).length +
      ((directoryInUse st).map f).sum := by
  rw [← tornBlocks_eq, ← scan_failed_length hval, ← scan_lost_length hval hread hunread]
  rfl

theorem warnedBefore_eq (st : Store) : warnedBefore (storeRead st) st.isBlank = warnedBefore st st.isBlank := by
  rw [warnedBefore, storeRead_cause]
  rfl

theorem configDefaulted_eq (st : Store) :
    (!st.isBlank && (storeRead st).config.isNone) = (!st.isBlank && st.config.isNone) := by
  cases h : st.isBlank with
  | true => rfl
  | false => rw [storeRead_read h]

/-! ## The writing of the reset-cause record (R190) -/

theorem valuesReady_iff (s : State) : valuesReady s = true ↔ ∀ c, faultPresent s.meas (.notReady c) = false := by
  unfold valuesReady
  rw [List.all_eq_true]
  constructor
  · intro h c
    simpa using h c (by cases c <;> decide)
  · exact fun h c _ => by simp [h c]

theorem causeWritten_spec {s : State} (hwriting : causeWriting s = true) (hready : valuesReady s = true) :
    ∃ t, exec .resetCauseWritten s = .next t ∧
      t.store = { s.store with cause := some { record := s.recorder.cause, mark := s.recorder.warned } } ∧
      t.recorder = { s.recorder with causeDue := false, causeOpen := false } ∧ (∀ q, (t.ports.get q).link = .onBus) ∧
      Told (fun q => { s.ports.get q with link := .onBus }) [] s t ∧ PermitsExact t ∧
      WatchFlagsSame s t ∧ OnlyChanges [.store, .watch, .permits, .recorder, .ports] s t := by
  have hports : ∀ q, (writeCause s).ports.get q = { s.ports.get q with link := .onBus } := fun q => by cases q <;> rfl
  have htold := commit_told (Ev.of (writeCause s)) s rfl
  have hbase : (fun q => (Ev.of (writeCause s)).st.ports.get q) = fun q => { s.ports.get q with link := .onBus } :=
    funext hports
  rw [hbase] at htold
  have hevent : causeWrittenEvent s = some (Ev.of (writeCause s)) := by
    rw [causeWrittenEvent, hwriting, hready]
    rfl
  have hexec : exec .resetCauseWritten s = .next (commit (Ev.of (writeCause s))) := congrArg (occurs · s) hevent
  have hwritten : OnlyChanges [.store, .recorder, .ports] s (writeCause s) := causeWrittenEvent_frame hevent
  refine ⟨_, hexec, (commit_kept _).1, ?_, fun q => ?_, htold, commit_exact _, commit_watchFlags _,
    (commit_frame (Ev.of (writeCause s)) s _ hwritten).mono (by simp)⟩
  · rw [commit_recorder]
    rfl
  · have hlink := (commit_keeps (Ev.of (writeCause s)) q).1.1
    rw [hlink]
    exact congrArg PortState.link (hports q)

theorem causeWritten_waits {s : State} (h : causeWriting s = false ∨ valuesReady s = false) :
    exec .resetCauseWritten s = .next s := by
  have hevent : causeWrittenEvent s = none := by
    rw [causeWrittenEvent, if_neg (by obtain h | h := h <;> simp [h])]
  exact congrArg (occurs · s) hevent

/-! ## The anchors, the pool and the write list -/

section
variable (s : State) (k : ResetKind) {st : Store} {b : Bool} (hval : ((directoryInUse st).map (·.val)).Nodup)
  (hindex : ((directoryInUse st).map (·.index)).Nodup)

theorem recovered_image (n : Nat) :
    .image n ∈ (recoveredAs s k st b).recorder.list ↔ n ∈ (scanOf st b).changedSlots := by
  rw [recovered_list, mem_scan_items]
  simp

theorem recovered_entry (i : Nat) :
    .entry i ∈ (recoveredAs s k st b).recorder.list ↔ i ∈ tornEntries st (scanOf st b).kept := by
  rw [recovered_list, mem_scan_items]
  simp only [Item.entry.injEq, reduceCtorEq, and_false, exists_false, or_false, exists_eq_right']
  rfl

include hval hindex in
theorem recovered_imageWaits {d : Slot AnchorId} (hd : d ∈ directoryInUse st) :
    .image d.index ∈ (recoveredAs s k st b).recorder.list ↔
      agreeingImage st d = none ∨ ∃ q r, agreeingImage st d = some q ∧
        findAnchor (recoveredAs s k st b) d.val = some r ∧
        (q.stage.isActive = true ∨ readingsOf r ≠ readingsOf q) := by
  have hfind : findAnchor (recoveredAs s k st b) d.val = some ((scanOf st b).record d) := scan_find hval hd
  rw [recovered_image, scan_changed_slot hval hindex hd, hfind]
  refine or_congr_right (exists_congr fun q => ?_)
  constructor
  · exact fun ⟨hq, h⟩ => ⟨_, hq, rfl, h⟩
  · rintro ⟨r, hq, hr, h⟩
    cases hr
    exact ⟨hq, h⟩

include hval hindex in
/-- The clauses on the records, the USED entries and the write list. -/
theorem recovered_tables :
    let t := recoveredAs s k st b
    (∀ r ∈ t.anchors, ∃ d ∈ directoryInUse st, r.id = d.val) ∧
    (∀ d ∈ directoryInUse st, agreeingImage st d = none → findAnchor t d.val = some (suspectRecord d.index d.val)) ∧
    (∀ d ∈ directoryInUse st, ∀ q, agreeingImage st d = some q →
      ∃ r, findAnchor t d.val = some r ∧
        r = { q with
          reserved := 0
          stage := interruptedStage q.stage
          tendon := if q.stage = .tendonRunning then none else q.tendon
          passes := if q.stage = .grouting then
              q.passes.map fun e => if e.stop = none then { e with stop := some t.clock.mark } else e
            else q.passes
          result := q.result.map fun x =>
            { x with verdict := if q.stage = .stressing then none else x.verdict, readings := readingsOf r } } ∧
        (readingsOf r).length = (readingsOf q).length ∧
        ∀ n i, (readingsOf r)[n]? = some (.entry i) ↔
          (readingsOf q)[n]? = some (.entry i) ∧
            ∃ e, tableGet t.pool.used i = some e ∧ e.owner = d.val ∧ e.position = n + 1) ∧
    (∀ i e, tableGet t.pool.used i = some e →
      (∃ r res, findAnchor t e.owner = some r ∧ r.result = some res ∧ e.stamp = res.stamp ∧ 1 ≤ e.position ∧
        res.readings[e.position - 1]? = some (.entry i)) ∧
      (∀ v, tableGet st.entries i = some v → v.owner = e.owner → v.position = e.position → v.stamp = e.stamp →
        e.body = v.body) ∧
      ((∀ v, tableGet st.entries i = some v → v.owner ≠ e.owner ∨ v.position ≠ e.position ∨ v.stamp ≠ e.stamp) →
        e.body = none)) ∧
    (∀ i e d q, tableGet t.pool.used i = some e →
      (∀ v, tableGet st.entries i = some v → v.owner ≠ e.owner ∨ v.position ≠ e.position ∨ v.stamp ≠ e.stamp) →
      d ∈ directoryInUse st → agreeingImage st d = some q → .entry i ∈ readingsOf q → d.val.before e.owner = false) ∧
    (∀ i v d q res, tableGet st.entries i = some v → d ∈ directoryInUse st → d.val = v.owner →
      agreeingImage st d = some q → q.result = some res → res.stamp = v.stamp → 1 ≤ v.position →
      res.readings[v.position - 1]? = some (.entry i) → tableGet t.pool.used i = some v) ∧
    (∀ d ∈ directoryInUse st,
      (.image d.index ∈ t.recorder.list ↔
        agreeingImage st d = none ∨
          ∃ q r, agreeingImage st d = some q ∧ findAnchor t d.val = some r ∧
            (q.stage.isActive = true ∨ readingsOf r ≠ readingsOf q))) ∧
    ∀ i, .entry i ∈ t.recorder.list ↔
      ∃ e, tableGet t.pool.used i = some e ∧ ∀ v, tableGet st.entries i = some v →
        v.owner ≠ e.owner ∨ v.position ≠ e.position ∨ v.stamp ≠ e.stamp := by
  have hfind : ∀ d ∈ directoryInUse st, findAnchor (recoveredAs s k st b) d.val = some ((scanOf st b).record d) :=
    fun d hd => scan_find hval hd
  refine ⟨fun r hr => ?_, fun d hd hq => ?_, fun d hd q hq => ?_, fun i e he => ?_,
    fun i e d q he hno hd hq hi => scan_used_lowest hval he hno hd hq hi,
    fun i v d q res hv hd ho hq hres hs hp hi => scan_used_agreeing hval hv hd ho hq hres hs hp hi,
    fun d hd => recovered_imageWaits s k hval hindex hd, fun i => (recovered_entry s k i).trans (scan_torn_entry hval)⟩
  · obtain ⟨d, hd, rfl⟩ := scan_mem_records.1 hr
    exact ⟨d, hd, scan_record_id _ d⟩
  · rw [hfind d hd, scan_record_unread (c := scanOf st b) hq]
  · refine ⟨_, hfind d hd, scan_record_eq st b hq, ?_, scan_place_kept hval hd hq⟩
    rw [scan_record_readings (c := scanOf st b) hq, losePlaces_length]
  · obtain ⟨⟨d, hd, res, ho, hplace⟩, hbody, htorn⟩ := scan_used_spec hval he
    exact ⟨⟨_, res, by rw [ho]; exact hfind d hd, hplace⟩, hbody, htorn⟩

theorem recovered_sectionsWait (st : Store) (b : Bool) :
    .sections ∈ (recoveredAs s k st b).recorder.list ↔
      st.sections ≠ some ((recoveredAs s k st b).sections.map (·.data)) := by
  have hdata : (recoveredAs s k st b).sections.map (·.data) = (scanOf st b).sections := by
    change ((scanOf st b).sections.map fun d => ({ data := d, age := none, stale := true } : SectionRec)).map (·.data) = _
    rw [List.map_map]
    exact List.map_id _
  rw [recovered_list, mem_scan_items, hdata]
  simp only [reduceCtorEq, and_false, exists_false, false_or, or_false, and_true]
  rfl

/-! ## The sections -/

theorem recovered_data {n : Nat} (h1 : 1 ≤ n) (h64 : n ≤ 64) :
    let t := recoveredAs s k st b
    let read := (st.sections.getD []).getD (n - 1) SectionData.default
    let data := (sectionRec t n).data
    if t.config.params.sectionCount < n then data = SectionData.default
    else
      data = { read with counts := data.counts, holds := data.holds } ∧
      data.counts = ([1, 2, 3, 4, 5, 6, 7, 8].map fun tier =>
        (t.anchors.filter fun r => r.id.sect = n && r.id.tier = tier && r.stage = .lockedOff).length) ∧
      (data.holds.filter fun h => h.source ≠ .store) = (read.holds.filter fun h => h.source ≠ .store) ∧
      (data.holds.filter fun h => h.source = .store) =
        (if t.anchors.any fun r => r.id.sect = n && r.stage = .suspect then
          if read.holds.any fun h => h.source = .store then read.holds.filter fun h => h.source = .store
          else [{ source := .store, level := .stopNew, time := t.clock.mark, reason := none }]
        else []) := by
  intro t read data
  have hdata : data = recoveredData st (scanOf st b).anchors (scanOf st b).mark (scanOf st b).count n :=
    recovered_section s k st b h1 h64
  clear_value data
  split
  · rename_i hcount
    rw [hdata, recoveredData, if_pos (show (scanOf st b).count < n from hcount)]
  · rename_i hcount
    rw [recoveredData, if_neg (show ¬ (scanOf st b).count < n from hcount)] at hdata
    subst hdata
    refine ⟨rfl, List.map_congr_left fun tier _ => ?_, agreeStore_other _ _ _ _, ?_⟩
    · exact (records_filter (fun r => r.id.sect = n && r.id.tier = tier && r.stage = .lockedOff) (fun _ _ => rfl)
        (scanOf st b)).symm
    · rw [show t.anchors.any (fun r => r.id.sect = n && r.stage = .suspect) =
        (scanOf st b).anchors.any (fun r => r.id.sect = n && r.stage = .suspect) from
        records_any (fun r => r.id.sect = n && r.stage = .suspect) (fun _ _ => rfl) (scanOf st b)]
      exact agreeStore_store _ _ _ _

end

/-! ## The theorem -/

/-- A reset command with what makes it one: a RESTART is a reset of a drained part alone (R186). -/
theorem exec_resetAs {k : ResetKind} {c : Instr} {s : State}
    (h : (k = .powerOn ∧ c = .powerOnReset) ∨ (k = .resetLine ∧ c = .resetLineReset) ∨
      (k = .restart ∧ c = .restartReset ∧ s.recorder.draining = true ∧ s.recorder.list = [] ∧
        s.recorder.writer = .idle ∧ ∀ q, (s.ports.get q).inHand = none)) :
    exec c s = .next (resetAs k s) := by
  obtain ⟨rfl, rfl⟩ | ⟨rfl, rfl⟩ | ⟨rfl, rfl, hdrained⟩ := h
  · rfl
  · rfl
  · exact congrArg Host.Outcome.next (if_pos ((drained_iff s).2 hdrained))

/-- Settles O60: a reset is the scan of the store it leaves, and each clause is a fact about that scan. -/
theorem resetsReturnVolatileState : Obligations.ResetsReturnVolatileState := by
  refine ⟨fun k c s hreset => ?reset, fun s hdue => ⟨fun hwarning hready => ?written, fun hnot => ?waits⟩⟩
  case written =>
    refine causeWritten_spec ?_ ((valuesReady_iff s).2 hready)
    obtain h | h := hwarning <;> simp [causeWriting, hdue, h]
  case waits =>
    refine causeWritten_waits (hnot.imp (fun ⟨hwarning, hopen⟩ => ?_) fun ⟨x, hx⟩ => ?_)
    · simp [causeWriting, hwarning, hopen]
    · rw [← Bool.not_eq_true, valuesReady_iff]
      exact fun hall => by simp [hall x] at hx
  case reset =>
    have hexec := exec_resetAs hreset
    have hexact := resetAs_permitsExact k s
    rw [resetAs_eq] at hexec hexact
    obtain ⟨hwriter, hwarned, howed, hdraining, hdue, hopen, hcause⟩ :=
      recovered_recorder s k (storeRead (tornStore s)) (tornStore s).isBlank
    obtain ⟨hlen, hage⟩ := recovered_sections s k (storeRead (tornStore s)) (tornStore s).isBlank
    obtain ⟨hcureOf, hcuring⟩ := recovered_cure s k (storeRead (tornStore s)) (tornStore s).isBlank
    obtain ⟨hread, hmax, hattained⟩ := recovered_count s k (storeRead (tornStore s)) (tornStore s).isBlank
    have hlist := fun i => (recovered_list s k (storeRead (tornStore s)) (tornStore s).isBlank i).trans mem_scan_items
    refine ⟨_, hexec, rfl, rfl, rfl, rfl, rfl, rfl, rfl, rfl, fun w => by cases w <;> rfl, fun l => by cases l <;> rfl,
      hexact, fun q => by cases q <;> rfl, hwriter, hwarned, howed, hdraining, hdue, hopen, by rw [hcause]; rfl, hlen, hage,
      recovered_idle s k _ _, hcureOf, hcuring, rfl, ⟨tornStore s, ?store⟩, rfl, rfl, ⟨rfl, hread, hmax, hattained⟩,
      fun n h1 h64 => recovered_data s k h1 h64, fun hval hindex => ?tables, ?directory, ?sections, ?config, ?schedule,
      ?mark⟩
    case store =>
      obtain ⟨htorn, hmarking, hidle⟩ := tornStore_spec s
      refine ⟨htorn, hmarking, hidle, rfl, by rw [hcause]; rfl, ?warned, ?defaulted, ?interrupted, ?blank, ?torn⟩
      case warned =>
        rw [hcause]
        exact warnedBefore_eq (tornStore s)
      case defaulted =>
        rw [hcause]
        exact configDefaulted_eq (tornStore s)
      case interrupted =>
        rw [hcause]
        refine interrupted_eq _ _ k _ (fun d q hq => ?_) fun d hq => ?_
        · have himage : agreeingImage (recoveredAs s k (storeRead (tornStore s)) (tornStore s).isBlank).store d = some q :=
            hq
          simp only [himage]
          cases q.stage <;> rfl
        · have himage : agreeingImage (recoveredAs s k (storeRead (tornStore s)) (tornStore s).isBlank).store d = none :=
            hq
          simp only [himage]
      case blank =>
        intro hblank
        rw [hcause]
        exact if_pos hblank
      case torn =>
        intro hblank hval _
        rw [hcause]
        rw [hblank, storeRead_read hblank] at hval ⊢
        refine torn_eq k hval (fun d hd q hq => ?_) fun d hd hq => ?_
        · have himage : agreeingImage (recoveredAs s k (tornStore s) false).store d = some q := hq
          have hfind : findAnchor (recoveredAs s k (tornStore s) false) d.val =
              some ((scanOf (tornStore s) false).record d) := scan_find hval hd
          simp only [himage, hfind]
          rfl
        · have himage : agreeingImage (recoveredAs s k (tornStore s) false).store d = none := hq
          simp only [himage]
    case tables => exact recovered_tables s k hval hindex
    case directory =>
      rw [hlist]
      simp
    case sections => exact recovered_sectionsWait s k _ _
    case config =>
      rw [hlist]
      simp only [reduceCtorEq, and_false, exists_false, false_or, or_false, and_true]
      rfl
    case schedule =>
      rw [hlist]
      simp only [reduceCtorEq, and_false, exists_false, false_or, or_false, and_true]
      rfl
    case mark =>
      rw [hlist]
      simp only [reduceCtorEq, and_false, exists_false, false_or, and_true]
      rfl

end Sys2Proof.Machine
end
